-- ==== Sys2Proof/Word.lean ====
section
/-! DEFINITION. The word types of the block and the plainest arithmetic over them (spec/00 "Numbers, sizes and bits"). -/

namespace Sys2Proof

abbrev Byte := BitVec 8
abbrev Word16 := BitVec 16
abbrev Word32 := BitVec 32
abbrev Word64 := BitVec 64
/-- A 128-bit sequencer instruction word (spec/06 opening). -/
abbrev InsnWord := BitVec 128
/-- A 256-bit tile descriptor (spec/06 "Registers"). -/
abbrev TileReg := BitVec 256

/-- The bits [hi:lo] of a number, as a number. -/
def bitsOf (hi lo x : Nat) : Nat := (x >>> lo) % 2 ^ (hi + 1 - lo)

/-- Bit `i` of a number. -/
def bitOf (i x : Nat) : Bool := x.testBit i

/-- Round `x` up to a multiple of `m`. -/
def roundUp (x m : Nat) : Nat := ((x + m - 1) / m) * m

end Sys2Proof
end

