-- ==== Sys2Proof/Syntax.lean ====
section
/-! DEFINITION. The commands of the block: one constructor of `Instr` for each row of spec/opcode_table.json, with the
operands that the step takes from outside, and the plain data types those operands are made of. -/

namespace Sys2Proof

/-- Who sends a request on the host port: the host function and the PASID, when one is carried (R40, R388). -/
structure Requester where
  func : BitVec 16
  pasid : Option (BitVec 20)
  deriving DecidableEq, Repr

/-- An agent as the mailboxes, locks and the manager role know it (R388, R395). -/
inductive Agent where
  | host (r : Requester)
  | sideband (eid : BitVec 8)
  | core (id : BitVec 8)
  deriving DecidableEq, Repr

/-- A place that runs programs: a cluster sequencer (0 to 31) or an engine-port proxy (0 to 7). -/
inductive UnitId where
  | cluster (c : Nat)
  | port (p : Nat)
  deriving DecidableEq, Repr

/-- The two phases of an engine instruction: the sequencer issues it (R124), or it acts at the head of engine `eng`'s
queue (R126, R215). -/
inductive Phase where
  | issue
  | head (eng : Nat)
  deriving DecidableEq, Repr

/-- A fabric packet: the header fields of R314 and the payload. `badSyms` is the verdict of the (144,128) code on the
payload (R316): the largest number of bad symbols in any 16 bytes, counted to 2. -/
structure Packet where
  type : Nat
  tc : Nat
  rsp : Bool
  comb : Bool
  winv : Bool
  dnode : Nat
  snode : Nat
  stag : Nat
  win : Nat
  txid : Nat
  len : Nat
  sub : Nat
  fmt : Nat
  epoch : Nat
  addr : Nat
  key : Nat
  status : Nat
  cause : Nat
  payload : List Byte
  badSyms : Nat
  deriving DecidableEq, Repr

/-- A participant of a start gate (R264): node, cluster, context slot and release tally. -/
structure Participant where
  node : Nat
  cluster : Nat
  slot : Nat
  tally : Nat
  deriving DecidableEq, Repr

/-- The fields a `GATE_ARRIVE` carries (R264). The byte places are not given, so they are carried as fields. -/
structure Arrival where
  tag : Nat
  gate : Nat
  gen : Nat
  expected : Nat
  who : Participant
  deriving DecidableEq, Repr

/-- A frame as a link receives it (R312): link tag, the 32 header bytes, padded payload, check bytes; for each RS codeword that carried
it, how many of its symbols were bad (R342); whether its block's GCM tag holds (R344). -/
structure Frame where
  tag : Word64
  header : List Byte
  payload : List Byte
  check : List Byte
  codewords : List Nat
  tagOk : Bool
  deriving DecidableEq, Repr

/-- A start gate at its home (R263); `takeNext` is the mark of R454 step 3. -/
structure Gate where
  free : Bool := true
  tag : Nat := 0
  gen : BitVec 16 := 0
  expected : Nat := 0
  count : Nat := 0
  list : List Participant := []
  takeNext : Bool := false
  deriving DecidableEq, Repr, Inhabited

/-- A segment descriptor (R275). -/
structure Segment where
  vbase : Nat := 0
  npages : Nat := 0
  psize : Nat := 0
  rd : Bool := false
  wr : Bool := false
  at' : Bool := false
  red : Bool := false
  v : Bool := false
  key : Nat := 0
  table : Nat := 0
  deriving DecidableEq, Repr, Inhabited

/-- The states of a queue (R41 `QSTATUS.STATE`); `ABSENT` is a queue that is not listed. -/
inductive QState where
  | idle
  | active
  | stopped
  | quiesced
  deriving DecidableEq, Repr

/-- One queue's entry in a mirrored ledger: its counts and state (R448), with the ring and timeout that R453 step 6 needs. -/
structure LedgerEntry where
  slice : Nat
  queue : Nat
  posted : Nat
  fetched : Nat
  completed : Nat
  state : QState
  ring : Nat
  ringLog2 : Nat
  timeout : Nat
  deriving DecidableEq, Repr

/-- A graph handle in a snapshot or a mirror: its handle entry, its next launch number and both parameter buffers (R384, R448). -/
structure SnapGraph where
  handle : Nat
  base : Nat
  len : Nat
  gen : Nat
  step : Bool
  next : Nat
  even : List Word32
  odd : List Word32
  deriving DecidableEq, Repr

/-- One tally in a mirrored or captured image: unit index (cluster c, or 32 + port), index, the word, `E` and the block. -/
structure TallyEntry where
  unit : Nat
  index : Nat
  word : Nat
  expected : Nat
  block : Nat := 0
  deriving DecidableEq, Repr

/-- What a step image or ledger mirror holds for one slice (R448). Pages travel as stored: their bytes, and for each line the key
slot and key that it was written under. -/
structure MirrorImage where
  slice : Nat
  step : Nat
  isStep : Bool
  ledger : List LedgerEntry := []
  tallies : List TallyEntry := []
  params : List SnapGraph := []
  peers : List Nat := []
  pages : List (Nat × Byte) := []
  lines : List (Nat × Nat × Nat) := []
  gates : List (Nat × Gate) := []
  deriving DecidableEq, Repr

/-- A slice's own configuration: `CREATE_SLICE`'s parameters. -/
structure SliceCfg where
  id : Nat
  identity : Requester
  table : Nat
  tableLog2 : Nat
  deriving DecidableEq, Repr

/-- A share entry of R370. -/
structure Share where
  port : Bool
  unit : Nat
  units : Nat
  firstBank : Nat
  banks : Nat
  deriving DecidableEq, Repr

/-- One block's pool assignment of a slice (R370). -/
structure Pool where
  slice : Nat
  block : Nat
  qlimit : Nat
  epmask : BitVec 8
  clmask : BitVec 32
  windows : Nat
  save : Nat
  shares : List Share
  deriving DecidableEq, Repr

/-- A queue's real-time reservation (R107): units and the clusters named for each block. -/
structure RtShare where
  slice : Nat
  queue : Nat
  units : Nat
  clusters : List (Nat × BitVec 32)
  deriving DecidableEq, Repr

/-- A window-table entry (R309). -/
structure Window where
  block : Nat
  id : Nat
  tbase : Nat
  length : Nat
  owner : Nat
  v : Bool
  rd : Bool
  wr : Bool
  at' : Bool
  red : Bool
  allow : BitVec 22
  amask : BitVec 22
  deriving DecidableEq, Repr

/-- A configuration set (spec/11 "Configuration sets"): the empty set carries an envelope of 2,400 W (spec/17). -/
structure CfgSet where
  serial : Word32 := 0
  slices : List SliceCfg := []
  pools : List Pool := []
  rts : List RtShare := []
  windows : List Window := []
  envelope : Nat := 2400
  deriving DecidableEq, Repr, Inhabited

/-- A queue in a snapshot (R384). -/
structure SnapQueue where
  queue : Nat
  ring : Nat
  ringLog2 : Nat
  owner : Nat
  posted : Nat
  fetched : Nat
  completed : Nat
  timeout : Nat
  deriving DecidableEq, Repr

/-- What a snapshot holds (R384): the manual gives no layout. -/
structure Snapshot where
  queues : List SnapQueue
  tallies : List TallyEntry
  table : Nat
  tableLog2 : Nat
  graphs : List SnapGraph
  deriving DecidableEq, Repr

/-- The contents of a `TETHER` packet (R448, R449, R452): the manual gives no byte layout. -/
inductive TetherMsg where
  | image (img : MirrorImage) (whole : Bool)
  | mirrorSet (set : CfgSet) (lead block : Nat)
  | banks (slice gen : Nat) (segments : List Segment)
  | hostWrite (addr key : Nat) (data : List Byte)
  | key (slot number : Nat)
  | imageAck (slice step : Nat)
  | copyDone
  | heartbeat (lift : Nat) (takeover : Bool)
  | probe
  | probeAnswer
  | pairRequest (mode : Nat) (named : Nat)
  | pairDenied
  | handover
  | finalDone
  | assumed (node : Nat)
  deriving DecidableEq, Repr

/-! ### Configuration sets (spec/11) -/

/-- How a queue stands at its owner, as the owner reports it to the lead; `none` for a queue that does not exist. -/
structure QueueReport where
  slice : Nat
  queue : Nat
  state : Option QState
  posted : Nat
  fetched : Nat
  completed : Nat
  dstatus : Nat
  guilty : Bool
  victim : Bool
  stale : Bool
  resident : Bool
  faultSeq : Option Word32
  deriving DecidableEq, Repr

/-- What a run needs of a program image's header and tally end table (R197, R199). -/
structure Program where
  nwords : Nat
  tallyFirst : Nat
  tallyCount : Nat
  incs : List Nat
  statusBase : Nat
  regInit : Nat
  paramMin : Nat
  proxy : Bool
  deriving DecidableEq, Repr, Inhabited

/-- One execution of a program (spec/06 opening), with the parts of its header that the run uses, its descriptor's tag, the rack
time from which R120 counts, the real-time runs that stood at its doorbell write (R122), and, for a run that another block has
dispatched here, that block (R34, R35). -/
structure Run extends Program where
  id : Nat
  queue : Nat
  desc : Nat
  node : Option (Nat × Nat × Nat)
  prog : Nat
  param : List Byte
  paramVa : Option (Nat × Nat)
  instNo : Nat
  instances : Nat
  rt : Bool
  ready : Nat
  bases : List Nat
  tag : Word32 := 0
  since : Nat := 0
  load : Nat := 0
  home : Option Nat := none
  deriving DecidableEq, Repr

/-- What a block that joins a slice takes of a queue: it is another block's (R34). -/
structure QueueSeed where
  queue : Nat
  owner : Nat
  ring : Nat
  ringLog2 : Nat
  deriving DecidableEq, Repr

/-- What a member has done for a command of the lead: engine entries (R379) or other detail, and for each queue stopped its
number, posted count and `COMPLETED`. -/
structure BlockReport where
  block : Nat
  opcode : Nat
  slice : Nat
  ok : Bool
  entries : List (List Byte)
  queues : List (Nat × Nat × Nat)
  deriving DecidableEq, Repr

/-- Part-internal management traffic (R341, R33, R376): the manual gives no byte layout. -/
inductive MgmtMsg where
  | mirrorSet (set : CfgSet)
  | stageSet (set : CfgSet) (chair : Nat)
  | go (serial : Nat)
  | abort (serial : Nat)
  | syncPrepare (slice gen : Nat)
  | syncSwitch (slice gen tick : Nat)
  | syncAbort (slice gen : Nat)
  | liftCount (count : Nat)
  | slew (tick : Nat) (ns : Int)
  | dispatch (slice : Nat) (r : Run)
  | runDone (slice queue desc : Nat) (node : Option (Nat × Nat × Nat))
  | dropQueue (slice queue : Nat)
  | queueStop (slice queue status : Nat) (seq : Word32)
  | joinSlice (slice gen : Nat) (inForce staged : List Segment) (queues : List QueueSeed)
    (logs : List (Nat × Nat × Nat))
  | install (slice : Nat) (im : Snapshot)
  | logPrepare (slice segment : Nat)
  | logReady (slice segment block : Nat)
  | logSwitch (slice segment : Nat) (stop : Bool) (tick : Nat)
  | command (opcode slice : Nat) (params : List Byte) (tick : Nat)
  | queueReport (r : QueueReport)
  | blockReport (r : BlockReport)
  | dirtyBit (pa bit : Nat)
  | powerGrant (levels : List Nat)
  deriving DecidableEq, Repr

/-- An election status frame (R536). -/
structure StatusFrame where
  blkId : Nat
  eligible : Bool
  calFail : Nat
  configHash : Nat
  deriving DecidableEq, Repr

/-- What the surroundings and self-tests show at the end of a start-up phase (R530, R531, R541): the verdict of the phase's checks is
`code` (0 when all pass, otherwise the `CAL_FAIL` code of R543); arrays (cluster and number) and clusters that failed phase 3; the node
IDs of the part's blocks that phase 7 has shown. -/
structure PhaseReport where
  code : Nat
  arraysFailed : List (Nat × Nat)
  clustersFailed : List Nat
  nodes : List (Nat × Nat)
  deriving DecidableEq, Repr

/-- The straps that the block samples at the rise of `BLK_RST_N` (R494). -/
structure Straps where
  blkId : Nat
  hpPresent : Bool
  epPresent : BitVec 8
  deriving DecidableEq, Repr

/-- A fault record (R419), field by field. -/
structure FaultRecord where
  seqBlock : Nat := 0
  seqCount : Nat := 0
  cause : Nat := 0
  guilty : Bool := false
  victim : Bool := false
  noQueue : Bool := false
  noSlice : Bool := false
  resumable : Bool := false
  block : Nat := 0
  tick : Nat := 0
  slice : Nat := 0
  queue : Nat := 0
  context : Nat := 0
  engine : Nat := 0
  ports : Nat := 0
  dstatus : Nat := 0
  addr : Nat := 0
  pc : Nat := 0
  desc : Nat := 0
  tag : Nat := 0
  sharers : Nat := 0
  detail : Nat := 0
  deriving DecidableEq, Repr

/-- An MCTP message on the sideband (R523). -/
inductive MctpMsg where
  | control (bytes : List Byte)
  | vendor (packet : List Byte)
  | other (type : Nat)
  deriving DecidableEq, Repr

/-- A host request TLP that is neither a Memory Read nor a Memory Write the block serves, or that names no region of
R498: whether it needs a completion (R497). -/
structure OtherTlp where
  requester : Requester
  needsCompletion : Bool
  poisonedWriteBar : Option Nat
  deriving DecidableEq, Repr

/-- Where a `LIFT` packet comes from (R319). -/
inductive LiftFrom where
  | group (g : Nat)
  | lead
  | elsewhere
  deriving DecidableEq, Repr

/-- Why an engine enters rung 1 (R428). -/
inductive RungCause where
  | notStopped
  | controlError
  deriving DecidableEq, Repr

/-- What a licensee's engine asks for in a DMA request (R511). -/
structure EngineDma where
  write : Bool
  va : Nat
  len : Nat
  call : Nat
  tag : Nat
  data : List Byte
  deriving DecidableEq, Repr

/-- Why a member leaves deep idle (R553). -/
inductive WakeCause where
  | commit
  | wakeSource
  | leadRequest
  deriving DecidableEq, Repr

/-- What one block reports to the governor for a chair (R554, R562, R515): the estimated draw of its clusters in watts, the
cycles in which its engines were issuing, of every 4,096, and the engine ports it has and those that show no acknowledgement. -/
structure DrawReport where
  block : Nat
  draw : Nat
  issuing : Nat
  present : BitVec 8
  late : BitVec 8
  deriving DecidableEq, Repr

/-- A doorbell write as the lead forwards it: the value, 0 for a malformed write, and the tick of its acceptance (R34, R35, R42). -/
structure ForwardedWrite where
  value : Word64
  tick : Nat
  deriving DecidableEq, Repr

/-- What a `LIFT` packet carries: its count, and its `LEN` (R92, R318). -/
structure LiftPayload where
  count : Word64
  len : Nat
  deriving DecidableEq, Repr

/-- The page whose walk returns, and whether the entry's read met an error that cannot be corrected (R283, R289). -/
structure WalkedPage where
  page : Nat
  err : Bool
  deriving DecidableEq, Repr

/-- The commands of the block, one constructor for each row of spec/opcode_table.json. -/
inductive Instr where
  -- the AQI front end (spec/02)
  | doorbellWrite (id : Requester) (offset size : Nat) (value : Word64)
  | doorbellForward (slice queue : Nat) (value : ForwardedWrite)
  | descriptorFetch (slice queue : Nat)
  | nop (slice queue : Nat)
  | launch (slice queue : Nat)
  | launchGraph (slice queue : Nat)
  | copy (slice queue : Nat)
  | fill (slice queue : Nat)
  | signal (slice queue : Nat)
  | wait (slice queue : Nat)
  | waitReread (slice queue : Nat)
  | fence (slice queue : Nat)
  | descriptorComplete (slice queue index : Nat)
  | queueTimeout (slice queue : Nat)
  | graphNodeStart (slice handle launch node : Nat)
  | runStart (unit : UnitId) (slice : Nat)
  | runComplete (unit : UnitId) (slice run : Nat)
  -- control and scalar instructions (spec/06)
  | br (unit : UnitId)
  | loop (unit : UnitId)
  | endloop (unit : UnitId)
  | halt (unit : UnitId)
  | add (unit : UnitId)
  | shl (unit : UnitId)
  | ldp (unit : UnitId)
  | mov (unit : UnitId)
  -- engine instructions (spec/04, spec/06)
  | dmaLd (unit : UnitId) (ph : Phase)
  | dmaSt (unit : UnitId) (ph : Phase)
  | dmaCopy (unit : UnitId) (ph : Phase)
  | dmaBcast (unit : UnitId) (ph : Phase)
  | gather (unit : UnitId) (ph : Phase)
  | scatter (unit : UnitId) (ph : Phase)
  | walk (unit : UnitId) (ph : Phase)
  | sort (unit : UnitId) (ph : Phase)
  | merge (unit : UnitId) (ph : Phase)
  | isect (unit : UnitId) (ph : Phase)
  | union (unit : UnitId) (ph : Phase)
  | mma (unit : UnitId)
  | mmaC (unit : UnitId)
  | mmaX (unit : UnitId)
  | mmaCx (unit : UnitId)
  | arrayInstructionStart (unit : UnitId) (eng : Nat)
  | arrayWriteback (unit : UnitId) (eng quad : Nat)
  | vop (unit : UnitId) (ph : Phase)
  | vred (unit : UnitId) (ph : Phase)
  | put (unit : UnitId) (ph : Phase)
  | get (unit : UnitId) (ph : Phase)
  | atom (unit : UnitId) (ph : Phase)
  | reduce (unit : UnitId) (ph : Phase)
  | psig (unit : UnitId) (ph : Phase)
  | sig (unit : UnitId) (ph : Phase)
  | waitge (unit : UnitId) (ph : Phase)
  | waitgeWake (unit : UnitId) (eng : Nat)
  | pairchkDeclare (unit : UnitId) (ph : Phase)
  | pairchkDissolve (unit : UnitId) (ph : Phase)
  | gate (unit : UnitId) (ph : Phase)
  | epcall (unit : UnitId) (ph : Phase)
  | engineInstructionComplete (unit : UnitId) (eng : Nat)
  -- the lift clock and chairs (spec/03)
  | liftTick
  | chairBoundary
  | planFix
  | relayZoneOpen
  | stagedSetConfirm (block : Nat)
  | commitGo
  | slotEnd (unit : UnitId)
  | contextSaveDone (slice : Nat) (unit : UnitId)
  | contextLoadDone (slice : Nat) (unit : UnitId)
  | liftPacket (source : LiftFrom) (count : LiftPayload)
  | liftRefEdge
  | liftHoldover
  -- fabric arrivals (spec/07, spec/09, spec/13)
  | fabricRead (p : Packet)
  | fabricWrite (p : Packet)
  | fabricAtom (p : Packet)
  | fabricReduce (p : Packet)
  | fabricSig (p : Packet)
  | gateArrive (p : Packet) (a : Arrival)
  | gateRelease (p : Packet) (gate gen : Nat)
  | syncOrder (unit : UnitId) (source epoch : Nat)
  | tether (p : Packet) (m : TetherMsg)
  | mgmt (p : Packet) (m : MgmtMsg)
  | stepCtlAbort (p : Packet)
  | stepCtlRestart (p : Packet)
  | fabricResponse (p : Packet)
  | fabricRetryResend (txid : Nat)
  -- links and lanes (spec/09, spec/15)
  | linkFrame (group : Nat) (f : Frame)
  | linkRetrainDone (group : Nat) (up : Bool)
  | laneInject (lane : Nat)
  | laneSignalChange (lane : Nat) (sigdet cdrLock : Bool)
  | laneStateExitDone (group : Nat)
  | fabricTrainingDone (group : Nat) (trained : Bool) (lanes : BitVec 6) (node : Nat) (session : Bool)
  | phyCalDone (group : Nat) (ok : Bool)
  -- translation (spec/08)
  | translationWalkReturn (slice segment : Nat) (page : WalkedPage)
  | syncPrepare (slice gen : Nat)
  | syncAck (slice block : Nat)
  | syncAckTimeout (slice : Nat)
  | syncSwitch (slice : Nat)
  | syncDrainDone (slice block : Nat)
  -- manager commands (spec/11): the accepted command with this sequence number takes its step
  | createSlice (seq : Word32)
  | destroySlice (seq : Word32)
  | quiesce (seq : Word32)
  | resume (seq : Word32)
  | resetSlice (seq : Word32)
  | assignPool (seq : Word32)
  | createQueue (seq : Word32)
  | destroyQueue (seq : Word32)
  | setTimeout (seq : Word32)
  | setRtShare (seq : Word32)
  | mapSegment (seq : Word32)
  | unmapSegment (seq : Word32)
  | syncTables (seq : Word32)
  | startDirtyLog (seq : Word32)
  | readDirtyLog (seq : Word32)
  | stopDirtyLog (seq : Word32)
  | setWindow (seq : Word32)
  | clearWindow (seq : Word32)
  | dumpSync (seq : Word32)
  | setTally (seq : Word32)
  | pairTwin (seq : Word32)
  | pairTwinTimeout
  | unpair (seq : Word32)
  | failover (seq : Word32)
  | snapshot (seq : Word32)
  | readFaults (seq : Word32)
  | attest (seq : Word32)
  | openKeySession (seq : Word32)
  | releaseKey (seq : Word32)
  | loadWeights (seq : Word32)
  | resurface (seq : Word32)
  | resurfaceZeroDone (slice cluster : Nat)
  | setEnvelope (seq : Word32)
  | setSchuss (seq : Word32)
  | laneTest (seq : Word32)
  | laneState (seq : Word32)
  | queryCaps (seq : Word32)
  | fwUpdateBegin (seq : Word32)
  | fwUpdateStage (seq : Word32)
  | fwHandoff (seq : Word32)
  | fwHandoffAck (schemaRead : Bool)
  | fwHandoffTimeout
  | readTelemetry (seq : Word32)
  | claimManager (seq : Word32)
  | leaseRenew (seq : Word32)
  | leaseWarning
  | leaseExpiry
  | editShadow (seq : Word32)
  | commitShadow (seq : Word32)
  -- recovery (spec/13)
  | resetRung (unit : UnitId) (eng : Nat) (why : RungCause)
  | rungLimitExpiry (ladder : Nat)
  | rungComplete (ladder : Nat) (back : List Nat)
  | schedWatchdog (core : Nat)
  | schedRestart (core : Nat) (ok : Bool)
  | lockstepMismatch
  | lockstepRestart
  | faultRecordArrive (rec : FaultRecord)
  | patrolRun (unit : UnitId) (eng : Nat) (second third : Word64)
  | patrolDiscard (unit : UnitId) (eng : Nat)
  | stepImage (slice : Nat)
  | twinHeartbeatTimeout
  | twinProbeTimeout
  | remapAck
  -- mailboxes and the host channel (spec/12)
  | mbxDataWrite (who : Agent) (mbx index : Nat) (value : Word32)
  | mbxSend (who : Agent) (mbx : Nat)
  | mbxAck (who : Agent) (mbx : Nat)
  | mbxLockClaim (who : Agent) (mbx : Nat) (num : Word16)
  | mbxLockRelease (who : Agent) (mbx : Nat) (num : Word16)
  | resetMailbox (mbx : Nat)
  | mbxReplyTimeout
  | channelLockIdle
  | reqTailWrite (who : Agent) (value : Word32)
  | rplHeadWrite (who : Agent) (value : Word32)
  | channelRequestTake
  -- the interrupt unit (spec/12)
  | interruptEvent (source : Nat)
  | interruptForward (source : Nat)
  | icuPendWrite (index : Nat) (value : Word32)
  | icuGdisWrite (gdis : Bool)
  | interruptMessage
  | icuHoldoffExpiry (group : Nat)
  | coreInterruptTake (core : Nat)
  | wakeLatch (source : Nat)
  -- other host-port traffic (spec/13, spec/15, spec/18)
  | fqStatusWrite (value : Word32)
  | registerWrite (who : Agent) (offset size : Nat) (value : Word64)
  | apertureRead (id : Requester) (offset len tag : Nat)
  | apertureWrite (id : Requester) (offset : Nat) (data : List Byte)
  | hostOtherTlp (t : OtherTlp)
  | hostLinkDown
  -- memory controllers and engine ports (spec/15)
  | memoryReadResponse (port tag : Nat) (err : Bool)
  | memoryWriteAck (port tag : Nat)
  | engineCallDone (port call : Nat)
  | engineDmaRequest (port : Nat) (r : EngineDma)
  | engineSignal (port call tally amount : Nat)
  | engineWait (port slot call tally threshold : Nat)
  | engineThrottleAck (port level : Nat)
  | throttleAckTimeout (port : Nat)
  -- power (spec/17)
  | governorStage (reading : Option Nat) (reports : List DrawReport)
  | vrAlert
  | clampEnd
  | thermalTrip (block : Nat)
  | deepIdleWake (why : WakeCause)
  -- resets, start-up, fuses, debug and sideband (spec/14, spec/15, spec/16)
  | aoRstN (level : Bool)
  | blkRstN (level : Bool) (straps : Straps)
  | startupPhaseEnd (r : PhaseReport)
  | phaseLimit (code : Nat)
  | statusFrame (f : StatusFrame)
  | electionClose
  | leadLost
  | ready
  | fusePgmDone (bit : Nat)
  | debugUnlock (signed : Bool)
  | debugDenied
  | mctpMessage (eid : BitVec 8) (m : MctpMsg)
  -- rows at the end of the table
  | laneCheckerLock (lane : Nat)
  | laneCheckerLoss (lane : Nat)
  | d2dPortStateChange (port : Nat) (status : Nat) (present : Bool) (paths : List (Nat × Nat × Nat))
  | linkKeyUpdate (group : Nat)
  | coreVoltageReached
  | powerDomainOn (domain : Nat)
  deriving DecidableEq, Repr

end Sys2Proof
end

