-- ==== Sys2Proof/Config.lean ====
section
/-! DEFINITION. What the manual leaves open or gives to the surroundings: uninterpreted constants with no value that a
proof could see, and the fixed figures of block version 3.2. -/

namespace Sys2Proof.Config

/-- What a 64-byte line reads as under slot `slot` holding key number `key`, when the line was not written under that
key since the last start-up (R579): `none` for two bad symbols, `some n` for arbitrary bytes. FREE VALUE (log 8). -/
opaque garbageLine (line slot key : Nat) : Option Nat

/-- The special functions of R160: a fixed function of the input bits, which `Machine.specialFn` holds to its bound. FREE VALUE (log 9). -/
opaque sfExp : Word32 → Word32
opaque sfLog : Word32 → Word32
opaque sfRsqrt : Word32 → Word32
opaque sfSigmoid : Word32 → Word32

/-- Whether a flash image passes the signature and tag of R473. FREE VALUE (log 10). -/
opaque imageVerifies : List (Nat × Byte) → Bool
/-- The revision an image's header carries. FREE VALUE (log 10). -/
opaque imageRevision : List (Nat × Byte) → Word32
/-- The security version, 0 to 63, an image's header carries (R473). FREE VALUE (log 10). -/
opaque imageSecurity : List (Nat × Byte) → BitVec 6
/-- The configuration block of R522 an image's header carries, bytes 0 to 63. FREE VALUE (log 10). -/
opaque imageConfig : List (Nat × Byte) → BitVec 512
/-- The SHA-384 of a configuration block (R536). FREE VALUE (log 10). -/
opaque configHash : BitVec 512 → Nat

/-- The SPDM measurement report that `ATTEST` writes (R478), drawn for the `n`-th free value. FREE VALUE (log 11). -/
opaque attestReport (n : Nat) (nonce : List Byte) (sliceNamed : Bool) : List Byte
/-- The bytes of an SPDM message in a buffer: the command gives no length (R480). FREE VALUE (log 11). -/
opaque spdmLength : Nat
/-- The SPDM answer to a `KEY_EXCHANGE`, or none when it fails its checks (R471, R480). FREE VALUE (log 11). -/
opaque spdmResponse (n : Nat) (message : List Byte) : Option (List Byte)
/-- A wrapped weight key opened under a session: `none` when unwrapping fails, otherwise the slice tag and whether the
hash in it is that of measurement block 7 (R480). FREE VALUE (log 11). -/
opaque unwrapKey (session : Nat) (wrapped : List Byte) : Option (Nat × Bool)
/-- AES-256-GCM opening of one chunk of weights under the `k`-th released key (R481). FREE VALUE (log 11). -/
opaque openChunk (k nonce aad : Nat) (chunk : List Byte) : Option (List Byte)

/-- A free number, for values the manual gives no rule for (telemetry report lengths and the like). FREE VALUE (log 4). -/
opaque freeNat : Nat → Nat
/-- Telemetry bytes for a selector the manual gives no layout for. FREE VALUE (log 12). -/
opaque telemetryBytes (n selector : Nat) : List Byte
/-- Die temperature (0.125 °C, 16 bits) and core voltage (mV) at a patrol mismatch (R442). FREE VALUE (log 4). -/
opaque dieTemperature : Nat → BitVec 16
opaque coreMillivolts : Nat → BitVec 16
/-- The bytes of a `SNAPSHOT` image are not laid out (R384): how a captured image is written, and how bytes are read back,
`none` where the image's check fails. FREE VALUES (log 13). -/
opaque snapshotBytes : Snapshot → List Byte
opaque snapshotImage : List Byte → Option Snapshot
/-- Where in the save area a unit's part lies and the bytes that a save writes there: the manual gives the area's size alone (R110,
R113). FREE VALUE (log 58). -/
opaque saveImage (unit : Nat) (tallies : List (Nat × Nat)) (sram : List (Nat × Byte)) : Nat × List Byte
/-- What a load makes of a save area that no longer holds the bytes that were written there (R114): a tally's word and the live
bytes. FREE VALUES (log 58). -/
opaque loadedTally (n tally : Nat) : Nat
opaque loadedSram (n : Nat) : List (Nat × Byte)
/-- The answer to an MCTP control message (R523). FREE VALUE (log 14). -/
opaque mctpAnswer (n : Nat) (request : List Byte) : List Byte

/-- A page-table entry read from the memory of another block of the part: its bytes lie outside this block's state;
`none` for an uncorrectable read (R279, R281). FREE VALUE (log 15). -/
opaque remoteEntry (n pa : Nat) : Option Word64

/-- Bytes of a ring, handle table, program or parameter block that lie in another block's memory (log 15). FREE VALUE. -/
opaque remoteBytes (n pa len : Nat) : Option (List Byte)

/-- The `ADDR` field of a `PEER_ABSENT` record, which names the home node and the gate in no stated layout (R268).
FREE VALUE (log 21). -/
opaque peerAbsentAddr (home gate : Nat) : Nat

/-- The payload bytes of `GATE_ARRIVE` and `GATE_RELEASE`, whose fields have no stated places (R264, R266). FREE VALUES
(log 22). -/
opaque arrivalPayload (tag gate gen expected : Nat) (who : Participant) : List Byte
opaque releasePayload (gate gen : Nat) : List Byte

/-- `ADDR` and `DETAIL` of a `SET_UNSORTED` record, which give the list and the position in no stated layout (R159). FREE
VALUES (log 24). -/
opaque unsortedAddr (list position : Nat) : Nat
opaque unsortedDetail (list position : Nat) : Nat

/-- The bad symbols that the (144,128) code finds in a payload with its check bytes, counted to 2: the code is not given (R137,
R316). FREE VALUE (log 42). -/
opaque symbolVerdict : List Byte → List Byte → Nat

/-- The check bytes of payload bytes that the block sends: the code is not given (R316). FREE VALUE (log 42). -/
opaque checkBytes : List Byte → List Byte
/-- The bit errors that a locked checker finds in a lane in one lift tick (R349). FREE VALUE (log 43). -/
opaque laneErrors : Nat → Nat
/-- Which of the port groups that carry traffic takes a frame (R329). FREE VALUE (log 42). -/
opaque linkChoice : Nat → Nat

/-- The next state of an array's 16-bit linear-feedback counter, whose taps are not given (R439). FREE VALUE (log 25). -/
opaque patrolNext : BitVec 16 → BitVec 16

/-- The core ID of the management processor, and the local address of the request ring that the firmware reserves, a
multiple of 64 KiB below 2^32: neither is given (R388, R405). FREE VALUES (log 26). -/
opaque managementCore : BitVec 8
opaque ringPlace : BitVec 16

/-- Lift ticks in a chair (R20). -/
def chairTicks : Nat := 16384
/-- First tick of the relay zone, and of its settle part (spec/03 "Chairs and the relay zone"). -/
def relayTick : Nat := 16128
def settleTick : Nat := 16352
/-- A lease in ticks (R356). -/
def leaseTicks : Nat := 78125000
def leaseWarnTicks : Nat := 62500000
/-- The timeout of a new queue (R80). -/
def defaultTimeout : Nat := 1562500

end Sys2Proof.Config
end

