-- ==== Sys2Proof/Machine/Sparse.lean ====
section
/-! DEFINITION. Sparse tables: lists of (key, value) pairs with strictly rising keys. `get?`/`put` list every written
key; `get d`/`set d` keep only the entries that differ from a default `d`, so that equal tables are equal data. -/

namespace Sys2Proof.Machine.Sparse

variable {β : Type}

/-- The value at key `k`, when one is listed. -/
def get? : List (Nat × β) → Nat → Option β
  | [], _ => none
  | (i, v) :: m, k => if k = i then some v else get? m k

/-- List `v` at key `k`, in place of any earlier value. -/
def put : List (Nat × β) → Nat → β → List (Nat × β)
  | [], k, v => [(k, v)]
  | (i, w) :: m, k, v =>
    if k < i then (k, v) :: (i, w) :: m
    else if k = i then (k, v) :: m
    else (i, w) :: put m k v

/-- Remove any value listed at key `k`. -/
def del : List (Nat × β) → Nat → List (Nat × β)
  | [], _ => []
  | (i, w) :: m, k => if k = i then m else (i, w) :: del m k

/-- The value at key `k`, `d` where none is listed. -/
def get (d : β) (m : List (Nat × β)) (k : Nat) : β := (get? m k).getD d

/-- Store `v` at key `k`; the default is stored by listing nothing. -/
def set [DecidableEq β] (d : β) (m : List (Nat × β)) (k : Nat) (v : β) : List (Nat × β) :=
  if v = d then del m k else put m k v

/-- The canonical form: keys strictly rising. -/
def sorted : List (Nat × β) → Bool
  | [] => true
  | [_] => true
  | (i, _) :: (j, w) :: m => decide (i < j) && sorted ((j, w) :: m)

/-- The canonical form of a table with a default: keys strictly rising and no entry equal to the default. -/
def wf [DecidableEq β] (d : β) (m : List (Nat × β)) : Bool := sorted m && m.all (fun e => decide (e.2 ≠ d))

/-- Store the bytes of a list at consecutive keys. -/
def putList (m : List (Nat × β)) (k : Nat) : List β → List (Nat × β)
  | [] => m
  | v :: vs => putList (put m k v) (k + 1) vs

/-- Store a list at consecutive keys of a table with a default. -/
def setList [DecidableEq β] (d : β) (m : List (Nat × β)) (k : Nat) : List β → List (Nat × β)
  | [] => m
  | v :: vs => setList d (set d m k v) (k + 1) vs

/-- Remove the keys from `k` to `k + n - 1`. -/
def delRange (m : List (Nat × β)) (k n : Nat) : List (Nat × β) :=
  m.filter (fun e => decide (e.1 < k) || decide (k + n ≤ e.1))

end Sys2Proof.Machine.Sparse
end

