-- ==== Sys2Proof/Machine/State.lean ====
section
/-! DEFINITION. The state of the block as plain data: every register, buffer, counter, mode and pin the manual gives it,
the queue of commands that wait, and `State.reset`, the block at the rise of `BLK_RST_N`. -/

namespace Sys2Proof.Machine

/-- Why the machine stops with a fault. -/
inductive Fault where
  /-- A command names a lane, port, port group, mailbox, core, register index or memory port that the block does not
  have. Raised by the commands whose operand is the number of such a place; `Instr.wellFormed` refuses every such
  command. Safe: the machine stops where the hardware has no such event. -/
  | noSuchPlace
  deriving DecidableEq, Repr

/-- Why the machine refuses a command. -/
inductive Refusal where
  /-- A row of the table without its meaning. Raised by arms of `exec` only. Safe. -/
  | notModelled (mnemonic : String)
  deriving DecidableEq, Repr

/-! ### Numbers held in state -/

/-- An XR192 accumulator or element (R176): `v` times 2 to the `anchor`. -/
structure XR where
  v : Int := 0
  anchor : Int := 0
  range : Bool := false
  invalid : Bool := false
  uf : Nat := 0
  deriving DecidableEq, Repr, Inhabited

/-- One element of an output tile: an FP32 or an XR192 accumulator (spec/04 "Split arrays"). -/
inductive Acc where
  | fp (bits : Word32)
  | xr (x : XR)
  deriving DecidableEq, Repr, Inhabited

/-! ### Tallies, mailboxes and gates (spec/07) -/

/-- A tally word (R237). -/
structure Tally where
  owner : BitVec 8 := 0
  paired : Bool := false
  poison : Bool := false
  sat : Bool := false
  value : BitVec 48 := 0
  deriving DecidableEq, Repr, Inhabited

/-- A signal held in a landing mailbox until its writes land (R258, R259). -/
structure HeldSignal where
  unit : UnitId
  slice : Nat
  source : Nat
  epoch : Nat
  need : Nat
  tally : Nat
  amount : Nat
  since : Nat
  request : Packet
  deriving DecidableEq, Repr

/-- An increment held while its context's tallies are out (R262). -/
structure HeldIncrement where
  unit : UnitId
  slice : Nat
  tally : Nat
  amount : Nat
  deriving DecidableEq, Repr

/-- A write counter (R258), with the slice tag of the write or signal that allocated it. -/
structure WriteCounter where
  source : Nat
  epoch : Nat
  landed : Nat
  tag : Nat
  deriving DecidableEq, Repr

/-! ### Configuration sets (spec/11) -/

/-- A pending commit (R367): the command that asked for it, the chair in whose relay zone it is staged, the blocks that
have confirmed, and the lead's decision. -/
structure Commit where
  seq : Word32
  chair : Nat
  next : CfgSet
  confirms : List Nat
  go : Option Bool
  deriving DecidableEq, Repr

/-- The configuration sets of R365 and R366. `edited` is 1 while uncommitted edits are held. -/
structure Cfg where
  active : CfgSet := {}
  shadow : CfgSet := {}
  rollback : Option CfgSet := none
  edited : Bool := false
  commit : Option Commit := none
  deriving DecidableEq, Repr, Inhabited

/-! ### Slices, queues and descriptors (spec/02, spec/08) -/

/-- An open `SYNC_TABLES` (R301). -/
structure Sync where
  seq : Word32
  gen : Nat
  since : Nat
  acks : List Nat
  switchTick : Option Nat
  switched : Bool
  drained : List Nat
  deriving DecidableEq, Repr

/-- A dirty-log swap that a `READ_DIRTY_LOG` or `STOP_DIRTY_LOG` has begun (R308): the segment, whether the log stops, the tick it
began, the blocks that are ready and the swap tick once it is fixed. -/
structure LogSwap where
  segment : Nat
  stop : Bool
  since : Nat
  acks : List Nat
  swapTick : Option Nat
  deriving DecidableEq, Repr

/-- A running dirty log (R306). -/
structure DirtyLog where
  segment : Nat
  active : Nat
  shadow : Nat
  deriving DecidableEq, Repr

/-- A descriptor's relocated request (R52 to R58). Addresses are virtual. -/
inductive DescOp where
  | nop
  | fence
  | launch (prog : Nat) (p : Program) (params paramLen instances target : Nat)
  | launchGraph (handle image len gen : Nat) (patches : List (Nat × Word32))
  | copy (src dst len : Nat)
  | fill (dst len psize : Nat) (pattern : Word64)
  | signal (va : Nat) (value : Word64)
  | wait (va : Nat) (value : Word64)
  deriving DecidableEq, Repr

/-- How far a descriptor has come. -/
inductive DescPhase where
  | fetched
  | started
  | done
  deriving DecidableEq, Repr

/-- A descriptor that the front end has fetched and that `COMPLETED` has not passed: the tick at which the lead's host port accepted
the doorbell write that covers it, the slice's real-time runs in flight then (R122), and the tick since which guarantees 4 and 5 of
R77 let it start (R120). -/
structure Desc where
  index : Nat
  tag : Word32
  ordered : Bool
  op : DescOp
  phase : DescPhase
  runsLeft : Nat := 0
  timed : Bool := false
  rung : Nat := 0
  load : Nat := 0
  freeAt : Option Nat := none
  deriving DecidableEq, Repr

/-- An accepted doorbell write that descriptors still wait on: its posted count, the tick at which the lead's host port accepted it
and the slice's real-time runs in flight here then (R120, R122). -/
structure Ring where
  posted : Nat
  tick : Nat
  load : Nat
  deriving DecidableEq, Repr

/-- A queue and its ledger entry (spec/02, spec/03 "The doorbell and the idle queue"). `ownerResident` is what a member that owns the
queue has last reported of its context (R34, R115). -/
structure Queue where
  slice : Nat
  id : Nat
  owner : Nat
  ring : Nat
  ringLog2 : Nat
  posted : Nat := 0
  completed : Nat := 0
  fetched : Nat := 0
  armed : Bool := false
  rung : Bool := false
  stale : Bool := false
  victim : Bool := false
  guilty : Bool := false
  rt : Bool := false
  state : QState := .idle
  dstatus : Nat := 0
  faultSeq : Option Word32 := none
  timeout : Nat := 1562500
  newTimeout : Option Nat := none
  timer : Nat := 0
  quiescing : Bool := false
  rings : List Ring := []
  waitingSince : Nat := 0
  mirrored : Nat := 0
  ownerResident : Bool := false
  descs : List Desc := []
  deriving DecidableEq, Repr

/-- A node of a checked graph image (R234). -/
structure GNode where
  prog : Nat
  program : Program
  pfirst : Nat
  pwords : Nat
  instances : Nat
  target : Nat
  deriving DecidableEq, Repr

/-- One launch of a graph: its number, its descriptor and, per node, the runs left (`none` before the node starts). -/
structure GLaunch where
  number : Nat
  queue : Nat
  desc : Nat
  ordered : Bool
  nodes : List (Option Nat)
  stepNo : Nat
  imageAcked : Bool
  imageSent : Bool
  deriving DecidableEq, Repr

/-- The parameter state of a graph handle (R71 to R76): what was checked, the two buffers, and the launches. -/
structure Graph where
  handle : Nat
  base : Nat
  len : Nat
  gen : Nat
  step : Bool
  nodes : List GNode
  edges : List (Nat × Nat)
  even : List Word32
  odd : List Word32
  next : Nat
  lastStart : Nat
  queues : List Nat
  launches : List GLaunch
  deriving DecidableEq, Repr

/-- The chair of a resurfacing and the command that waits for its end (R483). -/
structure Resurf where
  chair : Nat
  clusters : List Nat
  zeroed : List Nat
  ports : List Nat
  seq : Option Word32
  destroy : Bool
  command : Bool := false
  deriving DecidableEq, Repr

/-- A slice's run-control word (R16, R17): the queues that a quiesce or reset asks to stop, with whether it is forced and whether it is
a reset; the last `RESUME`, by selector and number; the generation asked for; and the field that the control plane writes, which lists
what was stopped on each engine once the request is done. -/
structure RunControl where
  stop : List Nat := []
  force : Bool := false
  reset : Bool := false
  resume : Option (Nat × Nat) := none
  gen : Option Nat := none
  ack : Option (List (List Byte)) := none
  deriving DecidableEq, Repr, Inhabited

/-- A slice at run time. `table` is the handle table that an installed snapshot has brought (R384); `era` counts the generation
switches and log swaps of the slice, by which R301 and R308 know earlier accesses; `abortedFor` lists the nodes for which the slice's step is aborted (R454); `dirtyPages` is the tether's own dirty log (R448): segment and page. The slices of a node that this block
has assumed have numbers from 1,024 up: 1,024 more than their own (R456, log 38). -/
structure Slice where
  id : Nat
  inForce : List Segment
  staged : List Segment
  gen : Nat := 1
  sync : Option Sync := none
  dirty : List DirtyLog := []
  logSwap : Option LogSwap := none
  rejectedWrites : Nat := 0
  apertureFailures : Nat := 0
  corrections : Nat := 0
  graphs : List Graph := []
  runs : List Run := []
  nextRun : Nat := 0
  peers : List Nat := []
  step : Nat := 0
  aborted : Bool := false
  abortedFor : List Nat := []
  resurf : Option Resurf := none
  history : List (Nat × Nat × Nat × Bool) := []
  dirtyPages : List (Nat × Nat) := []
  ctl : RunControl := {}
  table : Option (Nat × Nat) := none
  era : Nat := 0
  deriving DecidableEq, Repr

/-! ### Contexts, sequencers and engines (spec/03, spec/04, spec/06) -/

/-- What an evicted context holds in its save area (R113): its tallies with owners, its live SRAM bytes and the words among them with
two bad symbols by unit, and the units whose part has been written to memory. -/
structure Saved where
  tallies : List (Nat × Tally)
  sram : List (Nat × Byte)
  errs : List (Nat × Nat) := []
  written : List Nat := []
  deriving DecidableEq, Repr

/-- A context: a slice's presence on this block (spec/00 "Terms", R110 to R115). -/
structure Context where
  slice : Nat
  slot : Nat
  resident : Bool
  shown : Bool
  pinned : Bool
  wanting : Option Nat
  lastDispatch : Nat
  enteredChair : Nat
  saving : List UnitId
  loading : List UnitId
  saved : Option Saved
  deriving DecidableEq, Repr

/-- An open counted loop (R219): the word of its `LOOP`, of its `ENDLOOP`, the passes left and the index register. -/
structure LoopEntry where
  start : Nat
  stop : Nat
  left : Nat
  index : Nat
  pass : Nat
  deriving DecidableEq, Repr

/-- The sequencer's state for the run it issues for (spec/06 "Registers", R217 to R219). -/
structure Seq where
  run : Run
  pc : Nat := 0
  s : List (Nat × Word64) := []
  a : List (Nat × Word64) := []
  t : List (Nat × TileReg) := []
  loops : List LoopEntry := []
  deriving DecidableEq, Repr

/-- An instruction in an engine queue, with the register values it was issued with (log 7). -/
structure EngInsn where
  id : Nat
  eng : Nat
  word : InsnWord
  pc : Nat
  run : Nat
  queue : Nat
  tD : List TileReg
  tS1 : List TileReg
  tS2 : List TileReg
  tS3 : TileReg
  tV : TileReg
  ar : Word64
  ar2 : Word64
  sX : Word64
  sY : Word64
  started : Bool := false
  issued : Bool := false
  moved : Nat := 0
  written : Nat := 0
  count : Nat := 0
  overflow : Bool := false
  rowBuf : List (Nat × Byte) := []
  fault : Option FaultRecord := none
  deriving DecidableEq, Repr

/-- Accumulators held by accumulate-in-place (R144): whole or carve mode, exact or normal, the anchor, the elements. -/
structure Held where
  whole : Bool
  exact : Bool
  anchor : Int
  elems : List Acc
  deriving DecidableEq, Repr

/-- A quadrant of a split array: the instruction it is busy with and the tile it is forming, and what it holds. -/
structure Quad where
  busy : Option Nat := none
  result : List Acc := []
  held : Option Held := none
  deriving DecidableEq, Repr, Inhabited

/-- A producer-consumer pair (R243, R244), with the run that declared it, its queue and its descriptor (R245). -/
structure Pair where
  producer : Nat
  consumer : Nat
  capacity : Nat
  originP : Nat
  originC : Nat
  run : Nat
  queue : Nat
  desc : Nat
  raised : Bool
  deriving DecidableEq, Repr

/-- Work of a unit's context that is stopped while the half-chair cluster of R107 serves the other class (`rt` of the class that is
stopped): the sequencer's run, the runs that have halted, their instructions and the quadrants. -/
structure Aside where
  rt : Bool
  seq : Option Seq
  draining : List Run
  insns : List EngInsn
  quads : List (Nat × Quad)
  deriving DecidableEq, Repr

/-- A context on one cluster or proxy: runs, sequencer, engine queues, array and filter state, pairs and `E` (R129). -/
structure UnitCtx where
  unit : UnitId
  slice : Nat
  seq : Option Seq := none
  draining : List Run := []
  insns : List EngInsn := []
  nextInsn : Nat := 0
  quads : List (Nat × Quad) := []
  visited : List (Nat × Bool) := []
  pairs : List Pair := []
  expect : List (Nat × BitVec 48) := []
  live : List (Nat × Bool) := []
  stopping : Bool := false
  aside : Option Aside := none
  deriving DecidableEq, Repr

/-! ### Memory ports and outstanding requests (spec/15, spec/09) -/

/-- Who waits for a memory port or a fabric answer. -/
inductive Owner where
  | none
  | insn (unit : UnitId) (slice insn : Nat)
  | desc (slice queue index : Nat)
  | remote (p : Packet)
  | host (id : Requester) (tag : Nat)
  | engine (port call tag : Nat)
  | manager (seq : Word32)
  deriving DecidableEq, Repr

/-- What is done with the bytes of a read when they come. -/
inductive OnRead where
  | discard
  | landSram (units : List UnitId) (slice addr : Nat)
  | writeOn (target key : Nat) (slice va : Nat)
  | walkRow (unit : UnitId) (slice insn place : Nat)
  | answer (place : Nat)
  deriving DecidableEq, Repr

/-- What a memory port's atomic unit or the arrival reducer does at a request's place (R332, R333, R337). -/
inductive Rmw where
  | atom (sub width : Nat) (signed : Bool) (operand compare : Nat)
  | reduce (sub fmt : Nat)
  deriving DecidableEq, Repr

/-- A request at a memory port, or one that waits to be issued there. `rmw`, `result` and `bad` are of a request that
reads, changes and writes: what it does, what it answers, and whether the old bytes were uncorrectable. `slice` and `era` are the
slice whose access it is and that slice's era when it was translated (R301, R308). -/
structure MemReq where
  port : Nat
  tag : Nat
  addr : Nat
  len : Nat
  key : Nat
  write : Bool
  data : List Byte
  owner : Owner
  onRead : OnRead
  rmw : Option Rmw := none
  result : List Byte := []
  bad : Bool := false
  slice : Option Nat := none
  era : Nat := 0
  deriving DecidableEq, Repr

/-- An answer that the block puts together for a remote packet, a host read or a licensee's engine: the bytes that have
come, whether any could not be corrected, and the payload of a `PARTIAL` answer (R335). -/
structure Gather where
  owner : Owner
  bytes : List (Nat × Byte) := []
  bad : Bool := false
  mismatch : List Byte := []
  deriving DecidableEq, Repr

/-- The memory ports: requests issued and not answered, requests that wait (R505, R507), and answers in the making. -/
structure MemPorts where
  out : List MemReq := []
  queue : List MemReq := []
  gather : List Gather := []
  deriving DecidableEq, Repr, Inhabited

/-- A request packet that waits for its response, or for a port group to be up (R322, R323, R346). `work` and `era` are the slice whose
access it is and that slice's era when it was translated (R301, R308); `va` and `row` are what a record of its refusal names (R292). -/
structure Txn where
  txid : Nat
  packet : Packet
  owner : Owner
  onRead : OnRead
  sent : Bool
  retries : Nat
  dataErrors : Nat
  due : Option Nat
  slice : Nat
  work : Option Nat := none
  era : Nat := 0
  va : Nat := 0
  row : Nat := 2 ^ 24 - 1
  deriving DecidableEq, Repr

/-! ### Translation (spec/08) -/

/-- Where a translation is cached: the L2, or the buffer of an engine (unit and engine; engine 16 is a data channel). -/
inductive XPlace where
  | l2
  | buffer (unit : UnitId) (eng : Nat)
  deriving DecidableEq, Repr

/-- A cached translation (R282). -/
structure Xlat where
  place : XPlace
  slice : Nat
  segment : Nat
  page : Nat
  frame : Nat
  rd : Bool
  wr : Bool
  at' : Bool
  red : Bool
  psize : Nat
  gen : Nat
  deriving DecidableEq, Repr

/-- An access that waits for a walk: the engine, the access kind (R292), the address and the row. -/
structure Demand where
  unit : UnitId
  eng : Nat
  id : Nat
  access : Nat
  va : Nat
  row : Nat
  record : FaultRecord
  deriving DecidableEq, Repr

/-- A walk in progress (R283): the generation it began under and the demand accesses that joined it; a prefetch has
none, and carries the access kind it was made for (R286, R288). -/
structure Walk where
  slice : Nat
  segment : Nat
  page : Nat
  gen : Nat
  place : XPlace
  kind : Nat
  demand : List Demand
  deriving DecidableEq, Repr

/-- An open-fault entry (R293). An engine is named by its unit, its number and what stalls there: an instruction's
number, `2 ^ 32 + q` for a descriptor of queue `q`, or `2 ^ 33 + r` for the sequencer in run `r`. -/
structure OpenFault where
  slice : Nat
  segment : Nat
  page : Nat
  seq : Word32
  engines : List (UnitId × Nat × Nat)
  deriving DecidableEq, Repr

/-- An engine stalled on a page while all 128 entries are in use, with the record it will write (R294). -/
structure OpenWait where
  slice : Nat
  segment : Nat
  page : Nat
  engine : UnitId × Nat × Nat
  record : FaultRecord
  deriving DecidableEq, Repr

structure Translation where
  cache : List Xlat := []
  walks : List Walk := []
  opens : List OpenFault := []
  waiting : List OpenWait := []
  deriving DecidableEq, Repr, Inhabited

/-! ### Fabric (spec/09) -/

/-- Messages to other blocks of the part over the die-to-die ports (R34, R92, R97, R301, R341, R409, R424). -/
inductive D2dMsg where
  | doorbell (slice queue : Nat) (value : Word64) (tick : Nat)
  | mgmt (m : MgmtMsg)
  | confirm (serial : Nat)
  | syncAck (slice gen : Nat)
  | syncDrained (slice gen : Nat)
  | record (r : FaultRecord)
  | interrupt (source : Nat)
  | liftCount (count : Nat)
  | status (f : StatusFrame)
  deriving DecidableEq, Repr

/-- What a frame carries (R312, R340): a packet, with the check bytes that it came with and the link whose
receive buffer holds it where it is forwarded, or a part-internal message to
a block, whose packet names the class and the node. A packet of type 0 is a frame of a header alone. -/
structure Parcel where
  packet : Packet
  check : Option (List Byte) := none
  cameOn : Option Nat := none
  msg : Option (Nat × D2dMsg) := none
  deriving DecidableEq, Repr

/-- A frame in the replay buffer (R343): its sequence number, what it carries, the credits that its tag returned, and how often it has been
replayed. -/
structure SentFrame where
  seq : BitVec 12
  parcel : Parcel
  cls : Nat
  credit : Nat
  tries : Nat := 0
  deriving DecidableEq, Repr

/-- A lane (`LANE_STAT` and counters) and its injection settings (R348, R350). -/
structure Lane where
  pat : Nat := 0
  mode : Nat := 0
  inj : Bool := false
  loss : Bool := false
  lock : Bool := false
  sigdet : Bool := false
  cdrLock : Bool := false
  errs : Nat := 0
  bits : Nat := 0
  injected : Nat := 0
  injKind : Nat := 0
  injLen : Nat := 0
  injLog2 : Nat := 0
  deriving DecidableEq, Repr, Inhabited

/-- A port group (`FPG_STAT` and counters), its link state (R313, R326, R328, R343, R344) and lane power state (R351). By class (8 more for
responses), `spent` counts the flit slots of the far end that frames sent have taken, and `owed` those of this end that are free and not
returned yet. `wire` lists the wire bytes of the last 16 ticks: tick, class, bytes; `turn` is the place in the round robin; `blockFrames`
counts the frames of the open tag block. A die-to-die port has only its link state. -/
structure Group where
  lanes : BitVec 6 := 0
  ls : Nat := 0
  enc : Bool := false
  retrain : Bool := false
  up : Bool := false
  rate : Nat := 0
  fecSym : Nat := 0
  fecUnc : Nat := 0
  crc : Nat := 0
  replay : Nat := 0
  txSeq : BitVec 12 := 0
  rxSeq : BitVec 12 := 0xFFF
  unacked : List SentFrame := []
  spent : List (Nat × Nat) := []
  owed : List (Nat × Nat) := []
  wire : List (Nat × Nat × Nat) := []
  turn : Nat := 0
  blockFrames : Nat := 0
  exiting : Option Nat := none
  tagBlocks : Nat := 0
  keyUpdates : Nat := 0
  calOk : Option Bool := none
  power : Nat := 0
  deriving DecidableEq, Repr, Inhabited

/-- Telemetry counters that the manual says the block keeps. -/
structure Telemetry where
  windowRefusals : List (Nat × Nat) := []
  discardedReleases : Nat := 0
  poisonedWrites : List (Nat × Nat) := []
  managerAperture : Nat := 0
  enginePort : List (Nat × Nat) := []
  patrolDiscards : Nat := 0
  anchorMismatches : Nat := 0
  deriving DecidableEq, Repr, Inhabited

/-- The endpoint: requests that wait for a response, groups and lanes, the nodes this block has assumed (R453), the failed nodes
it has been told of (R320), whether `FABRIC_DOWN` stands, the die-to-die paths (block, first port, hops) and the routes by block and port (R341), and
what waits for a frame slot (R326, R346). Die-to-die port `n` is link 8 + `n` among the groups. -/
structure Fabric where
  txns : List Txn := []
  nextTxid : Nat := 0
  groups : List (Nat × Group) := []
  lanes : List (Nat × Lane) := []
  assumed : List Nat := []
  failed : List Nat := []
  down : Bool := false
  paths : List (Nat × Nat × Nat) := []
  routes : List (Nat × Nat) := []
  outbox : List Parcel := []
  deriving DecidableEq, Repr, Inhabited

/-! ### Faults and recovery (spec/13) -/

structure FaultQueue where
  ring : List FaultRecord := []
  overflow : Bool := false
  drop : List (Nat × Nat) := []
  lastSeq : Word32 := 0
  count : Nat := 0
  last : List (Nat × FaultRecord) := []
  deriving DecidableEq, Repr, Inhabited

/-- A reset ladder (R429): its rung, the tick its rung began, and what the rung has not brought back: clusters by number, proxy `p` as
32 + `p`, the front end as 40. `unit` and `eng` are the engine it began with. -/
structure Ladder where
  id : Nat
  rung : Nat
  since : Nat
  left : List Nat
  unit : UnitId
  eng : Nat
  deriving DecidableEq, Repr

/-- The recovery units: ladders, the rung-4 history (R433), retirements, the end of the ladder (R434: `exhausted` asks the twin to take
over, `halted` takes no further work), scheduler cores (R435) with the ticks of their restarts and of their last signs of progress, the ticks at which the engines of each unit were
last asked to stop (R428), the lockstep pair (R436). -/
structure Recovery where
  ladders : List Ladder := []
  nextLadder : Nat := 0
  rung4 : List (Nat × Nat) := []
  retiredClusters : BitVec 32 := 0
  retiredArrays : BitVec 128 := 0
  exhausted : Bool := false
  halted : Bool := false
  schedDown : BitVec 4 := 0
  schedRestarting : BitVec 4 := 0
  schedRestarts : List (Nat × Nat) := []
  schedSeen : List (Nat × Nat) := []
  stopAsked : List (Nat × Nat) := []
  turns : List (Nat × Nat) := []
  restartSince : Option Nat := none
  deriving DecidableEq, Repr, Inhabited

/-- A captured ski-patrol segment (R440): starting accumulators, operands with scales, ending accumulators. -/
structure Capture where
  unit : UnitId
  slice : Nat
  eng : Nat
  start : List Acc
  operands : List Byte
  ending : List Acc
  deriving DecidableEq, Repr

structure Patrol where
  segments : List (Nat × Nat) := []
  lfsr : List (Nat × BitVec 16) := []
  captures : List Capture := []
  charges : List (Nat × Nat) := []
  toRetire : List Nat := []
  deriving DecidableEq, Repr, Inhabited

/-- The pairing states (R445). -/
inductive TwinState where
  | unpaired
  | pairing
  | tight
  | loose
  | solo
  | failedOver
  deriving DecidableEq, Repr

structure Twin where
  state : TwinState := .unpaired
  fenced : Bool := false
  node : Option Nat := none
  mode : Nat := 0
  asked : Option (Word32 × Nat) := none
  peerAsked : Option (Nat × Nat × Nat) := none
  images : List MirrorImage := []
  lastHeartbeat : Nat := 0
  probing : Option Nat := none
  assumed : Option Nat := none
  awaiting : List Nat := []
  outstanding : List MirrorImage := []
  set : Option CfgSet := none
  lead : Nat := 0
  block : Nat := 0
  banks : List (Nat × Nat × List Segment) := []
  remapWanted : Bool := false
  handover : Option Word32 := none
  modeWanted : Option Nat := none
  leaving : Bool := false
  notified : List Nat := []
  replay : Bool := false
  installed : Bool := false
  serving : Bool := true
  declared : Nat := 0
  deriving DecidableEq, Repr, Inhabited

/-! ### Manager, mailboxes, interrupts (spec/11, spec/12) -/

/-- The reply to a command (R360, R578). -/
structure Reply where
  opcode : Nat
  status : Nat
  seq : Word32
  sliceField : Word16
  detail0 : Word32
  detail : List Byte
  deriving DecidableEq, Repr

/-- How far an accepted command has come: new; waiting for an event; waiting for the blocks in `left`, with what the others
reported; or stopping queues (R376, R377), with the queues, posted counts and `COMPLETED` found so far. -/
inductive CmdPhase where
  | fresh
  | waiting
  | asked (left : List Nat) (ok : Bool) (entries : List (List Byte)) (queues : List (Nat × Nat × Nat))
  | stopping (left : List Nat) (entries : List (List Byte)) (queues : List (Nat × Nat × Nat))
  deriving DecidableEq, Repr

/-- An accepted command (R360, R364): who sent it, its channel's reply buffer (format 1), how far it has come, and the tick of its
acceptance (R356). -/
structure CmdReq where
  seq : Word32
  opcode : Nat
  sliceField : Word16
  params : List Byte
  sender : Agent
  buffer : Nat
  phase : CmdPhase := .fresh
  tick : Nat := 0
  deriving DecidableEq, Repr

/-- The manager role: `lapsed` is 1 from the expiry of a lease until a new claim succeeds (R25, R359). -/
structure Manager where
  holder : Option Agent := none
  expiry : Nat := 0
  warned : Bool := false
  lapsed : Bool := false
  log : List (Word32 × Reply) := []
  accepted : List CmdReq := []
  deriving DecidableEq, Repr, Inhabited

/-- A mailbox (R387) and its lock (R393). -/
structure Mailbox where
  data : List (Nat × Word32) := []
  go : Bool := false
  err : Bool := false
  sender : Option Agent := none
  lock : Option (Word16 × Agent) := none
  deriving DecidableEq, Repr, Inhabited

/-- The host channel (R397, R400, R405, R406). -/
structure Channel where
  kind : Nat := 0
  ringBase : Nat := 0
  reqTail : Word32 := 0
  reqHead : Word32 := 0
  rplTail : Word32 := 0
  rplHead : Word32 := 0
  badWrite : Bool := false
  partRecv : List Byte := []
  partIndex : Nat := 0
  replyQueue : List (List Byte × Nat × Word32) := []
  sending : List Byte := []
  sendIndex : Nat := 0
  exchange : Bool := false
  requester : Option Agent := none
  lastHostWrite : Nat := 0
  writers : List (Nat × Agent) := []
  replySince : Option Nat := none
  deriving DecidableEq, Repr, Inhabited

/-- The interrupt unit and the wake watcher (R410 to R417). -/
structure Icu where
  gdis : Bool := true
  hold : List (Nat × Word16) := []
  pend : BitVec 256 := 0
  en : BitVec 128 := 0
  vec : List (Nat × BitVec 6) := []
  owed : BitVec 256 := 0
  holdUntil : List (Nat × Nat) := []
  wakeSel : List (Nat × BitVec 9) := []
  latched : List Nat := []
  powered : Bool := true
  coreEn : List (Nat × BitVec 256) := []
  coreTaken : List (Nat × Nat) := []
  deriving DecidableEq, Repr, Inhabited

/-! ### Engine ports, power, keys, firmware (spec/14, spec/15, spec/16, spec/17) -/

/-- An outstanding call of an engine port (R509). -/
structure Call where
  id : Nat
  slice : Nat
  insn : Nat
  done : Bool
  deriving DecidableEq, Repr

/-- A signal held until the call's earlier writes are acknowledged (R513): the tags of those writes. -/
structure HeldEngineSignal where
  call : Nat
  slice : Nat
  tally : Nat
  amount : Nat
  writes : List Nat
  deriving DecidableEq, Repr

/-- A wait of a licensee's engine (R514). -/
structure EngineWait where
  slot : Nat
  call : Nat
  slice : Nat
  tally : Nat
  threshold : Nat
  deriving DecidableEq, Repr

structure EnginePort where
  calls : List Call := []
  dma : List (Nat × Nat × Bool) := []
  signals : List HeldEngineSignal := []
  waits : List EngineWait := []
  level : Nat := 0
  ackLevel : Nat := 0
  levelTick : Nat := 0
  ackPending : Bool := false
  late : Bool := false
  deriving DecidableEq, Repr, Inhabited

structure Power where
  clevel : Nat := 0
  elevel : Nat := 0
  overBudget : Bool := false
  deep : Bool := false
  trip : Bool := false
  clamp : Bool := false
  wear : Bool := false
  schuss : Bool := false
  permit : Bool := false
  stagedLevel : Option Nat := none
  stagedOver : Bool := false
  granted : Bool := false
  lastGoverned : Nat := 0
  history : List Nat := []
  chairsSeen : Nat := 0
  clampSince : Option Nat := none
  alertHighSince : Option Nat := none
  tripCoolSince : Option Nat := none
  wantNominal : Bool := false
  endedClamp : Option Nat := none
  off : BitVec 82 := 0
  gated : BitVec 82 := 0
  retention : BitVec 82 := 0
  heldNothing : Nat := 0
  waking : Bool := false
  flat : BitVec 32 := 0
  mv : Nat := 750
  clock : Nat := 2000
  deriving DecidableEq, Repr, Inhabited

/-- A key session (R480, R471). -/
structure KeySession where
  id : Nat
  purpose : Nat
  slice : Nat
  isOpen : Bool
  deriving DecidableEq, Repr

/-- The security unit's keys, each named by the number of the TRNG draw or release that made it (log 6): `base` for the memory-key
slots that the last start-up or unlock filled and nothing has replaced since. -/
structure Keys where
  trng : Nat := 0
  base : Nat := 0
  slots : List (Nat × Nat) := []
  bound : List (Nat × Nat) := []
  twin : List (Nat × Nat) := []
  twinChannel : Bool := false
  weight : List (Nat × Nat × Nat) := []
  released : Nat := 0
  sessions : List KeySession := []
  nextSession : Nat := 0
  link : List (Nat × Nat) := []
  linkDraws : Nat := 0
  deriving DecidableEq, Repr, Inhabited

/-- One firmware slot in flash (R533): its bytes other than the boot mark (erased bytes, all ones, are not listed) and
the boot mark. -/
structure FlashSlot where
  bytes : List (Nat × Byte) := []
  conf : Byte := 0xFF
  retired : Byte := 0xFF
  actCount : Word32 := 0xFFFFFFFF
  deriving DecidableEq, Repr, Inhabited

structure Firmware where
  slotA : FlashSlot := {}
  slotB : FlashSlot := {}
  revision : Word32 := 0
  security : BitVec 6 := 0
  opened : Option Nat := none
  staged : List (Nat × Nat) := []
  verified : Bool := false
  newRevision : Word32 := 0
  handoff : Option (Word32 × Option Nat) := none
  deriving DecidableEq, Repr, Inhabited

/-- The configuration block of the running image (R522). -/
structure ImageConfig where
  chan : Nat := 0
  linkEnc : Bool := false
  laneRate : Nat := 0
  memLog2 : Nat := 33
  tjLimit : Nat := 0
  patrolLog2 : Nat := 12
  epPmax : List Nat := [0, 0, 0, 0, 0, 0, 0, 0]
  hash : Nat := 0
  deriving DecidableEq, Repr, Inhabited

/-- Start-up (spec/16): `BLK_STATUS`, the straps, the election, the images rejected before there is a lead, the fuses. -/
structure Boot where
  phase : Nat := 1
  calFail : Nat := 0
  stopped : Bool := false
  blkId : Nat := 0
  hpPresent : Bool := true
  epPresent : BitVec 8 := 0xFF
  elected : Bool := false
  leadId : Nat := 0
  isLead : Bool := false
  slot : Nat := 0
  fallback : Bool := false
  standalone : Bool := false
  ready : Bool := false
  eligible : Bool := false
  admitted : BitVec 8 := 0
  frames : List StatusFrame := []
  nodeIds : List (Nat × Nat) := []
  rejected : Nat := 0
  image : ImageConfig := {}
  fuseLock : Bool := false
  antiRollback : BitVec 64 := 0
  fuseWanted : List Nat := []
  dbgUnlocked : Bool := false
  dbgEver : Bool := false
  deriving DecidableEq, Repr, Inhabited

/-- The input pins whose level is held (spec/15). -/
structure Pins where
  aoRst : Bool := true
  blkRst : Bool := true
  vrAlert : Bool := true
  nvec : Nat := 64
  d2dPresent : BitVec 3 := 0
  d2dStatus : List (Nat × Nat) := []
  deriving DecidableEq, Repr, Inhabited

/-- The lift clock (spec/03 "Rack time"). `slewNs` is the correction left to make, in ns: positive when behind; `wallNs` counts the
reference clock, on which a time that is not scheduled against the lift count is measured (R8). -/
structure Lift where
  count : Word64 := 0
  src : BitVec 2 := 0
  holdover : Bool := false
  adrift : Bool := false
  error : BitVec 8 := 0
  slewNs : Int := 0
  sincePacket : Nat := 0
  tickNs : Nat := 64
  wallNs : Nat := 0
  chairDone : Bool := true
  planDone : Bool := false
  relayDone : Bool := false
  goDone : Bool := false
  evict : List Nat := []
  load : List Nat := []
  deriving DecidableEq, Repr, Inhabited

/-- What the block presents at its ports. -/
inductive Output where
  | packet (p : Packet)
  | d2d (block : Nat) (m : D2dMsg)
  | tether (m : TetherMsg)
  | completion (id : Requester) (tag : Nat) (data : List Byte)
  | completerAbort (id : Requester) (tag : Nat)
  | unsupported (id : Requester)
  | msi (vector : Nat)
  | call (port id : Nat) (payload : BitVec 96) (slice slot : Nat)
  | dmaResponse (port tag status : Nat) (data : List Byte)
  | wake (port slot : Nat) (err : Bool)
  | throttle (port level : Nat)
  | frame (link : Nat) (f : Frame)
  | tagBlock (group number : Nat)
  | pattern (lane degree : Nat) (taps : List Nat)
  | injected (lane bits : Nat)
  | sideband (bytes : List Byte)
  | fuseProgram (bit : Nat)
  | coreVoltage (mv : Nat)
  | remapRequest (node : Nat)
  | keyUpdate (group : Nat)
  | portStatus (port : Nat) (f : StatusFrame)
  deriving DecidableEq, Repr

/-- What the outcome of two events of one lift tick depends on (R24): the increments that the tick has brought to each tally
and the `VALUE` it had before them, the engines that a fault has stopped in it (slice, queue, engine, word), and the dumps that end with it. -/
structure TickLog where
  incs : List (Nat × Nat) := []
  olds : List (Nat × Nat) := []
  faults : List (Nat × Nat × Nat × Nat) := []
  dumps : List (Nat × Nat) := []
  deriving DecidableEq, Repr, Inhabited

/-- The whole state of the block. -/
structure State where
  pending : List Instr := []
  sent : List Output := []
  free : Nat := 0
  tick : TickLog := {}
  lift : Lift := {}
  boot : Boot := {}
  pins : Pins := {}
  mem : List Host.Cell := []
  memKeys : List (Nat × Nat × Nat) := []
  keys : Keys := {}
  cfg : Cfg := {}
  slices : List Slice := []
  queues : List Queue := []
  contexts : List Context := []
  units : List UnitCtx := []
  current : List (Nat × Nat) := []
  slots : List (Nat × Nat) := []
  sram : List (Nat × Byte) := []
  sramErrs : List (Nat × Nat) := []
  tallies : List (Nat × Tally) := []
  held : List HeldSignal := []
  heldIncs : List HeldIncrement := []
  counters : List WriteCounter := []
  gates : List (Nat × Gate) := []
  xlat : Translation := {}
  mp : MemPorts := {}
  fab : Fabric := {}
  telemetry : Telemetry := {}
  fq : FaultQueue := {}
  recovery : Recovery := {}
  patrol : Patrol := {}
  twin : Twin := {}
  mgr : Manager := {}
  mbx : List (Nat × Mailbox) := []
  chan : Channel := {}
  icu : Icu := {}
  ports : List (Nat × EnginePort) := []
  power : Power := {}
  fw : Firmware := {}
  deriving DecidableEq, Repr

/-- The block at the rise of `BLK_RST_N` (R493), before start-up phase 1 ends: every register at its reset value, no
slice, no queue, no lease, memory with nothing listed. The values the manual does not give are named in logs 4 to 6. -/
def State.reset : State := {}

end Sys2Proof.Machine
end

