-- ==== Sys2Proof/Machine/Num.lean ====
section
/-! DEFINITION. Number formats and order-free accumulation (spec/05): decoding and rounding of the element formats, the
FP32 accumulator, XR192 elements, minimum and maximum, conversions. Values are exact; each rounding is explicit. -/

namespace Sys2Proof.Machine

/-! ### Exact values -/

/-- A decoded floating-point value: NaN, an infinity, or (−1)^neg × m × 2^e (a zero keeps its sign). -/
inductive FV where
  | nan
  | inf (neg : Bool)
  | fin (neg : Bool) (m : Nat) (e : Int)
  deriving DecidableEq, Repr, Inhabited

/-- An exact dyadic number m × 2^e. -/
structure Dy where
  m : Int
  e : Int
  deriving DecidableEq, Repr, Inhabited

/-- 2^n for a natural part of an integer exponent. -/
def pow2 (n : Int) : Nat := 2 ^ n.toNat

def Dy.add (a b : Dy) : Dy :=
  let e := min a.e b.e
  { m := a.m * pow2 (a.e - e) + b.m * pow2 (b.e - e), e := e }

def Dy.mul (a b : Dy) : Dy := { m := a.m * b.m, e := a.e + b.e }
def Dy.scale (a : Dy) (n : Int) : Dy := { a with e := a.e + n }
def Dy.neg (a : Dy) : Dy := { a with m := -a.m }

/-- An exact extended value: what a sum of values is before rounding. -/
inductive EV where
  | nan
  | inf (neg : Bool)
  | fin (d : Dy)
  deriving DecidableEq, Repr, Inhabited

def FV.toEV : FV → EV
  | .nan => .nan
  | .inf n => .inf n
  | .fin n m e => .fin { m := if n then -(m : Int) else (m : Int), e := e }

/-- The exact sum; Inf − Inf is NaN (R173, R334). -/
def EV.add : EV → EV → EV
  | .nan, _ => .nan
  | _, .nan => .nan
  | .inf a, .inf b => if a = b then .inf a else .nan
  | .inf a, _ => .inf a
  | _, .inf b => .inf b
  | .fin a, .fin b => .fin (a.add b)

/-- The exact product; Inf × 0 is NaN (R173), and a product with a zero operand is zero (R166). -/
def FV.mul : FV → FV → FV
  | .nan, _ => .nan
  | _, .nan => .nan
  | .inf a, .inf b => .inf (a != b)
  | .inf a, .fin n m _ => if m = 0 then .nan else .inf (a != n)
  | .fin n m _, .inf b => if m = 0 then .nan else .inf (n != b)
  | .fin n m e, .fin n' m' e' => .fin (n != n') (m * m') (e + e')

def FV.negate : FV → FV
  | .nan => .nan
  | .inf n => .inf (!n)
  | .fin n m e => .fin (!n) m e

/-- Multiply by 2^n. -/
def EV.scale (n : Int) : EV → EV
  | .fin d => .fin (d.scale n)
  | x => x

def FV.scale (n : Int) : FV → FV
  | .fin s m e => .fin s m (e + n)
  | x => x

/-! ### Rounding -/

/-- m / 2^k rounded to nearest, ties to even. -/
def rneShift (m k : Nat) : Nat :=
  if k = 0 then m else
    let q := m >>> k
    let r := m % 2 ^ k
    let h := 2 ^ (k - 1)
    if h < r ∨ (r = h ∧ q % 2 = 1) then q + 1 else q

/-- The magnitude code (exponent field and mantissa as one number) of m × 2^e in a format of `mb` mantissa bits whose
least normal exponent is `emin`, rounded once to nearest even, subnormals kept; unbounded above. -/
def roundMag (mb : Nat) (emin : Int) (m : Nat) (e : Int) : Nat :=
  if m = 0 then 0 else
    let top : Int := (Nat.log2 m : Int) + e
    let q := max (top - mb) (emin - mb)
    let r := if q ≤ e then m * pow2 (e - q) else rneShift m (q - e).toNat
    (q - (emin - mb)).toNat * 2 ^ mb + r

/-- The element formats by `FMT` code (R207). -/
structure Format where
  bits : Nat
  mb : Nat
  bias : Nat
  deriving DecidableEq, Repr

def nan32 : Word32 := 0x7FC00000
def inf32 : Nat := 0x7F800000

/-- FP32 bits of an exact value, rounded once to nearest even (R173, R183): an exact zero is +0, a result rounded to
zero takes the sign of its exact value (R580), overflow gives ±Inf. -/
def fp32OfEV : EV → Word32
  | .nan => nan32
  | .inf n => BitVec.ofNat 32 ((if n then 2 ^ 31 else 0) + inf32)
  | .fin d =>
    if d.m = 0 then 0 else
      let mag := min (roundMag 23 (-126) d.m.natAbs d.e) inf32
      BitVec.ofNat 32 ((if d.m < 0 then 2 ^ 31 else 0) + mag)

/-- BF16 bits, in the same way (R334). -/
def bf16OfEV : EV → Nat
  | .nan => 0x7FC0
  | .inf n => (if n then 2 ^ 15 else 0) + 0x7F80
  | .fin d =>
    if d.m = 0 then 0 else
      (if d.m < 0 then 2 ^ 15 else 0) + min (roundMag 7 (-126) d.m.natAbs d.e) 0x7F80

/-- R165: a value with `eb` exponent bits, `mb` mantissa bits and the given bias, specials apart. -/
def decodeFin (eb mb bias x : Nat) : FV :=
  let neg := x.testBit (eb + mb)
  let e := bitsOf (eb + mb - 1) mb x
  let m := x % 2 ^ mb
  if e = 0 then .fin neg m (1 - (bias : Int) - mb) else .fin neg (2 ^ mb + m) ((e : Int) - bias - mb)

/-- IEEE-style specials: the largest exponent is Inf or NaN. -/
def decodeIeee (eb mb bias x : Nat) : FV :=
  if bitsOf (eb + mb - 1) mb x = 2 ^ eb - 1 then
    (if x % 2 ^ mb = 0 then .inf (x.testBit (eb + mb)) else .nan)
  else decodeFin eb mb bias x

def decodeInt (w x : Nat) : Int := if x.testBit (w - 1) then (x : Int) - 2 ^ w else (x : Int)

def fp32 (w : Word32) : FV := decodeIeee 8 23 127 w.toNat

/-- Bits of one element of a `FMT` (R167, R207); `none` for a code outside the table. -/
def fmtBits (f : Nat) : Option Nat :=
  match f with
  | 0 => some 4 | 1 => some 6 | 2 => some 8 | 3 => some 8 | 4 => some 16 | 5 => some 8 | 6 => some 4
  | 8 => some 32 | 9 => some 256 | 10 => some 32 | 11 => some 64 | 12 => some 32
  | _ => none

/-- The formats that carry block scales (R168). -/
def fmtScaled (f : Nat) : Bool := f ≤ 3

/-- The value of an element of a format that an array or `CVT` reads (R165); INT formats are exact integers. -/
def decodeElem (f x : Nat) : FV :=
  match f with
  | 0 => decodeFin 2 1 1 x
  | 1 => decodeFin 3 2 3 x
  | 2 => if x % 128 = 0x7F then .nan else decodeFin 4 3 7 x
  | 3 => decodeIeee 5 2 15 x
  | 4 => decodeIeee 8 7 127 x
  | 5 => let i := decodeInt 8 x; .fin (decide (i < 0)) i.natAbs 0
  | 6 => let i := decodeInt 4 x; .fin (decide (i < 0)) i.natAbs 0
  | 10 => let i := decodeInt 32 x; .fin (decide (i < 0)) i.natAbs 0
  | 11 => let i := decodeInt 64 x; .fin (decide (i < 0)) i.natAbs 0
  | _ => decodeIeee 8 23 127 x

/-- An element times its block scale (R168, R170). -/
def applyScale (scale : Option Nat) (v : FV) : FV :=
  match scale with
  | none => v
  | some c => if c = 255 then .nan else v.scale ((c : Int) - 127)

/-! ### FP32 operations of the vector unit (R161, R224, R580) -/

def fAdd (a b : Word32) : Word32 := fp32OfEV ((fp32 a).toEV.add (fp32 b).toEV)
def fSub (a b : Word32) : Word32 := fp32OfEV ((fp32 a).toEV.add (fp32 b).negate.toEV)
/-- A product: a zero product has the sign its factors give (log 16); one rounded to zero keeps its sign (R580). -/
def fMul (a b : Word32) : Word32 :=
  match (fp32 a).mul (fp32 b) with
  | .fin n m e => if m = 0 then (if n then 0x80000000 else 0) else fp32OfEV (FV.fin n m e).toEV
  | v => fp32OfEV v.toEV
def fFma (a b c : Word32) : Word32 := fp32OfEV (((fp32 a).mul (fp32 b)).toEV.add (fp32 c).toEV)
def fAbs (a : Word32) : Word32 := a &&& 0x7FFFFFFF

/-- The order of minimum and maximum: −0 lies below +0 (R161, R334). -/
def orderKey (w x : Nat) : Int := if x.testBit (w - 1) then -((x % 2 ^ (w - 1) : Nat) : Int) - 1 else (x : Int)
def isNan32 (a : Word32) : Bool := decide (inf32 < a.toNat % 2 ^ 31)
def fMax (a b : Word32) : Word32 :=
  if isNan32 a || isNan32 b then nan32 else if orderKey 32 a.toNat < orderKey 32 b.toNat then b else a
def fMin (a b : Word32) : Word32 :=
  if isNan32 a || isNan32 b then nan32 else if orderKey 32 b.toNat < orderKey 32 a.toNat then b else a

/-- One level of a fixed pairwise tree (R161). -/
def pairUp {α : Type} (f : α → α → α) : List α → List α
  | a :: b :: rest => f a b :: pairUp f rest
  | l => l
/-- The fixed pairwise order of R161 over a whole list. -/
def pairwise {α : Type} (f : α → α → α) : Nat → List α → Option α
  | _, [] => none
  | _, [a] => some a
  | 0, a :: _ => some a
  | n + 1, l => pairwise f n (pairUp f l)

/-! ### XR192 (R176 to R188) -/

def xrMarker : Int := -(2 ^ 191)
def capAcc : Nat := 65535
def capWire : Nat := 16383

/-- R177: a product converted to the window of anchor `a`; `none` for a NaN or Inf operand or scale. -/
def xrConvert (a : Int) (v : FV) : XR :=
  match v with
  | .fin neg sig exp =>
    if sig = 0 then { anchor := a } else
      let shift := exp - a
      if 0 ≤ shift then
        let mag := sig * pow2 shift
        if 2 ^ 191 ≤ mag then { v := xrMarker, anchor := a, range := true }
        else { v := if neg then -(mag : Int) else mag, anchor := a }
      else
        let mag := sig / pow2 (-shift)
        if mag = 0 then { anchor := a, uf := 1 } else { v := if neg then -(mag : Int) else mag, anchor := a }
  | _ => { anchor := a, invalid := true }

/-- R178: the exact-mode addition, with the cap of an accumulator or of the wire form. -/
def xrAdd (cap : Nat) (x y : XR) : XR :=
  let inv := x.invalid || y.invalid
  let uf := min (x.uf + y.uf) cap
  if x.range || y.range then { v := xrMarker, anchor := x.anchor, range := true, invalid := inv, uf := uf }
  else
    let t := x.v + y.v
    if t < -(2 ^ 191) ∨ 2 ^ 191 - 1 < t then { v := xrMarker, anchor := x.anchor, range := true, invalid := inv, uf := uf }
    else { v := t, anchor := x.anchor, range := false, invalid := inv, uf := uf }

/-- R187: an element is empty when `VALUE`, `RANGE`, `INVALID` and `UF` are all zero. -/
def xrEmpty (x : XR) : Bool := x.v == 0 && !x.range && !x.invalid && x.uf == 0

/-- R187: the sum of two wire elements; `none` is an anchor mismatch. Of two empty ones the second's anchor stays (log 82). -/
def xrSum (x y : XR) : Option XR :=
  if xrEmpty x then some y
  else if xrEmpty y then some x
  else if x.anchor = y.anchor then some (xrAdd capWire x y)
  else none

/-- R184 and R186: the 32 bytes of an element as a number, reserved bytes 0. -/
def xrEncode (x : XR) : Nat :=
  (x.v % 2 ^ 192).toNat + (x.anchor % 2 ^ 16).toNat * 2 ^ 192 +
  (min x.uf capWire + (if x.invalid then 2 ^ 14 else 0) + (if x.range then 2 ^ 15 else 0)) * 2 ^ 208

/-- R184 and R186: an element read from 32 bytes; an anchor out of range makes it `INVALID`. -/
def xrDecode (n : Nat) : XR :=
  let a := decodeInt 16 (bitsOf 207 192 n)
  let bad := decide (a < -1024) || decide (1023 < a)
  { v := decodeInt 192 (n % 2 ^ 192), anchor := a, range := n.testBit 223, invalid := n.testBit 222 || bad,
    uf := bitsOf 221 208 n }

/-- R183: an element as FP32. -/
def xrToFp32 (x : XR) : Word32 :=
  if x.range || x.invalid then nan32 else fp32OfEV (.fin { m := x.v, e := x.anchor })

/-! ### Conversions (R191 to R193) -/

/-- Largest finite magnitude code, mantissa bits, least normal exponent and width of the scaled formats and BF16. -/
def maxMag (f : Nat) : Nat := match f with | 0 => 7 | 1 => 31 | 2 => 0x7E | 3 => 0x7B | _ => 0x7F7F
def fmtMb (f : Nat) : Nat := match f with | 0 => 1 | 1 => 2 | 2 => 3 | 3 => 2 | _ => 7
def fmtEmin (f : Nat) : Int := match f with | 0 => 0 | 1 => -2 | 2 => -6 | 3 => -14 | _ => -126
def fmtSign (f : Nat) : Nat := match f with | 0 => 8 | 1 => 32 | 2 => 128 | 3 => 128 | _ => 32768
def fmtEmax (f : Nat) : Int := match f with | 0 => 2 | 1 => 4 | 2 => 8 | _ => 15

/-- R191: FP32 to a narrower format; the flag is `INVALID` of the status word. -/
def narrow (f : Nat) (v : FV) : Nat × Bool :=
  match v with
  | .nan => match f with
    | 4 => (0x7FC0, false) | 3 => (0x7E, false) | 2 => (0x7F, false) | _ => (0, true)
  | .inf n => ((if n then fmtSign f else 0) + (match f with | 4 => 0x7F80 | 3 => 0x7C | _ => maxMag f), false)
  | .fin n m e =>
    let r := roundMag (fmtMb f) (fmtEmin f) m e
    ((if n then fmtSign f else 0) + min r (maxMag f), false)

/-- R192: the scale of a block from its inputs. -/
def blockScale (f : Nat) (vs : List FV) : Nat :=
  if vs.any (fun v => match v with | .fin _ _ _ => false | _ => true) then 255
  else
    let mags := vs.filterMap (fun v => match v with
      | .fin _ m e => if m = 0 then none else some ((Nat.log2 m : Int) + e)
      | _ => none)
    match mags with
    | [] => 0
    | g :: gs => (min 254 (max 0 (gs.foldl max g - fmtEmax f + 127))).toNat

/-- R192: one block of 32 elements converted: its scale, its element codes, and `INVALID`. -/
def narrowBlock (f : Nat) (vs : List FV) : Nat × List Nat × Bool :=
  let c := blockScale f vs
  if c = 255 then (255, vs.map (fun _ => 0), true)
  else
    let es := vs.map (fun v => narrow f (v.scale (127 - (c : Int))))
    (c, es.map Prod.fst, es.any Prod.snd)

/-- A dyadic magnitude rounded to an integer, to nearest even. -/
def roundNat (m : Nat) (e : Int) : Nat := if 0 ≤ e then m * pow2 e else rneShift m (-e).toNat

/-- R193: FP32 to an integer format of `w` bits, saturating; NaN is 0 and sets `INVALID`. -/
def toInt (w : Nat) (v : FV) : Nat × Bool :=
  let top : Int := 2 ^ (w - 1) - 1
  let bot : Int := -(2 ^ (w - 1))
  match v with
  | .nan => (0, true)
  | .inf n => (((if n then bot else top) % 2 ^ w).toNat, false)
  | .fin n m e =>
    let i : Int := if n then -(roundNat m e : Int) else (roundNat m e : Int)
    ((max bot (min top i) % 2 ^ w).toNat, false)

/-! ### Atomic and reduction elements (R332 to R334) -/

/-- R332: the new value of an element of `w` bits. -/
def atomNew (sub w : Nat) (signed : Bool) (old operand compare : Nat) : Nat :=
  let lt := fun (a b : Nat) => if signed then decide (decodeInt w a < decodeInt w b) else decide (a < b)
  match sub with
  | 0 => (old + operand) % 2 ^ w
  | 1 => if lt operand old then operand else old
  | 2 => if lt old operand then operand else old
  | 3 => operand
  | _ => if old = compare then operand else old

def isNan16 (x : Nat) : Bool := decide (0x7F80 < x % 2 ^ 15)

/-- R333 and R334: one element combined at its destination; the `FMT` codes are those of the packet header. `none` is
an XR192 anchor mismatch (R335). -/
def reduceElem (sub fmt old x : Nat) : Option Nat :=
  match fmt with
  | 6 => (xrSum (xrDecode old) (xrDecode x)).map xrEncode
  | 4 =>
    let a := BitVec.ofNat 32 old; let b := BitVec.ofNat 32 x
    some ((match sub with | 3 => fMin a b | 4 => fMax a b | _ => fAdd a b).toNat)
  | 5 =>
    match sub with
    | 3 => some (if isNan16 old || isNan16 x then 0x7FC0 else if orderKey 16 x < orderKey 16 old then x else old)
    | 4 => some (if isNan16 old || isNan16 x then 0x7FC0 else if orderKey 16 old < orderKey 16 x then x else old)
    | _ => some (bf16OfEV ((decodeIeee 8 7 127 old).toEV.add (decodeIeee 8 7 127 x).toEV))
  | _ =>
    let w := if fmt = 1 ∨ fmt = 3 then 64 else 32
    some (match sub with
      | 3 => atomNew 1 w true old x 0
      | 4 => atomNew 2 w true old x 0
      | _ => (old + x) % 2 ^ w)

/-- Bytes of one element of a packet `FMT` (R332, R333). -/
def packetElemBytes (fmt : Nat) : Nat :=
  match fmt with | 0 => 4 | 1 => 8 | 2 => 4 | 3 => 8 | 4 => 4 | 5 => 2 | 6 => 32 | _ => 1

end Sys2Proof.Machine
end

