-- ==== Sys2Proof/Machine/Ops.lean ====
section
/-! DEFINITION. The shared operations on the state: look-ups and updates, interrupts, fault records and queue stops
(the block's way of taking a fault, R83 and R419 to R427), tallies and pairs, device memory and its ports, packets. -/

namespace Sys2Proof.Machine

/-! ### Time -/

/-- The lift count as a number (R89). -/
def now (s : State) : Nat := s.lift.count.toNat
/-- The chair number and the tick within the chair (03 `LIFT_NOW`). -/
def chairOf (s : State) : Nat := now s / Config.chairTicks
def tickOf (s : State) : Nat := now s % Config.chairTicks

/-! ### Look-ups and updates -/

def findSlice (s : State) (id : Nat) : Option Slice := s.slices.find? (fun x => x.id == id)
def mapSlice (id : Nat) (f : Slice → Slice) (s : State) : State :=
  { s with slices := s.slices.map (fun x => if x.id = id then f x else x) }

def findQueue (s : State) (slice q : Nat) : Option Queue := s.queues.find? (fun x => x.slice == slice && x.id == q)
def mapQueue (slice q : Nat) (f : Queue → Queue) (s : State) : State :=
  { s with queues := s.queues.map (fun x => if x.slice = slice ∧ x.id = q then f x else x) }

def findContext (s : State) (slice : Nat) : Option Context := s.contexts.find? (fun x => x.slice == slice)
def mapContext (slice : Nat) (f : Context → Context) (s : State) : State :=
  { s with contexts := s.contexts.map (fun x => if x.slice = slice then f x else x) }

def findUnit (s : State) (u : UnitId) (slice : Nat) : Option UnitCtx :=
  s.units.find? (fun x => decide (x.unit = u) && x.slice == slice)
def mapUnit (u : UnitId) (slice : Nat) (f : UnitCtx → UnitCtx) (s : State) : State :=
  { s with units := s.units.map (fun x => if x.unit = u ∧ x.slice = slice then f x else x) }

/-- The index of a unit: cluster `c` is `c`, engine port `p` is `32 + p`. -/
def unitIdx : UnitId → Nat
  | .cluster c => c
  | .port p => 32 + p

/-- The unit exists: 32 clusters and 8 engine ports (R38). -/
def unitOk : UnitId → Bool
  | .cluster c => decide (c < 32)
  | .port p => decide (p < 8)

/-- The context that a unit serves now (R129). -/
def currentSlice (s : State) (u : UnitId) : Option Nat := Sparse.get? s.current (unitIdx u)

/-- The unit state of the context that a unit serves now. -/
def currentUnit (s : State) (u : UnitId) : Option UnitCtx :=
  (currentSlice s u).bind (findUnit s u)

/-- The queue that the guest may post to: `IDLE` or `ACTIVE` (R49). -/
def queueOpen (x : Queue) : Bool := decide (x.state = .idle) || decide (x.state = .active)

/-- Replace the first listed element that satisfies `p`. -/
def replaceFirst {α : Type} (p : α → Bool) (f : α → α) : List α → List α
  | [] => []
  | x :: xs => if p x then f x :: xs else x :: replaceFirst p f xs

/-- Present something at a port. -/
def emit (o : Output) (s : State) : State := { s with sent := o :: s.sent }
def emitAll (os : List Output) (s : State) : State := { s with sent := os.reverse ++ s.sent }

/-- Draw the number of a free value. -/
def drawFree (s : State) : Nat × State := (s.free, { s with free := s.free + 1 })

/-! ### Identity -/

/-- The node ID of a block of the part. -/
def nodeOf (s : State) (blk : Nat) : Nat := Sparse.get 0 s.boot.nodeIds blk
def ownNode (s : State) : Nat := nodeOf s s.boot.blkId
/-- The bytes of a node's memory (R503). -/
def nodeBytes (s : State) : Nat := 4 * 2 ^ s.boot.image.memLog2
/-- The node of a physical address and its local part (R39). -/
def paNode (pa : Nat) : Nat := bitsOf 63 52 pa
def paLocal (pa : Nat) : Nat := bitsOf 51 0 pa
/-- The place in this node of a physical address: its own memory, or the replica of a node it has assumed (R447, R453); and the key
slot there, the twin table's for a replica (R468). -/
def homePa (s : State) (pa : Nat) : Nat := if s.fab.assumed.contains (paNode pa) then ownNode s * 2 ^ 52 + paLocal pa else pa
def homeKey (s : State) (pa key : Nat) : Nat := if s.fab.assumed.contains (paNode pa) then 4096 + key else key
/-- The node that a slice's work speaks for: the assumed one for a slice of its set (R453, R456). -/
def sliceNode (s : State) (slice : Nat) : Nat := if slice < 1024 then ownNode s else s.twin.assumed.getD (ownNode s)
/-- The 22-bit slice tag (08 "Remote memory"): lead node in [21:10], slice ID in [9:0]. -/
def sliceTag (s : State) (slice : Nat) : Nat := (if slice < 1024 then nodeOf s s.boot.leadId else s.twin.lead) * 1024 + slice % 1024
/-- The pools of a slice, and the block whose pools are served here: this block's, or the assumed block's (R456). -/
def slicePools (s : State) (slice : Nat) : List Pool :=
  if slice < 1024 then s.cfg.active.pools.filter (fun p => p.slice == slice)
  else ((s.twin.set.map CfgSet.pools).getD []).filter (fun p => p.slice + 1024 == slice)
def sliceBlock (s : State) (slice : Nat) : Nat := if slice < 1024 then s.boot.blkId else s.twin.block
/-- Blocks of the part, from the mask of admitted blocks. -/
def partBlocks (s : State) : List Nat := (List.range 8).filter (fun b => s.boot.admitted.toNat.testBit b)
def otherBlocks (s : State) : List Nat := (partBlocks s).filter (fun b => b != s.boot.blkId)

/-! ### Links (R312 to R316, R326 to R328, R340 to R344) -/

/-- Little-endian numbers and bytes (00 "Numbers, sizes and bits"). -/
def leNat : List Byte → Nat
  | [] => 0
  | b :: bs => b.toNat + 256 * leNat bs
def leBytes (x : Nat) : Nat → List Byte
  | 0 => []
  | n + 1 => BitVec.ofNat 8 x :: leBytes (x / 256) n

/-- One bit of the CRC-32 of R315, least significant bit first. -/
def crcBit (c : Word32) : Word32 := if c.getLsbD 0 then (c >>> 1) ^^^ 0xEDB88320#32 else c >>> 1
def crcByte (c : Word32) (b : Byte) : Word32 :=
  crcBit (crcBit (crcBit (crcBit (crcBit (crcBit (crcBit (crcBit (c ^^^ b.setWidth 32))))))))
/-- The CRC-32 of a list of bytes (R315). -/
def crc32 (bs : List Byte) : Word32 := bs.foldl crcByte 0xFFFFFFFF#32 ^^^ 0xFFFFFFFF#32

def groupAt (s : State) (g : Nat) : Group := Sparse.get {} s.fab.groups g
def setGroup (g : Nat) (x : Group) (s : State) : State :=
  { s with fab := { s.fab with groups := Sparse.set {} s.fab.groups g x } }
def laneAt (s : State) (k : Nat) : Lane := Sparse.get {} s.fab.lanes k
def setLane (k : Nat) (x : Lane) (s : State) : State :=
  { s with fab := { s.fab with lanes := Sparse.set {} s.fab.lanes k x } }

/-- A group has a lane in a mode other than traffic (R348). -/
def groupTesting (s : State) (g : Nat) : Bool := (List.range 6).any (fun k => (laneAt s (6 * g + k)).mode != 0)
/-- The group carries traffic (R329, R348, R351). -/
def groupCarries (s : State) (g : Nat) : Bool :=
  (groupAt s g).up && (groupAt s g).ls == 0 && (groupAt s g).exiting.isNone && !groupTesting s g && !(groupAt s g).retrain
def anyGroupUp (s : State) : Bool := (List.range 8).any (groupCarries s)

/-- The route to a block: the path with the fewest die-to-die hops, ties toward the lower port (R341). -/
def bestRoute (paths : List (Nat × Nat × Nat)) (b : Nat) : Option (Nat × Nat) :=
  ((paths.filter (fun p => p.1 == b)).foldl (fun (m : Option (Nat × Nat × Nat)) p => match m with
    | none => some p
    | some q => if p.2.2 < q.2.2 ∨ (p.2.2 = q.2.2 ∧ p.2.1 < q.2.1) then some p else some q) none).map (fun p => (b, p.2.1))

/-- Every route is set anew from the paths that are left (R341). -/
def setRoutes (s : State) : State :=
  { s with fab := { s.fab with routes := (List.range 8).filterMap (bestRoute (s.fab.paths.filter (fun p => s.pins.d2dPresent.getLsbD p.2.1))) } }

/-- The die-to-die port toward a node that is another block of the part, where a path exists (R341). -/
def d2dRoute (s : State) (node : Nat) : Option Nat :=
  (s.fab.routes.find? (fun r => (otherBlocks s).contains r.1 && nodeOf s r.1 == node)).map Prod.snd
def d2dReaches (s : State) (node : Nat) : Bool := (d2dRoute s node).isSome

/-- A packet can leave now (R341, R346). -/
def canSend (s : State) (node : Nat) : Bool := node == ownNode s || d2dReaches s node || anyGroupUp s

/-- An all-zero packet, to be filled in. -/
def blankPacket : Packet :=
  { type := 0, tc := 1, rsp := false, comb := false, winv := false, dnode := 0, snode := 0, stag := 0, win := 0,
    txid := 0, len := 0, sub := 0, fmt := 0, epoch := 0, addr := 0, key := 0, status := 0, cause := 0, payload := [],
    badSyms := 0 }

/-- The flit slots of a class at the far end of a link (R326), and the class as the state names it: 8 more for responses. -/
def classSlots (c : Nat) : Nat :=
  match c with
  | 0 => 32 | 1 => 256 | 2 => 128 | 3 => 64 | 8 => 32 | 9 => 128 | 10 => 64 | _ => 16
def packetClass (p : Packet) : Nat := p.tc % 8 + (if p.rsp then 8 else 0)

/-- The class in which a frame takes its turn (R328): classes above 4 are not used; the answer to a packet of one goes with TC4. -/
def turnClass (p : Packet) : Nat := min (p.tc % 8) 4

/-- Bytes 0 to 27 of a header: every reserved field is 0 (R314). -/
def headerBytes (p : Packet) : List Byte :=
  leBytes p.type 1 ++ leBytes (p.tc % 8 + (if p.rsp then 8 else 0) + (if p.comb then 16 else 0) + (if p.winv then 32 else 0)) 1 ++
  leBytes (p.dnode % 2 ^ 12) 2 ++ leBytes (p.snode % 2 ^ 12) 2 ++ leBytes (p.stag % 2 ^ 22 + p.win % 2 ^ 10 * 2 ^ 22) 4 ++ leBytes p.txid 2 ++
  leBytes (p.len % 2 ^ 9 + p.sub % 2 ^ 4 * 2 ^ 9 + p.fmt % 2 ^ 3 * 2 ^ 13) 2 ++ leBytes p.epoch 2 ++ leBytes p.addr 8 ++
  (if p.rsp then leBytes (p.status % 2 ^ 8) 2 ++ leBytes (p.cause % 2 ^ 12) 2 else leBytes (p.key % 2 ^ 12) 2 ++ leBytes 0 2)

/-- A payload padded with zeros to a multiple of 16 bytes (R312). -/
def paddedBytes (bs : List Byte) : List Byte := bs ++ List.replicate ((16 - bs.length % 16) % 16) 0

/-- A list cut or filled up to a length. -/
def fitBytes (n : Nat) (bs : List Byte) : List Byte := bs.take n ++ List.replicate (n - bs.length) 0

/-- The frame of a parcel (R312, R314 to R316): check bytes are formed here or kept as they came; the CRC covers header bytes 0 to 27, the
padded payload and the check bytes. -/
def frameOf (tag : Word64) (q : Parcel) : Frame :=
  let h := headerBytes q.packet
  let pay := paddedBytes q.packet.payload
  let check := fitBytes (pay.length / 8) (q.check.getD (Config.checkBytes pay))
  { tag := tag, header := h ++ leBytes (crc32 (h ++ pay ++ check)).toNat 4, payload := pay, check := check, codewords := [], tagOk := true }

/-- A link tag (R313). -/
def tagWord (ack : BitVec 12) (nak : Bool) (cls credit : Nat) (seq : BitVec 12) : Word64 :=
  BitVec.ofNat 64 (seq.toNat + ack.toNat * 2 ^ 12 + (if nak then 2 ^ 24 else 0) + cls % 8 * 2 ^ 25 + (if 8 ≤ cls then 2 ^ 28 else 0) + credit % 1024 * 2 ^ 29)

/-- The wire bytes of a frame (R312). -/
def wireBytes (p : Packet) : Nat := 40 + (p.payload.length + 15) / 16 * 18

/-- What a link presents when it sends a frame, or sends it again. -/
def present (g : Nat) (ack : BitVec 12) (nak : Bool) (t : SentFrame) : Output :=
  match t.parcel.msg with
  | some m => .d2d m.1 m.2
  | none => .frame g (frameOf (tagWord ack nak t.cls t.credit t.seq) t.parcel)

/-- A link after a frame: a slot is spent, the frame is held until it is acknowledged (R326, R343), its tag returns credits of one class
(R327), its wire bytes are counted (R328), and on an encrypted link it lies in a tag block of at most 16 frames (R344). -/
def frameSent (t : Nat) (f : SentFrame) (x : Group) : Group :=
  let c := packetClass f.parcel.packet
  { x with
    spent := if f.parcel.packet.type = 0 then x.spent else Sparse.set 0 x.spent c (Sparse.get 0 x.spent c + 1)
    owed := if f.credit = 0 then x.owed else Sparse.set 0 x.owed f.cls (Sparse.get 0 x.owed f.cls - f.credit)
    txSeq := x.txSeq + 1, unacked := x.unacked ++ [f]
    wire := (t, turnClass f.parcel.packet, wireBytes f.parcel.packet) :: x.wire.filter (fun w => decide (t < w.1 + 16))
    tagBlocks := if x.enc ∧ x.blockFrames = 0 then x.tagBlocks + 1 else x.tagBlocks
    blockFrames := if x.enc then (x.blockFrames + 1) % 16 else x.blockFrames }

/-- A flit slot of this end's receive buffer is free again, and owed to the sender (R326, R327). -/
def oweCredit (c : Nat) (x : Group) : Group := { x with owed := Sparse.set 0 x.owed c (Sparse.get 0 x.owed c + 1) }

/-- The next frame of a link, made of a parcel: the credits that it returns are those of the first class that is owed any. -/
def nextSent (x : Group) (q : Parcel) : SentFrame :=
  let c := x.owed.headD (0, 0)
  { seq := x.txSeq, parcel := q, cls := c.1, credit := min c.2 1023 }

/-- Send a parcel in a frame on link `g` (R312 to R316). The 16th frame of a tag block closes it (R344). -/
def sendFrame (g : Nat) (nak : Bool) (q : Parcel) (s : State) : State :=
  let x := groupAt s g
  let f := nextSent x q
  let y := frameSent (now s) f x
  let s1 := emit (present g x.rxSeq nak f) (setGroup g y s)
  let s2 := if x.enc ∧ y.blockFrames = 0 then emit (.tagBlock g y.tagBlocks) s1 else s1
  match q.cameOn with
  | some h => setGroup h (oweCredit (packetClass q.packet) (groupAt s2 h)) s2
  | none => s2

/-- A frame of a header alone (R327). -/
def headerOnly : Parcel := { packet := blankPacket }

/-- A link takes a frame of a class: it has a slot and room to replay it, and a port group carries traffic (R326, R343). -/
def linkOpen (s : State) (c g : Nat) : Bool :=
  decide (Sparse.get 0 (groupAt s g).spent c < classSlots c) && decide ((groupAt s g).unacked.length < 512) && (decide (8 ≤ g) || groupCarries s g)

/-- A parcel may go over link `g`: the die-to-die port of its route, or any port group where there is none (R329, R341). -/
def routedOver (s : State) (g : Nat) (p : Packet) : Bool :=
  match d2dRoute s p.dnode with
  | some n => g == 8 + n
  | none => decide (g < 8)

/-- The bytes that a link can carry in 16 ticks: a lane 25,600 at 200 Gb/s, a die-to-die port 1,048,576 at 4,096 bits a cycle of 2.0 GHz. -/
def linkCapacity (s : State) (g : Nat) : Nat :=
  if 8 ≤ g then 1048576
  else ((List.range 6).filter (fun k => (groupAt s g).lanes.getLsbD k)).length * (if (groupAt s g).rate = 2 then 51200 else 25600)

/-- The wire bytes of a class in the last 16 ticks. -/
def classBytes (s : State) (g c : Nat) : Nat :=
  (((groupAt s g).wire.filter (fun w => w.2.1 == c && decide (now s < w.1 + 16))).map (fun w => w.2.2)).sum

/-- TC4 has used less than 1/16, and TC3 less than 1/8, of the link's wire bytes (R328; of what the link can carry in the 16 ticks: log 74). -/
def shareLeft (s : State) (g c : Nat) : Bool :=
  if c = 4 then decide (16 * classBytes s g 4 < linkCapacity s g)
  else if c = 3 then decide (8 * classBytes s g 3 < linkCapacity s g) else true

/-- The oldest parcel of a class that is ready for a link. -/
def readyParcel (s : State) (g c : Nat) : Option Parcel :=
  if shareLeft s g c then s.fab.outbox.find? (fun q => turnClass q.packet == c && routedOver s g q.packet && linkOpen s (packetClass q.packet) g)
  else none

/-- The round robin of TC1, TC2 and TC3 at 4 : 2 : 1, and the first of them, from place `t` on, that has a frame ready, with the place after
it (R328; the order within a round is the model's: log 74). -/
def robinOrder : List Nat := [1, 1, 1, 1, 2, 2, 3]
def robinPick (s : State) (g t : Nat) : Option (Parcel × Nat) :=
  (List.range 7).findSome? (fun i => (readyParcel s g (robinOrder.getD ((t + i) % 7) 1)).map (fun q => (q, (t + i + 1) % 7)))

/-- The next frame of a link (R328): TC0, then TC4 within its share, then the round robin. -/
def nextFrame (s : State) (g : Nat) : Option (Parcel × Nat) :=
  let turn := (groupAt s g).turn
  match readyParcel s g 0 with
  | some q => some (q, turn)
  | none => match readyParcel s g 4 with
    | some q => some (q, turn)
    | none => robinPick s g turn

/-- One link sends its next frame, chosen freely among the links that have one ready (R329, log 42). -/
def pumpOne (s : State) : Option State :=
  match (List.range 11).filter (fun g => (nextFrame s g).isSome) with
  | [] => none
  | g :: gs =>
    let k := if gs.isEmpty then g else (g :: gs).getD (Config.linkChoice s.free % (gs.length + 1)) g
    (nextFrame s k).map (fun q => sendFrame k false q.1
      { setGroup k { groupAt s k with turn := q.2 } s with
        free := s.free + 1
        fab := { (setGroup k { groupAt s k with turn := q.2 } s).fab with outbox := s.fab.outbox.erase q.1 } })

def pump : Nat → State → State
  | 0, s => s
  | n + 1, s => match pumpOne s with | some t => pump n t | none => s

/-- No frame waits: open tag blocks close (R344). -/
def closeBlocks (s : State) : State :=
  if s.fab.groups.all (fun e => e.2.blockFrames == 0) then s
  else emitAll ((s.fab.groups.filter (fun e => e.2.blockFrames != 0)).map (fun e => Output.tagBlock e.1 e.2.tagBlocks))
    { s with fab := { s.fab with groups := s.fab.groups.map (fun e => (e.1, { e.2 with blockFrames := 0 })) } }

/-- A link can return credits: it is up and not retraining, and its replay buffer has room (R343, R351). -/
def linkReturns (s : State) (g : Nat) : Bool :=
  decide ((groupAt s g).unacked.length < 512) &&
  (decide (8 ≤ g) || ((groupAt s g).up && !(groupAt s g).retrain && (groupAt s g).ls == 0 && !groupTesting s g))

/-- Credits that no frame has taken along go back in frames of a header alone, one for each class (R327). -/
def returnCredits (s : State) : State :=
  s.fab.groups.foldl (fun s e => e.2.owed.foldl (fun s _ =>
    if !(groupAt s e.1).owed.isEmpty ∧ linkReturns s e.1 then sendFrame e.1 false headerOnly s else s) s) s

/-- Send what waits, as far as slots and shares let it (R326, R328), and then return the credits left. -/
def flushOutbox (s : State) : State := closeBlocks (returnCredits (pump s.fab.outbox.length s))

/-- Put a parcel behind what waits, and send what can go. -/
def sendParcel (q : Parcel) (s : State) : State := flushOutbox { s with fab := { s.fab with outbox := s.fab.outbox ++ [q] } }

/-- Send a packet: on a link that takes it, or held until one does (R21, R326, R346). -/
def transmit (p : Packet) (s : State) : State := if p.dnode = ownNode s then emit (.packet p) s else sendParcel { packet := p } s

/-- The class of a part-internal message: forwarded doorbells, and dispatches, travel in TC0, all others in TC4 (R341, spec/03 "The
real-time dispatch bound"). -/
def msgClass : D2dMsg → Nat
  | .doorbell _ _ _ _ => 0
  | .mgmt (.dispatch _ _) => 0
  | _ => 4

/-- The lead's lift count is a `LIFT` packet (R92, R317). -/
def msgLift : D2dMsg → Bool
  | .liftCount _ => true
  | .mgmt (.liftCount _) => true
  | _ => false

/-- Send a part-internal message to a block: over its die-to-die route under R326 to R328, or, with no route, over the fabric lanes
(R340, R341). -/
def sendD2d (b : Nat) (m : D2dMsg) (s : State) : State :=
  if (d2dRoute s (nodeOf s b)).isNone then emit (.d2d b m) s
  else sendParcel { packet := { blankPacket with type := (if msgLift m then 0x08 else 0x0A), tc := msgClass m, dnode := nodeOf s b, snode := ownNode s }, msg := some (b, m) } s

/-- Send one message to each of several blocks. -/
def emitD2d (blks : List Nat) (m : D2dMsg) (s : State) : State := blks.foldl (fun s b => sendD2d b m s) s

/-! ### Interrupts (R409 to R411) -/

/-- Sources that are never pending (R410). -/
def sourceReserved (n : Nat) : Bool := (12 ≤ n && n ≤ 15) || (18 ≤ n && n ≤ 31) || (48 ≤ n && n ≤ 127)
def sourceLevel (n : Nat) : Bool := n == 6 || n == 16 || n == 17

def setBit256 (n : Nat) (x : BitVec 256) : BitVec 256 := x ||| (1#256 <<< n)
def clearBit256 (n : Nat) (x : BitVec 256) : BitVec 256 := x &&& ~~~(1#256 <<< n)

/-- The host has enabled source `n` (R410: sources 128 to 255 are never enabled for the host). -/
def hostEnabled (icu : Icu) (n : Nat) : Bool := n < 128 && icu.en.getLsbD n

/-- Source `n` becomes pending, and a message is owed when the host has enabled it (R411). -/
def setPending (n : Nat) (icu : Icu) : Icu :=
  { icu with pend := setBit256 n icu.pend, owed := if hostEnabled icu n then setBit256 n icu.owed else icu.owed }

/-- Source `n` stops being pending, and any message owed is cancelled (R411). -/
def clearPending (n : Nat) (icu : Icu) : Icu :=
  { icu with pend := clearBit256 n icu.pend, owed := clearBit256 n icu.owed }

/-- An event of an edge source: pending at the lead (R411); a member forwards it (R409). While the interrupt unit is
off, an event is not pending unless the wake watcher latches it (R417). -/
def raiseSource (n : Nat) (s : State) : State :=
  if sourceReserved n then s
  else if s.boot.isLead then (if s.icu.powered then { s with icu := setPending n s.icu } else s)
  else sendD2d s.boot.leadId (.interrupt n) s

def mailbox (s : State) (m : Nat) : Mailbox := Sparse.get {} s.mbx m
def setMailbox (m : Nat) (b : Mailbox) (s : State) : State := { s with mbx := Sparse.set {} s.mbx m b }

/-- The condition of a level source (R410). -/
def levelCondition (s : State) (n : Nat) : Bool :=
  if n = 6 then !s.fq.ring.isEmpty
  else if n = 16 then (mailbox s 1).go || decide (s.chan.rplTail ≠ s.chan.rplHead)
  else if n = 17 then !(mailbox s 0).go || decide (16 ≤ 256 - (s.chan.reqTail - s.chan.reqHead).toNat)
  else false

/-- Let one level source follow its condition; a message is owed when it becomes pending (R411). -/
def followLevel (s : State) (n : Nat) (icu : Icu) : Icu :=
  if levelCondition s n then (if icu.pend.getLsbD n then icu else setPending n icu) else clearPending n icu

/-- Let every level source follow its condition. -/
def refreshLevels (s : State) : State :=
  { s with icu := followLevel s 17 (followLevel s 16 (followLevel s 6 s.icu)) }

/-! ### Fault records (R419 to R427, R591) -/

/-- The 32-bit `SEQ` of a record: raising block in [31:29], record count in [28:0]. -/
def seqWord (r : FaultRecord) : Word32 := BitVec.ofNat 32 (r.seqBlock * 2 ^ 29 + r.seqCount)

/-- The class of a cause (R420). -/
def causeClass (cause : Nat) : Nat := cause / 256

/-- A record reaches the lead's ring, or is counted as dropped when the ring is full; the last-fault slot and
`FQ_LAST_SEQ` take it in either case (R424, R426, R427). -/
def enterRing (r : FaultRecord) (s : State) : State :=
  let last := if r.noSlice then s.fq.last else Sparse.put s.fq.last r.slice r
  let fq := { s.fq with last := last, lastSeq := seqWord r }
  if s.fq.ring.length < 4096 then
    refreshLevels { s with fq := { fq with ring := fq.ring ++ [r] } }
  else
    let c := causeClass r.cause
    raiseSource 7 { s with fq := { fq with
      drop := Sparse.set 0 fq.drop c (min (Sparse.get 0 fq.drop c + 1) (2 ^ 32 - 1)), overflow := true } }

/-- The record count after `n` (R591). -/
def nextCount (n : Nat) : Nat := if n = 2 ^ 29 - 1 then 1 else n + 1

/-- A record as the block completes it: its `SEQ`, block and tick. -/
def completeRecord (s : State) (r : FaultRecord) : FaultRecord :=
  { r with slice := r.slice % 1024, seqBlock := s.boot.blkId, seqCount := nextCount s.fq.count, block := s.boot.blkId, tick := now s }

/-- Write a record: it takes the block's next `SEQ`; the lead enters it in the ring, a member forwards it (R424). -/
def writeRecord (r : FaultRecord) (s : State) : State :=
  let r' := completeRecord s r
  let s' := { s with fq := { s.fq with count := nextCount s.fq.count } }
  if s.boot.isLead then enterRing r' s' else sendD2d s.boot.leadId (.record r') s'

/-- The `SEQ` that the next record of the block will carry. -/
def nextSeq (s : State) : Word32 := seqWord (completeRecord s {})

/-- A record that names no slice and no queue. -/
def plainRecord (cause addr detail : Nat) : FaultRecord :=
  { cause := cause, noQueue := true, noSlice := true, addr := addr, detail := detail }

/-- The context slot of a slice, 0 when it has none. -/
def contextSlot (s : State) (slice : Nat) : Nat := ((findContext s slice).map Context.slot).getD 0

/-- Bytes 0 and 1 of R379: [15] proxy; block [11:9]; cluster [8:4] and engine [3:0], or port [2:0]. -/
def engineId (s : State) (u : UnitId) (eng : Nat) : Nat :=
  match u with
  | .cluster c => s.boot.blkId * 512 + c * 16 + eng
  | .port p => 32768 + s.boot.blkId * 512 + p

/-! ### Where a context's tallies lie (R113, R114, R262) -/

/-- A context's tallies on a unit are out: it is not resident, or its save has begun or its load has not ended (R262). -/
def talliesOut (s : State) (slice : Nat) (u : UnitId) : Bool :=
  match findContext s slice with
  | some c => !c.resident || !c.saving.isEmpty || c.loading.contains u
  | none => true

/-- The key of a context's tally in its saved image. -/
def savedKey (u : UnitId) (i : Nat) : Nat := unitIdx u * 256 + i

/-- A context's tallies on a unit lie in its saved image: its save there has ended, or its load there has not (R113, R114). -/
def tallySaved (s : State) (slice : Nat) (u : UnitId) : Bool :=
  match findContext s slice with
  | some c => c.saved.isSome && (if c.saving.isEmpty then !c.resident || c.loading.contains u else !c.saving.contains u)
  | none => false

/-! ### Stopping a queue (R83, R249, R296) -/

/-- Every instruction that a unit's context holds, those set aside among them (R107). -/
def allInsns (x : UnitCtx) : List EngInsn := x.insns ++ (x.aside.map Aside.insns).getD []

/-- Change the instructions of a unit's context, wherever they stand. -/
def mapInsns (f : List EngInsn → List EngInsn) (x : UnitCtx) : UnitCtx :=
  { x with insns := f x.insns, aside := x.aside.map (fun a => { a with insns := f a.insns }) }

/-- The request belongs to work of queue `q` of `slice`. -/
def ownerOf (s : State) (slice q : Nat) : Owner → Bool
  | .insn u sl i => sl == slice &&
      (match findUnit s u sl with
       | some x => (allInsns x).any (fun e => e.id == i && e.queue == q)
       | none => false)
  | .desc sl q' _ => sl == slice && q' == q
  | _ => false

/-- The request still waits for a frame slot (R326): it is a packet of this block in the outbox, and is not issued. -/
def unframed (s : State) (t : Txn) : Bool := s.fab.outbox.any (fun q => q.msg.isNone && decide (q.packet = t.packet))

/-- The request has not been issued to the fabric. -/
def txnWaits (s : State) (t : Txn) : Bool := !t.sent || unframed s t

/-- Drop outstanding requests by tag: those not issued vanish, from the outbox too; the answers of the issued ones are ignored but
for the new owner that waits for them. -/
def dropOwned (mine : Owner → Bool) (to' : Owner) (s : State) : State :=
  let gone := (s.fab.txns.filter (fun t => mine t.owner && txnWaits s t)).map Txn.packet
  { s with
    mp := { s.mp with
      queue := s.mp.queue.filter (fun r => !mine r.owner)
      out := s.mp.out.map (fun r => if mine r.owner then { r with owner := to', onRead := .discard } else r) }
    fab := { s.fab with
      outbox := s.fab.outbox.filter (fun q => q.msg.isSome || !gone.contains q.packet)
      txns := (s.fab.txns.filter (fun t => !(mine t.owner && txnWaits s t))).map
        (fun t => if mine t.owner then { t with owner := to', onRead := .discard } else t) } }

/-- Drop a queue's outstanding requests. -/
def dropRequests (slice q : Nat) (to' : Owner) (s : State) : State := dropOwned (ownerOf s slice q) to' s

/-- The first bank and bank count a slice's context holds on a unit of this block (R130, R131, R370): all 32 of an
exclusive cluster, its partition of a shared one; a proxy has no banks and 64 tallies. -/
def partition (s : State) (slice : Nat) (u : UnitId) : Option (Nat × Nat) :=
  match (slicePools s slice).find? (fun p => p.block == sliceBlock s slice) with
  | none => none
  | some p =>
    match u with
    | .cluster c =>
      if p.clmask.getLsbD c then some (0, 32)
      else (p.shares.find? (fun h => !h.port && h.unit == c)).map (fun h => (h.firstBank, h.banks))
    | .port n =>
      if p.epmask.getLsbD n then some (0, 8)
      else (p.shares.find? (fun h => h.port && h.unit == n)).map (fun _ => (0, 8))

/-- The SRAM bytes and the tallies a context sees on a unit (R130, R197). -/
def sramSize (s : State) (slice : Nat) (u : UnitId) : Nat :=
  match u, partition s slice u with
  | .cluster _, some (_, b) => b * 65536
  | _, _ => 0
def tallyCount (s : State) (slice : Nat) (u : UnitId) : Nat :=
  match partition s slice u with
  | some (_, b) => 8 * b
  | none => 0

/-- The place of a context's tally in the block's tally file (R130); each context on a proxy has 64 of its own (log 39). -/
def tallyKey (s : State) (slice : Nat) (u : UnitId) (i : Nat) : Option Nat :=
  match partition s slice u with
  | some (f, b) =>
    if i < 8 * b then
      some (match u with | .cluster c => slice / 1024 * 2 ^ 14 + c * 256 + 8 * f + i | .port p => 2 ^ 15 + slice * 512 + p * 64 + i)
    else none
  | none => none

def tallyAt (s : State) (k : Nat) : Tally := Sparse.get {} s.tallies k
def setTallyAt (k : Nat) (t : Tally) (s : State) : State := { s with tallies := Sparse.set {} s.tallies k t }

/-- A context's tally; zero where it has none. -/
def tally (s : State) (slice : Nat) (u : UnitId) (i : Nat) : Tally :=
  match tallyKey s slice u i with
  | some k => tallyAt s k
  | none => {}

/-- A tally in a context's saved image. -/
def imageTally (s : State) (slice : Nat) (u : UnitId) (i : Nat) : Tally :=
  Sparse.get {} ((((findContext s slice).bind Context.saved).map Saved.tallies).getD []) (savedKey u i)

/-- A context's tally wherever it lies: in hardware, or in its saved image (R113, R262). -/
def placedTally (s : State) (slice : Nat) (u : UnitId) (i : Nat) : Tally :=
  if tallySaved s slice u then imageTally s slice u i else tally s slice u i

/-- Change a tally in a context's saved image. -/
def mapImage (slice : Nat) (u : UnitId) (i : Nat) (f : Tally → Tally) (s : State) : State :=
  mapContext slice (fun c => { c with saved := c.saved.map (fun w => { w with
    tallies := Sparse.set {} w.tallies (savedKey u i) (f (Sparse.get {} w.tallies (savedKey u i))) }) }) s

/-- Change a context's tally wherever it lies. -/
def mapPlaced (slice : Nat) (u : UnitId) (i : Nat) (f : Tally → Tally) (s : State) : State :=
  if tallySaved s slice u then mapImage slice u i f s
  else match tallyKey s slice u i with
    | some k => setTallyAt k (f (tallyAt s k)) s
    | none => s

/-- `E` of a tally (R204). -/
def expectOf (x : UnitCtx) (i : Nat) : BitVec 48 := Sparse.get 0 x.expect i
def setExpect (i : Nat) (v : BitVec 48) (x : UnitCtx) : UnitCtx := { x with expect := Sparse.set 0 x.expect i v }

/-- The run of a sequencer and those that have halted. -/
def workRuns (z : Option Seq) (draining : List Run) : List Run := (z.map (fun z => [z.run])).getD [] ++ draining

/-- The runs that a unit's context holds: the one its sequencer runs, those that have halted, and those set aside. -/
def heldRuns (x : UnitCtx) : List Run := workRuns x.seq x.draining ++ (x.aside.map (fun a => workRuns a.seq a.draining)).getD []

/-- The runs of a unit's context that belong to queue `q`. -/
def runsOfQueue (x : UnitCtx) (q : Nat) : List Run := (heldRuns x).filter (fun r => r.queue == q)

/-- Rebase the tallies in the range of stopped runs: `E` takes `VALUE` (R249). -/
def rebaseRuns (s : State) (rs : List Run) (x : UnitCtx) : UnitCtx :=
  rs.foldl (fun x r => (List.range r.tallyCount).foldl
    (fun x i => setExpect (r.tallyFirst + i) (placedTally s x.slice x.unit (r.tallyFirst + i)).value x) x) x

/-- An `EPCALL` already handed off, which runs to completion (R233, R378). -/
def handedOff (e : EngInsn) : Bool := e.started && e.word.toNat / 2 ^ 120 == 0x90

/-- Take runs that `p` selects and instructions whose numbers are `gone` off a unit, and the quadrants those were busy on. -/
def dropRuns (p : Run → Bool) (gone : List Nat) (x : UnitCtx) : UnitCtx :=
  let seqs := fun (z : Option Seq) => z.filter (fun z => !p z.run)
  let insns := fun (es : List EngInsn) => es.filter (fun e => !gone.contains e.id)
  let quads := fun (qs : List (Nat × Quad)) => qs.filter (fun e => match e.2.busy with | some i => !gone.contains i | none => true)
  { x with
    seq := seqs x.seq, draining := x.draining.filter (fun r => !p r), insns := insns x.insns, quads := quads x.quads
    aside := x.aside.map (fun a => { a with
      seq := seqs a.seq, draining := a.draining.filter (fun r => !p r), insns := insns a.insns, quads := quads a.quads }) }

/-- Take a queue's work off a unit: its runs and engine instructions, and the quadrants they were busy on. `rebase` sets `E` of
the runs' tallies (R249); `calls` leaves the `EPCALL`s already handed off (R377, R378). -/
def clearUnitWork (s : State) (q : Nat) (rebase calls : Bool) (x : UnitCtx) : UnitCtx :=
  let gone := ((allInsns x).filter (fun e => e.queue == q && !(calls && handedOff e))).map EngInsn.id
  dropRuns (fun r => r.queue == q) gone (if rebase then rebaseRuns s (runsOfQueue x q) x else x)

/-- The number that stands for the front end where an engine is named. -/
def frontEng : Nat := 9

/-- The engine mask of R293: `SHARERS` (sequencer, GSU and DMA engine of each cluster) and `PORTS`; the front end has no bit. -/
def sharerMask (es : List (UnitId × Nat × Nat)) : Nat × Nat :=
  es.foldl (fun m e =>
    match e.1 with
    | .cluster c =>
      let b := if e.2.1 = 5 then 32 + c else if e.2.1 = 8 then 64 + c else c
      if e.2.1 = frontEng then m else (m.1 ||| 2 ^ b, m.2)
    | .port p => (m.1, m.2 ||| 2 ^ p)) (0, 0)

/-- R293: open an entry for a page and write its one record, which names every engine stalled there. -/
def openEntry (slice seg page : Nat) (es : List (UnitId × Nat × Nat)) (r : FaultRecord) (s : State) : State :=
  let m := sharerMask es
  let e : OpenFault := { slice := slice, segment := seg, page := page, seq := nextSeq s, engines := es }
  writeRecord { r with cause := 0x102, slice := slice, resumable := true, sharers := m.1, ports := m.2 }
    { s with xlat := { s.xlat with opens := s.xlat.opens ++ [e] } }

/-- R294: when an entry frees, the first page that waits for one takes it, with every engine that waits on it. -/
def admitOne (s : State) : State :=
  if 128 ≤ s.xlat.opens.length then s else
    match s.xlat.waiting with
    | [] => s
    | w :: _ =>
      let here := fun (x : OpenWait) => x.slice == w.slice && x.segment == w.segment && x.page == w.page
      openEntry w.slice w.segment w.page ((s.xlat.waiting.filter here).map OpenWait.engine) w.record
        { s with xlat := { s.xlat with waiting := s.xlat.waiting.filter (fun x => !here x) } }

/-- R294: pages that wait take the entries that are free, one after another. -/
def admitWaiting (s : State) : State := (List.range s.xlat.waiting.length).foldl (fun s _ => admitOne s) s

/-- An engine of slice `slice` that does not work for queue `q`. -/
def notOfQueue (s : State) (slice q : Nat) (e : UnitId × Nat × Nat) : Bool :=
  e.2.2 != 2 ^ 32 + q &&
    (match findUnit s e.1 slice with
     | some x => !((allInsns x).any (fun i => i.id == e.2.2 && i.queue == q)) &&
         !(heldRuns x).any (fun r => r.queue == q && 2 ^ 33 + r.id == e.2.2)
     | none => true) &&
    !((findSlice s slice).map (fun x => x.runs.any (fun r => r.queue == q && 2 ^ 33 + r.id == e.2.2))).getD false

/-- Engines of a stopped queue leave their open-fault entries; an entry that empties closes (R296). -/
def leaveOpenFaults (slice q : Nat) (s : State) : State :=
  let keep := notOfQueue s slice q
  admitWaiting { s with xlat := { s.xlat with
    opens := (s.xlat.opens.map (fun o => if o.slice = slice then { o with engines := o.engines.filter keep } else o)).filter
      (fun o => !o.engines.isEmpty)
    walks := s.xlat.walks.map (fun w => if w.slice = slice then
      { w with demand := w.demand.filter (fun d => keep (d.unit, d.eng, d.id)) } else w)
    waiting := s.xlat.waiting.filter (fun w => w.slice != slice || keep w.engine) } }

/-- A unit's context holds work of queue `q`. -/
def holdsQueue (x : UnitCtx) (q : Nat) : Bool := !(runsOfQueue x q).isEmpty || (allInsns x).any (fun e => e.queue == q)

/-- The engines of units are asked to stop (R83, R105, R113, R377): the tick is kept, for the 782 ticks of R428. -/
def askUnits (us : List UnitId) (s : State) : State :=
  { s with recovery := { s.recovery with stopAsked := us.foldl (fun m u => Sparse.put m (unitIdx u) (now s)) s.recovery.stopAsked } }

/-- Stop every run and transfer of a queue on every engine of this block: step 2 of R83, steps 1 and 2 of R377. -/
def stopQueueWork (slice q : Nat) (to' : Owner) (rebase calls : Bool) (s0 : State) : State :=
  let s := askUnits ((s0.units.filter (fun x => x.slice == slice && holdsQueue x q)).map UnitCtx.unit) s0
  let s1 := dropRequests slice q to' (leaveOpenFaults slice q s)
  let s2 := { s1 with units := s1.units.map (fun x => if x.slice = slice then clearUnitWork s1 q rebase calls x else x) }
  mapSlice slice (fun x => { x with
    runs := x.runs.filter (fun r => r.queue != q)
    graphs := x.graphs.map (fun g => { g with launches := g.launches.filter (fun l => l.queue != q) })
    aborted := x.aborted && x.graphs.any (fun g => g.step && g.launches.any (fun l => l.queue != q))
    abortedFor := if x.graphs.any (fun g => g.step && g.launches.any (fun l => l.queue != q)) then x.abortedFor else [] }) s2

def descDone (d : Desc) : Bool := decide (d.phase = .done)

/-- How many descriptors from the oldest are done. -/
def donePrefix : List Desc → Nat
  | [] => 0
  | d :: ds => if descDone d then donePrefix ds + 1 else 0

/-- Mirrored pairing states, in which `COMPLETED` waits for the twin's acknowledgement (R450). -/
def mirroring (s : State) : Bool :=
  decide (s.twin.state = .pairing) || decide (s.twin.state = .tight) || decide (s.twin.state = .loose)

/-- Let `COMPLETED` count the done prefix, as far as the twin has acknowledged it (R77, R450). -/
def advanceQueue (t : Nat) (limit : Option Nat) (x : Queue) : Queue :=
  let n := match limit with
    | none => donePrefix x.descs
    | some m => min (donePrefix x.descs) (m - x.completed)
  if n = 0 then x else
    let done := x.completed + n
    { x with
      completed := done, descs := x.descs.drop n, timer := 0, waitingSince := t
      state := if queueOpen x && done == x.posted then .idle else x.state }

/-- The mirror's bound on a queue's `COMPLETED` (R450). -/
def countLimit (s : State) (x : Queue) : Option Nat := if mirroring s then some x.mirrored else none

/-- A queue as step 3 and step 4 of R83 leave it: `COMPLETED` frozen, nothing in flight, `STOPPED`. -/
def stoppedQueue (status : Nat) (guilty victim : Bool) (seq : Option Word32) (x : Queue) : Queue :=
  { x with state := .stopped, dstatus := status, guilty := guilty, victim := victim, descs := [],
           fetched := x.completed, armed := false, rung := false, timer := 0, quiescing := false,
           faultSeq := match seq with | some n => some n | none => x.faultSeq }

/-- The descriptor status codes that mark a queue (R79): 0x01 to 0x0D guilty, 0x0E victim. -/
def statusGuilty (st : Nat) : Bool := 1 ≤ st && st ≤ 13
def statusVictim (st : Nat) : Bool := st == 14

/-- A member reports how a queue stands to the lead, which presents the queue's registers (R34, R574). -/
def reportQueue (slice q : Nat) (s : State) : State :=
  if s.boot.isLead then s else
    let x := findQueue s slice q
    let get := fun (f : Queue → Nat) => (x.map f).getD 0
    let bit := fun (f : Queue → Bool) => (x.map f).getD false
    sendD2d s.boot.leadId (.mgmt (.queueReport
      { slice := slice, queue := q, state := x.map Queue.state, posted := get Queue.posted, fetched := get Queue.fetched,
        completed := get Queue.completed, dstatus := get Queue.dstatus, guilty := bit Queue.guilty, victim := bit Queue.victim,
        stale := bit Queue.stale, resident := ((findContext s slice).map Context.shown).getD false
        faultSeq := x.bind Queue.faultSeq })) s

/-- The other blocks of the part that hold a pool of the slice. -/
def poolBlocks (s : State) (slice : Nat) : List Nat :=
  (otherBlocks s).filter (fun b => decide (slice < 1024) && s.cfg.active.pools.any (fun p => p.slice == slice && p.block == b))

/-- Steps 3 and 4 of R83 at the queue's owner: the other blocks drop the queue's work, `COMPLETED` is frozen at the first descriptor
that did not complete, and the queue is `STOPPED`. -/
def closeQueue (slice q status : Nat) (seq : Word32) (s : State) : State :=
  let f := fun (x : Queue) =>
    stoppedQueue status (statusGuilty status) (statusVictim status) (some seq) (advanceQueue (now s) (countLimit s x) x)
  emitD2d (poolBlocks s slice) (.mgmt (.dropQueue slice q)) (reportQueue slice q (mapQueue slice q f s))

/-- The block that owns a queue: this block where it is not listed. -/
def queueOwner (s : State) (slice q : Nat) : Nat := ((findQueue s slice q).map Queue.owner).getD s.boot.blkId

/-- R83: write the record, stop the queue's work, freeze `COMPLETED`, set `STOPPED`, `DSTATUS`, the mark and
`FAULT_SEQ`. This is how the block takes every fault that ends a descriptor; a block that runs work of another block's queue tells
the owner (R34). -/
def stopQueue (slice q status : Nat) (r : FaultRecord) (s : State) : State :=
  let r' := { r with slice := slice, queue := q, dstatus := status, guilty := statusGuilty status,
                     victim := statusVictim status, context := contextSlot s slice }
  let seq := nextSeq s
  let s1 := stopQueueWork slice q .none true false (writeRecord r' s)
  if queueOwner s slice q = s.boot.blkId then closeQueue slice q status seq s1
  else sendD2d (queueOwner s slice q) (.mgmt (.queueStop slice q status seq)) s1

/-- `DSTATUS` of an execution fault (R79). -/
def stExecFault : Nat := 0x0B

/-- The `TAG` of a descriptor of a run that a unit holds, for another block's queue. -/
def heldTag (s : State) (slice q d : Nat) : Nat :=
  (s.units.findSome? (fun x => if x.slice = slice then
    ((heldRuns x).find? (fun r => r.queue == q && r.desc == d)).map (fun r => r.tag.toNat) else none)).getD 0

/-- The descriptor that runs an instruction's run, for its `DESC` and `TAG` fields. -/
def descTag (s : State) (slice q d : Nat) : Nat :=
  match (findQueue s slice q).bind (fun x => x.descs.find? (fun e => e.index == d)) with
  | some e => e.tag.toNat
  | none => heldTag s slice q d

/-- R24: the engine, at its program word, has been stopped by a fault in this tick. -/
def noteFault (slice q engine pc : Nat) (s : State) : State :=
  { s with tick := { s.tick with faults := s.tick.faults ++ [(slice, q, engine, pc)] } }

/-- An execution fault of engine `eng` of a unit, in the run of queue `q`, descriptor `d`, at program word `pc` (R212). -/
def execFault (u : UnitId) (slice eng q d pc cause addr detail : Nat) (s : State) : State :=
  stopQueue slice q stExecFault
    { cause := cause, engine := engineId s u eng, addr := addr, pc := pc, desc := d % 2 ^ 44,
      tag := descTag s slice q d, detail := detail } (noteFault slice q (engineId s u eng) pc s)

/-- The descriptor index of a run, from its unit's context. -/
def runDesc (x : UnitCtx) (run : Nat) : Nat := ((heldRuns x).find? (fun r => r.id == run)).elim 0 Run.desc

/-- A fault raised by an engine instruction. -/
def insnFault (x : UnitCtx) (e : EngInsn) (cause addr detail : Nat) (s : State) : State :=
  execFault x.unit x.slice e.eng e.queue (runDesc x e.run) e.pc cause addr detail s

/-! ### Tallies (R239, R245, R253) -/

/-- The largest tally value. -/
def tallyMax : Nat := 2 ^ 48 - 1

/-- R239: the saturating add. -/
def bumpTally (amount : Nat) (t : Tally) : Tally :=
  let v := min (t.value.toNat + amount) tallyMax
  { t with value := BitVec.ofNat 48 v, sat := t.sat || v == tallyMax }

/-- R583: the `ADDR` field of a sync record that names a tally. -/
def syncAddr (s : State) (u : UnitId) (tally tally2 : Nat) : Nat :=
  let unit := match u with | .cluster c => c * 256 | .port p => 32768 + p * 256
  tally2 * 2 ^ 24 + s.boot.blkId * 2 ^ 16 + unit + tally

/-- Wake the waits of a licensee's engine that a tally's new state ends (R514). -/
def wakeEngineWaits (u : UnitId) (s : State) : State :=
  match u with
  | .cluster _ => s
  | .port p =>
    let ep := Sparse.get {} s.ports p
    let bad := fun (w : EngineWait) => let t := tally s w.slice u w.tally; t.poison || t.sat
    let met := fun (w : EngineWait) => decide (w.threshold ≤ (tally s w.slice u w.tally).value.toNat)
    let out := ep.waits.filter (fun w => bad w || met w)
    emitAll (out.map (fun w => Output.wake p w.slot (bad w)))
      { s with ports := Sparse.set {} s.ports p { ep with waits := ep.waits.filter (fun w => !(bad w || met w)) } }

/-- What has been produced or consumed since a pair was declared (R244): `VALUE` less the origin, below 0 after a hand-set write. -/
def sinceOrigin (s : State) (x : UnitCtx) (i origin : Nat) : Int := (placedTally s x.slice x.unit i).value.toNat - (origin : Int)

/-- The first pair of a context that breaks a bound of R245 and has raised no record: which pair, and whether it is the
underflow. -/
def brokenPair (s : State) (x : UnitCtx) (i : Nat) : Option (Pair × Bool × Int × Int) :=
  x.pairs.findSome? (fun p =>
    if p.raised || !(p.producer == i || p.consumer == i) then none else
      let produced := sinceOrigin s x p.producer p.originP
      let consumed := sinceOrigin s x p.consumer p.originC
      if produced < consumed then some (p, true, produced, consumed)
      else if consumed + p.capacity < produced then some (p, false, produced, consumed)
      else none)

/-- Where a change of a tally comes from: the engine and the program word of the `SIG` that made it, 0 and 0 for a mailbox or an
engine's signal (R212). -/
structure Cause where
  eng : Nat := 0
  pc : Nat := 0

/-- R245 after a change of tally `i`: the fault stops the queue of the run that declared the pair. -/
def checkPairs (c : Cause) (u : UnitId) (slice i : Nat) (s : State) : State :=
  match findUnit s u slice with
  | none => s
  | some x =>
    match brokenPair s x i with
    | none => s
    | some (p, under, produced, consumed) =>
      let s1 := mapUnit u slice (fun y => { y with pairs := y.pairs.map (fun z => if z = p then { z with raised := true } else z) }) s
      execFault u slice c.eng p.queue p.desc c.pc (if under then 0x204 else 0x205)
        (syncAddr s u p.producer p.consumer) ((produced % 2 ^ 32).toNat * 2 ^ 32 + (consumed % 2 ^ 32).toNat) s1

/-- R24: the increments that this tick has brought to a tally, for a hand-set write in the same tick. -/
def noteIncrement (k amount : Nat) (s : State) : State :=
  { s with tick := { s.tick with
      incs := Sparse.set 0 s.tick.incs k (Sparse.get 0 s.tick.incs k + amount)
      olds := if (Sparse.get? s.tick.olds k).isSome then s.tick.olds else Sparse.put s.tick.olds k (tallyAt s k).value.toNat } }

/-- Add to a context's tally: discarded when it is poisoned (R253), saturating otherwise (R239); engine waits are ended
(R514) and the pair bounds checked (R245). -/
def addTallyFrom (c : Cause) (u : UnitId) (slice i amount : Nat) (s : State) : State :=
  match tallyKey s slice u i with
  | none => s
  | some k =>
    if (tallyAt s k).poison then s
    else checkPairs c u slice i (wakeEngineWaits u (setTallyAt k (bumpTally amount (tallyAt s k)) (noteIncrement k amount s)))

/-- An increment that no instruction of this block makes. -/
def addTally (u : UnitId) (slice i amount : Nat) (s : State) : State := addTallyFrom {} u slice i amount s

/-- R252: poison every tally of a context on a unit, in hardware or in its saved image. -/
def poisonUnit (slice : Nat) (u : UnitId) (s : State) : State :=
  let s1 := (List.range (tallyCount s slice u)).foldl (fun s i => mapPlaced slice u i (fun t => { t with poison := true }) s) s
  wakeEngineWaits u s1

/-- R252 over every unit of a context on this block. -/
def poisonContext (slice : Nat) (s : State) : State :=
  ((s.units.filter (fun x => x.slice == slice)).map UnitCtx.unit).foldl (fun s u => poisonUnit slice u s) s

/-! ### Device memory (R466, R503, R579) -/

/-- The canonical form of memory: addresses strictly rising. An address that is not listed has no value of its own (R579), so no entry can
equal what it reads as. -/
def Memory.wf (m : List Host.Cell) : Bool := Sparse.sorted m

/-- The key number that a slot holds; slots from 4,096 up are the twin table's (R465). -/
def keyNumber (s : State) (slot : Nat) : Nat :=
  if slot < 4096 then Sparse.get s.keys.base s.keys.slots slot else Sparse.get 0 s.keys.twin (slot - 4096)

/-- Write bytes under a key slot: a line last written under another key loses its old bytes (R579). -/
def writeLines (s : State) (slot : Nat) : List Nat → State
  | [] => s
  | l :: ls =>
    let tag := (slot, keyNumber s slot)
    let s1 := if Sparse.get? s.memKeys l = some tag then s
      else { s with mem := Sparse.delRange s.mem (l * 64) 64, memKeys := Sparse.put s.memKeys l tag }
    writeLines s1 slot ls

/-- The 64-byte lines that a range touches. -/
def linesOf (addr len : Nat) : List Nat :=
  if len = 0 then [] else (List.range ((addr + len - 1) / 64 - addr / 64 + 1)).map (fun i => addr / 64 + i)

def memWrite (addr slot : Nat) (data : List Byte) (s : State) : State :=
  let s1 := writeLines s slot (linesOf addr data.length)
  { s1 with mem := Sparse.putList s1.mem addr data }

/-- One byte of a line that was not written under the key it is read with (R579): `none` for two bad symbols. -/
def garbageByte (s : State) (slot a : Nat) : Option Byte :=
  (Config.garbageLine (a / 64) slot (keyNumber s slot)).map (fun n => BitVec.ofNat 8 (n >>> (8 * (a % 64))))

/-- One byte read under a key slot; `none` when the read finds two bad symbols. -/
def readByte (s : State) (slot a : Nat) : Option Byte :=
  if Sparse.get? s.memKeys (a / 64) = some (slot, keyNumber s slot) then
    match Sparse.get? s.mem a with
    | some b => some b
    | none => garbageByte s slot a
  else garbageByte s slot a

/-- A range read under a key slot; `none` when any line is uncorrectable. -/
def memRead (s : State) (slot addr : Nat) : Nat → Option (List Byte)
  | 0 => some []
  | n + 1 =>
    match readByte s slot addr with
    | none => none
    | some b => (memRead s slot (addr + 1) n).map (fun bs => b :: bs)

/-! ### Memory ports (R503, R505, R507) -/

/-- The port of a local address. -/
def portOf (x : Nat) : Nat := bitsOf 10 9 x

def linesMeet (a n b m : Nat) : Bool :=
  decide (a / 64 ≤ (b + m - 1) / 64) && decide (b / 64 ≤ (a + n - 1) / 64)

/-- R507: a request must wait while one on the same line is outstanding and either of them is a write. -/
def conflicts (mp : MemPorts) (r : MemReq) : Bool :=
  mp.out.any (fun o => (o.write || r.write) && linesMeet o.addr o.len r.addr r.len)

def tagFree (mp : MemPorts) (port t : Nat) : Bool := !mp.out.any (fun o => o.port == port && o.tag == t)
def freeTag (mp : MemPorts) (port : Nat) : Nat → Nat → Option Nat
  | 0, _ => none
  | n + 1, t => if tagFree mp port t then some t else freeTag mp port n (t + 1)

/-- Apply `reduceElem` element by element; an XR192 element whose anchor differs from its place's is left (R334, R335).
Answers the new elements and, for the first one left, its index and the two anchors, with the mask of all that were. -/
def reduceElems (sub fmt : Nat) : Nat → List Nat → List Nat → List Nat × Nat × Option (Nat × Nat × Nat)
  | i, o :: os, x :: xs =>
    let r := reduceElems sub fmt (i + 1) os xs
    match reduceElem sub fmt o x with
    | some v => (v :: r.1, r.2)
    | none => (o :: r.1, r.2.1 + 2 ^ i, some (i, bitsOf 207 192 x, bitsOf 207 192 o))
  | _, os, _ => (os, 0, none)

/-- Cut bytes into numbers of `w` bytes each. -/
def elemsOf (w : Nat) (bs : List Byte) : List Nat := (List.range (bs.length / w)).map (fun i => leNat ((bs.drop (i * w)).take w))

/-- R335: the payload of a `PARTIAL` answer. -/
def partialPayload (mask packetAnchor placeAnchor : Nat) : List Byte :=
  leBytes mask 1 ++ leBytes 0 1 ++ leBytes packetAnchor 2 ++ leBytes placeAnchor 2 ++ leBytes 0 10

/-- The bytes that a change in place writes over the old ones, and what it answers. -/
def applyRmw (op : Rmw) (old data : List Byte) : List Byte × List Byte :=
  match op with
  | .atom sub width signed operand compare =>
    (leBytes (atomNew sub width signed (leNat old) operand compare) old.length, leBytes (leNat old) 8)
  | .reduce sub fmt =>
    let w := packetElemBytes fmt
    let r := reduceElems sub fmt 0 (elemsOf w old) (elemsOf w data)
    ((r.1.map (fun v => leBytes v w)).flatten,
      match r.2.2 with
      | none => []
      | some (_, a, b) => partialPayload r.2.1 a b)

/-- Issue one request: a write takes effect now, a change in place reads and writes now (R331, R332, R337). -/
def issueReq (r : MemReq) (s : State) : State :=
  let put := fun (r : MemReq) (s : State) => { s with mp := { s.mp with out := s.mp.out ++ [r] } }
  if !r.write then put r s else
    match r.rmw with
    | none => memWrite r.addr r.key r.data (put r s)
    | some op =>
      match memRead s r.key r.addr r.len with
      | none => put { r with bad := true } s
      | some old => memWrite r.addr r.key (applyRmw op old r.data).1 (put { r with result := (applyRmw op old r.data).2 } s)

/-- Issue waiting requests in order until one must wait. -/
def drainList : List MemReq → State → State
  | [], s => { s with mp := { s.mp with queue := [] } }
  | r :: rs, s =>
    match (if conflicts s.mp r then none else freeTag s.mp r.port 1024 0) with
    | none => { s with mp := { s.mp with queue := r :: rs } }
    | some t => drainList rs (issueReq { r with tag := t } s)

def drainPorts (s : State) : State := drainList s.mp.queue s

/-- The window entry of a block. -/
def windowAt (set : CfgSet) (block id : Nat) : Option Window := set.windows.find? (fun w => w.block == block && w.id == id)

def enginePort (s : State) (p : Nat) : EnginePort := Sparse.get {} s.ports p

/-- The slice whose work waits for a request. -/
def ownerSlice (s : State) : Owner → Option Nat
  | .insn _ sl _ => some sl
  | .desc sl _ _ => some sl
  | .remote p => if p.winv then (windowAt s.cfg.active s.boot.blkId p.win).map Window.owner else none
  | .host id _ => (s.cfg.active.slices.find? (fun c => decide (c.identity = id))).map SliceCfg.id
  | .engine p call _ => ((enginePort s p).calls.find? (fun c => c.id == call)).map Call.slice
  | _ => none

/-- The switches and log swaps that a slice has made (R301, R308). -/
def sliceEra (s : State) (slice : Nat) : Nat := ((findSlice s slice).map Slice.era).getD 0
def ownerEra (s : State) (o : Owner) : Nat := ((ownerSlice s o).map (sliceEra s)).getD 0

/-- Put requests at the memory ports. -/
def mpRequest (rs : List MemReq) (s : State) : State :=
  drainPorts { s with mp := { s.mp with queue := s.mp.queue ++ rs.map (fun r => { r with slice := ownerSlice s r.owner, era := ownerEra s r.owner }) } }

/-- Cut a range at multiples of `b`. -/
def chunks (b : Nat) : Nat → Nat → Nat → List (Nat × Nat)
  | 0, _, _ => []
  | fuel + 1, a, len =>
    if len = 0 then [] else
      let n := min len (b - a % b)
      (a, n) :: chunks b fuel (a + n) (len - n)

/-- The port requests of a local write. -/
def writeReqs (addr key : Nat) (data : List Byte) (owner : Owner) : List MemReq :=
  (chunks 512 data.length addr data.length).map (fun c =>
    { port := portOf c.1, tag := 0, addr := c.1, len := c.2, key := key, write := true,
      data := (data.drop (c.1 - addr)).take c.2, owner := owner, onRead := .discard })

/-- The port request of a change in place. -/
def rmwReq (addr key len : Nat) (op : Rmw) (data : List Byte) (owner : Owner) : MemReq :=
  { port := portOf addr, tag := 0, addr := addr, len := len, key := key, write := true, data := data, owner := owner,
    onRead := .discard, rmw := some op }

/-- Move the place where read bytes land by an offset. -/
def OnRead.shift (n : Nat) : OnRead → OnRead
  | .landSram u sl a => .landSram u sl (a + n)
  | .walkRow u sl i a => .walkRow u sl i (a + n)
  | .answer a => .answer (a + n)
  | .writeOn t k sl va => .writeOn (t + n) k sl (va + n)
  | o => o

/-- The port requests of a local read. -/
def readReqs (addr key len : Nat) (owner : Owner) (act : OnRead) : List MemReq :=
  (chunks 512 len addr len).map (fun c =>
    { port := portOf c.1, tag := 0, addr := c.1, len := c.2, key := key, write := false, data := [],
      owner := owner, onRead := act.shift (c.1 - addr) })

/-! ### Packets (R314, R322, R341, R346, R448) -/

def transmitAll (ps : List Packet) (s : State) : State := ps.foldl (fun s p => transmit p s) s

/-- A node enters the slice's peer set when a TC0 or TC1 request is exchanged with it; its entry is mirrored first
(R448). -/
def addPeer (slice node : Nat) (s : State) : State :=
  let fresh := match findSlice s slice with | some x => !x.peers.contains node | none => false
  let paired := decide (s.twin.state = .pairing) || decide (s.twin.state = .tight) || decide (s.twin.state = .loose)
  let img : MirrorImage := { slice := slice, step := ((findSlice s slice).map Slice.step).getD 0, isStep := false, peers := [node] }
  let s := if fresh && paired then emit (.tether (.image img true)) s else s
  mapSlice slice (fun x => if x.peers.contains node then x else { x with peers := x.peers ++ [node] }) s

/-- The queue of the slice that an instruction works for. -/
def insnQueue (s : State) (u : UnitId) (slice i : Nat) : Option Nat :=
  ((findUnit s u slice).bind (fun x => x.insns.find? (fun e => e.id == i))).map EngInsn.queue

/-- Two requests are of one order: of one queue's work on one unit (R339), or of one host requester (R500). -/
def sameOrder (s : State) : Owner → Owner → Bool
  | .insn u sl i, .insn v tl j => decide (u = v) && sl == tl && insnQueue s u sl i == insnQueue s v tl j
  | .host a _, .host b _ => decide (a = b)
  | _, _ => false

/-- The bytes that a request touches at its address: an `ATOM` its 4 or 8 (R332), every other its `LEN`. -/
def accessLen (p : Packet) : Nat := if p.type = 3 then (if p.fmt % 2 = 1 then 8 else 4) else p.len

/-- R339, R500: a packet is held against an earlier unanswered write of its order to the same bytes. -/
def heldAgainst (s : State) (p : Packet) (o : Owner) (t : Txn) : Bool :=
  t.packet.type == 2 && decide (1 ≤ p.type) && decide (p.type ≤ 4) && t.packet.winv == p.winv && t.packet.win == p.win &&
  sameOrder s t.owner o &&
  decide (t.packet.addr < p.addr + accessLen p) && decide (p.addr < t.packet.addr + t.packet.len)

/-- Post a request packet under a slice's tag: it takes the next `TXID` and waits for its response (R322). -/
def postRequest (slice : Nat) (p : Packet) (owner : Owner) (act : OnRead) (s : State) : State :=
  let id := s.fab.nextTxid
  let p' := { p with txid := id, snode := sliceNode s slice, stag := sliceTag s slice }
  let go := canSend s p.dnode && !s.fab.txns.any (heldAgainst s p' owner)
  let t : Txn := { txid := id, packet := p', owner := owner, onRead := act, sent := go, retries := 0, dataErrors := 0,
                   due := none, slice := slice, work := ownerSlice s owner, era := ownerEra s owner }
  let s1 := { s with fab := { s.fab with nextTxid := (id + 1) % 2 ^ 16, txns := s.fab.txns ++ [t] } }
  if go then transmit p' s1 else s1

/-- Send a request packet of a slice's work; a TC0 or TC1 request makes its node a peer of the slice (R448). -/
def sendRequest (slice : Nat) (p : Packet) (owner : Owner) (act : OnRead) (s : State) : State :=
  postRequest slice p owner act (if p.tc ≤ 1 then addPeer slice p.dnode s else s)

/-- Send every request in a list. -/
def sendRequests (slice : Nat) (owner : Owner) (ps : List (Packet × OnRead)) (s : State) : State :=
  ps.foldl (fun s p => sendRequest slice p.1 owner p.2 s) s

/-- Mark the requests that can go now, each held against those before it (R339, R346). -/
def markSent (s : State) : List Txn → List Txn → List Txn × List Txn
  | _, [] => ([], [])
  | before, t :: ts =>
    let go := !t.sent && t.due.isNone && canSend s t.packet.dnode && !before.any (heldAgainst s t.packet t.owner)
    let r := markSent s (before ++ [t]) ts
    (if go then ({ t with sent := true } :: r.1, t :: r.2) else (t :: r.1, r.2))

/-- Send requests that waited for a way out or for an earlier answer (R339, R346). -/
def releaseWaiting (s : State) : State :=
  let r := markSent s [] s.fab.txns
  transmitAll (r.2.map Txn.packet) { s with fab := { s.fab with txns := r.1 } }

/-- The response to a request packet (R322). -/
def respond (p : Packet) (status cause : Nat) (payload : List Byte) (s : State) : State :=
  transmit { p with
    rsp := true, dnode := p.snode, snode := p.dnode, status := status, cause := cause
    len := payload.length, payload := payload, badSyms := 0 } s

/-- Whether any request of an owner is outstanding, at a memory port or in the fabric. -/
def outstanding (s : State) (o : Owner) : Bool :=
  s.mp.out.any (fun r => decide (r.owner = o)) || s.mp.queue.any (fun r => decide (r.owner = o)) ||
  s.fab.txns.any (fun t => decide (t.owner = o))

/-! ### Cluster SRAM (R130, R132, R133) -/

/-- The place of SRAM address `x` in a partition of `b` banks from bank `f` of cluster `c` (R132). -/
def sramKey (c f b x : Nat) : Nat := c * 2 ^ 21 + (f + (x / 64) % b) * 65536 + ((x / 64) / b) * 64 + x % 64

def sramByte (s : State) (slice : Nat) (u : UnitId) (x : Nat) : Byte :=
  match u, partition s slice u with
  | .cluster c, some (f, b) => Sparse.get 0 s.sram (sramKey (c + slice / 1024 * 64) f b x)
  | _, _ => 0

def sramRead (s : State) (slice : Nat) (u : UnitId) (x n : Nat) : List Byte :=
  (List.range n).map (fun i => sramByte s slice u (x + i))

def putSram (c f b : Nat) : Nat → List Byte → List (Nat × Byte) → List (Nat × Byte)
  | _, [], m => m
  | x, v :: vs, m => putSram c f b (x + 1) vs (Sparse.set 0 m (sramKey c f b x) v)

/-- The 4 KiB regions a range touches. -/
def regionsOf (x n : Nat) : List Nat :=
  if n = 0 then [] else (List.range ((x + n - 1) / 4096 - x / 4096 + 1)).map (fun i => x / 4096 + i)

/-- The 16-byte words that a range touches (R137), and those that it covers wholly, by their number. -/
def wordsTouched (x n : Nat) : List Nat := if n = 0 then [] else (List.range ((x + n - 1) / 16 - x / 16 + 1)).map (fun i => x / 16 + i)
def wordsCovered (x n : Nat) : List Nat := (wordsTouched x n).filter (fun w => decide (x ≤ 16 * w) && decide (16 * w + 16 ≤ x + n))

/-- Write SRAM: any write sets the live bit of its 4 KiB region (04 "Protection and live lines"); a word that is written whole is
encoded anew (R137, log 71). -/
def sramWrite (slice : Nat) (u : UnitId) (x : Nat) (data : List Byte) (s : State) : State :=
  match u, partition s slice u with
  | .cluster c, some (f, b) =>
    mapUnit u slice (fun y => { y with live := (regionsOf x data.length).foldl (fun l r => Sparse.set false l r true) y.live })
      { s with
        sram := putSram (c + slice / 1024 * 64) f b x data s.sram
        sramErrs := (wordsCovered x data.length).foldl (fun m w => Sparse.del m (sramKey (c + slice / 1024 * 64) f b (16 * w) / 16)) s.sramErrs }
  | _, _ => s

/-- R137: the bad symbols, 1 or 2, of each word with any that ranges of a context's SRAM touch. -/
def badWords (s : State) (slice : Nat) (u : UnitId) (rs : List (Nat × Nat)) : List Nat :=
  match u, partition s slice u with
  | .cluster c, some (f, b) =>
    if s.sramErrs.isEmpty then [] else
      ((rs.map (fun r => wordsTouched r.1 r.2)).flatten.dedup).filterMap (fun w =>
        Sparse.get? s.sramErrs (sramKey (c + slice / 1024 * 64) f b (16 * w) / 16))
  | _, _ => []

/-- R137: corrected words are counted against the slice. -/
def countFixes (slice : Nat) (bad : List Nat) (s : State) : State :=
  if bad.isEmpty then s else mapSlice slice (fun y => { y with corrections := y.corrections + bad.length }) s

/-- The range lies inside the context's partition (R133). -/
def sramFits (s : State) (slice : Nat) (u : UnitId) (x n : Nat) : Bool := decide (x + n ≤ sramSize s slice u)

end Sys2Proof.Machine
end

