-- ==== Sys2Proof/Machine/Operands.lean ====
section
/-! DEFINITION. Operand forms of the sequencer programs (spec/06): the fields of the 128-bit instruction word and the
decode checks of R211, tile descriptors (R207), tile walks (R208, R585), element packing (R167), tile-size checks (R586). -/

namespace Sys2Proof.Machine

/-! ### Instruction word -/

/-- Bits [hi:lo] of an instruction word. -/
def fld (hi lo : Nat) (w : InsnWord) : Nat := bitsOf hi lo w.toNat

def opOf (w : InsnWord) : Nat := fld 127 120 w
def engOf (w : InsnWord) : Nat := fld 119 116 w
def subOf (w : InsnWord) : Nat := fld 115 112 w
def statOf (w : InsnWord) : Nat := fld 111 104 w
def flgOf (w : InsnWord) (i : Nat) : Bool := w.getLsbD (96 + i)

/-- A mask of bits [hi:lo]. -/
def ones (hi lo : Nat) : Nat := (2 ^ (hi + 1 - lo) - 1) * 2 ^ lo

/-- The sequencer's own instructions (R124). -/
def opScalar (op : Nat) : Bool := op == 1 || op == 2 || op == 3 || op == 4 || (16 ≤ op && op ≤ 19)
/-- The opcodes of R214. -/
def opListed (op : Nat) : Bool :=
  opScalar op || (0x20 ≤ op && op ≤ 0x23) || (0x30 ≤ op && op ≤ 0x32) || (0x40 ≤ op && op ≤ 0x43) ||
  (0x50 ≤ op && op ≤ 0x53) || op == 0x60 || op == 0x61 || (0x70 ≤ op && op ≤ 0x74) || (0x80 ≤ op && op ≤ 0x83) ||
  op == 0x90

/-- `ENG` suits `OP` (R214, R231). -/
def engAllowed (proxy : Bool) (op eng : Nat) : Bool :=
  if opScalar op then eng == 0
  else if 0x20 ≤ op && op ≤ 0x23 then eng == 8
  else if 0x30 ≤ op && op ≤ 0x32 then eng == 5
  else if 0x40 ≤ op && op ≤ 0x43 then eng == 6
  else if 0x50 ≤ op && op ≤ 0x53 then 1 ≤ eng && eng ≤ 4
  else if op == 0x60 || op == 0x61 then eng == 7
  else if 0x70 ≤ op && op ≤ 0x74 then eng == 8
  else if op == 0x83 then eng == 8
  else if op == 0x90 then eng == 1
  else if proxy then eng ≤ 1 else eng ≤ 8

/-- The largest `SUB` of each opcode (R214 to R226). -/
def subMax (op : Nat) : Nat :=
  if op = 1 then 5 else if op = 0x11 then 2 else if op = 0x12 then 2 else if op = 0x13 then 6
  else if op = 0x30 then 1 else if op = 0x32 then 1 else if op = 0x72 then 4 else if op = 0x73 then 5
  else if op = 0x82 then 1 else 0

/-- Instructions that write a status word (R213). -/
def opHasStatus (op : Nat) : Bool :=
  op == 0x32 || (0x40 ≤ op && op ≤ 0x43) || (0x50 ≤ op && op ≤ 0x53) || op == 0x60 || op == 0x61

/-- The bits of [103:0] that the encoding assigns (R211): operand fields and `FLG`. -/
def assignedBits (w : InsnWord) : Nat :=
  match opOf w with
  | 0x01 => ones 95 86 + ones 31 0
  | 0x02 => ones 95 86 + ones 31 0
  | 0x10 => ones 95 81 + ones 31 0 + ones 96 96
  | 0x11 => ones 95 81 + ones 5 0 + ones 96 96
  | 0x12 => ones 95 86 + ones 31 0 + ones 96 96
  | 0x13 => ones 95 81 + ones 63 0 + (if subOf w = 5 then ones 98 96 else 0)
  | 0x20 => ones 95 88 + ones 79 72
  | 0x21 => ones 95 88 + ones 79 72 + ones 96 96
  | 0x22 => ones 95 88 + ones 79 72
  | 0x23 => ones 95 88 + ones 79 72 + ones 31 0
  | 0x30 => ones 95 84 + ones 79 72
  | 0x31 => ones 95 84 + ones 79 72 + ones 97 96
  | 0x32 => ones 95 80 + ones 79 68 + ones 96 96
  | 0x40 => ones 95 80 + ones 96 96
  | 0x41 => ones 95 84
  | 0x42 => ones 95 80 + ones 96 96
  | 0x43 => ones 95 84
  | 0x50 => ones 95 84 + ones 79 76 + ones 74 64 + ones 99 96
  | 0x51 => ones 95 84 + ones 79 76 + ones 74 64 + ones 99 96
  | 0x52 => ones 95 84 + ones 79 76 + ones 74 64 + ones 99 96
  | 0x53 => ones 95 84 + ones 79 76 + ones 74 64 + ones 99 96
  | 0x60 => ones 95 67
  | 0x61 => ones 95 84 + ones 79 72 + ones 63 48 + ones 96 96
  | 0x70 => ones 95 88 + ones 79 72 + ones 96 96 + ones 63 54
  | 0x71 => ones 95 88 + ones 79 72 + ones 96 96 + ones 63 54
  | 0x72 => ones 95 88 + ones 79 52 + ones 98 96
  | 0x73 => ones 95 88 + ones 79 72 + ones 96 96 + ones 63 54
  | 0x74 => ones 75 63 + ones 60 32
  | 0x80 => ones 55 32
  | 0x81 => ones 95 91 + ones 55 0 + ones 97 96
  | 0x82 => ones 63 48 + ones 31 0
  | 0x83 => ones 75 64 + ones 57 24 + ones 12 0
  | 0x90 => ones 95 0
  | _ => 0

/-- The a and t registers named by `LDP` and `MOV` lie in 0 to 15 (R211, R221). -/
def regFieldsOk (w : InsnWord) : Bool :=
  let d := fld 95 91 w
  let a := fld 90 86 w
  match opOf w, subOf w with
  | 0x12, 0 => true
  | 0x12, _ => d ≤ 15
  | 0x13, 2 => d ≤ 15
  | 0x13, 3 => a ≤ 15
  | 0x13, 4 => d ≤ 15 && a ≤ 15
  | 0x13, 5 => d ≤ 15
  | 0x13, 6 => d ≤ 15 && a ≤ 15
  | _, _ => true

/-- The operations that `VSUB` lists (R224). -/
def vsubListed (v : Nat) : Bool := v ≤ 7 || (0x10 ≤ v && v ≤ 0x13) || (0x20 ≤ v && v ≤ 0x23)

/-- The values that R221 to R224, R228 and R589 require of fields. -/
def valuesOk (w : InsnWord) : Bool :=
  match opOf w with
  | 0x13 => subOf w != 5 || fld 98 96 w != 7
  | 0x50 => fld 79 76 w == 15 && fld 74 64 w == 0 && fld 99 97 w == 0
  | 0x51 => fld 79 76 w != 0 && fld 74 64 w == 0 && fld 99 97 w == 0
  | 0x52 => fld 79 76 w == 15
  | 0x53 => fld 79 76 w != 0
  | 0x60 => vsubListed (fld 79 72 w)
  | 0x61 =>
    let r := fld 79 72 w
    let k := fld 63 48 w
    if r < 4 then k == 0 else r == 4 && 1 ≤ k && k ≤ 256
  | 0x74 => fld 47 32 w != 0
  | 0x80 => fld 47 32 w != 0
  | _ => true

/-- The instruction's class is allowed for the program's `PROXY` setting (R231). -/
def classAllowed (proxy : Bool) (op : Nat) : Bool :=
  if proxy then opScalar op || op == 0x80 || op == 0x81 || op == 0x82 || op == 0x90 else op != 0x90

/-- R211: the word decodes. -/
def decodes (proxy : Bool) (w : InsnWord) : Bool :=
  let op := opOf w
  opListed op && engAllowed proxy op (engOf w) && subOf w ≤ subMax op &&
  (statOf w == 0 || opHasStatus op) &&
  (w.toNat % 2 ^ 104) &&& (2 ^ 104 - 1 - assignedBits w) == 0 &&
  regFieldsOk w && valuesOk w && classAllowed proxy op

/-- A signed 32-bit immediate. -/
def imm32 (w : InsnWord) : Int := decodeInt 32 (fld 31 0 w)

/-! ### Tile descriptors (R207) -/

def tBase (t : TileReg) : Nat := bitsOf 63 0 t.toNat
def tLen0 (t : TileReg) : Nat := bitsOf 95 64 t.toNat
def tLen1 (t : TileReg) : Nat := bitsOf 127 96 t.toNat
def tLen2 (t : TileReg) : Nat := bitsOf 159 128 t.toNat
def tPitch1 (t : TileReg) : Nat := bitsOf 191 160 t.toNat
def tPitch2 (t : TileReg) : Nat := bitsOf 223 192 t.toNat
def tFmt (t : TileReg) : Nat := bitsOf 231 224 t.toNat
def tMem (t : TileReg) : Bool := t.getLsbD 232
def tIdx64 (t : TileReg) : Bool := t.getLsbD 233
def tScale (t : TileReg) : Nat := bitsOf 255 240 t.toNat

/-- `MOV` `SUB` 5: one field of a tile register takes a value (R221). -/
def setTileField (f : Nat) (v : Word64) (t : TileReg) : TileReg :=
  let put := fun (hi lo x : Nat) =>
    BitVec.ofNat 256 (t.toNat % 2 ^ lo + (x % 2 ^ (hi + 1 - lo)) * 2 ^ lo + (t.toNat >>> (hi + 1)) * 2 ^ (hi + 1))
  match f with
  | 0 => put 63 0 v.toNat
  | 1 => put 95 64 v.toNat
  | 2 => put 127 96 v.toNat
  | 3 => put 159 128 v.toNat
  | 4 => put 191 160 v.toNat
  | 5 => put 223 192 v.toNat
  | _ => put 255 224 v.toNat

/-- The items of a walk of `n2` by `n1` items over a tile, as byte offsets from its base, dimension 1 innermost (R208). -/
def itemOffsets (n1 n2 : Nat) (t : TileReg) : List Nat :=
  ((List.range n2).map (fun i2 => (List.range n1).map (fun i1 => i1 * tPitch1 t + i2 * tPitch2 t))).flatten

/-- The first byte of a memory tile: `BASE` plus its address register, within 56 bits (R208, "Registers"). -/
def memBase (t : TileReg) (a : Word64) : Nat := (tBase t + a.toNat % 2 ^ 56) % 2 ^ 56
/-- The first byte of an SRAM tile: bits [20:0] of `BASE` (R207). -/
def sramBase (t : TileReg) : Nat := tBase t % 2 ^ 21

/-- A tile with a zero extent (R209). -/
def tEmpty (t : TileReg) : Bool := tLen0 t == 0 || tLen1 t == 0 || tLen2 t == 0

/-- Element `i` of packed bytes (R167). -/
def elemAt (bits i : Nat) (n : Nat) : Nat := (n >>> (bits * i)) % 2 ^ bits

/-- All `count` elements of packed bytes. -/
def unpack (bits count : Nat) (bs : List Byte) : List Nat :=
  let n := leNat bs
  (List.range count).map (fun i => elemAt bits i n)

/-- Elements packed into whole bytes (R167). -/
def packNat (bits : Nat) : List Nat → Nat
  | [] => 0
  | x :: xs => x % 2 ^ bits + packNat bits xs * 2 ^ bits
def pack (bits : Nat) (xs : List Nat) : List Byte := leBytes (packNat bits xs) (xs.length * bits / 8)

/-- `LEN0` is a whole number of elements of the format (R586). -/
def wholeElems (fmt len0 : Nat) : Bool :=
  match fmt with
  | 0 => true
  | 6 => true
  | 1 => len0 % 3 == 0
  | f => match fmtBits f with
    | some b => len0 % (b / 8) == 0
    | none => false

/-- Elements in `len0` bytes of a format (R586). -/
def elemCount (fmt len0 : Nat) : Nat :=
  match fmtBits fmt with
  | some b => len0 * 8 / b
  | none => 0

/-- The SRAM address of a status word (R213). -/
def statusAddr (statusBase slot : Nat) : Nat := statusBase + 8 * slot

end Sys2Proof.Machine
end

