-- ==== Sys2Proof/Machine/Xlat.lean ====
section
/-! DEFINITION. Translation (spec/08): segments and bindings (R277), rights (R278), page-table entries (R279 to R281),
cached translations (R282), walks (R283), open faults (R293 to R296), detail words (R292), the dirty log (R307). -/

namespace Sys2Proof.Machine

/-- The access kinds of R292. -/
inductive Access where
  | read
  | write
  | atomic
  | reduce
  | fetch
  deriving DecidableEq, Repr

def Access.code : Access → Nat
  | .read => 0
  | .write => 1
  | .atomic => 2
  | .reduce => 3
  | .fetch => 4

/-- The right an access needs, out of `RD`, `WR`, `AT`, `RED` (R278). -/
def Access.right (k : Access) (rd wr at' red : Bool) : Bool :=
  match k with
  | .read => rd
  | .fetch => rd
  | .write => wr
  | .atomic => at'
  | .reduce => red

/-- An access that can set a dirty bit (R307). -/
def Access.writes : Access → Bool
  | .read => false
  | .fetch => false
  | _ => true

/-! ### Segments -/

/-- The page size in bytes (R275). -/
def segPage (g : Segment) : Nat := if g.psize = 0 then 2 ^ 21 else if g.psize = 1 then 2 ^ 30 else 2 ^ 36
/-- The limit of a segment: pages times page size, 0 pages standing for 2^24. -/
def segLimit (g : Segment) : Nat := (if g.npages = 0 then 2 ^ 24 else g.npages) * segPage g
/-- R277: an address lies in a segment. -/
def segHolds (g : Segment) (va : Nat) : Bool := g.v && decide (g.vbase ≤ va) && decide (va < g.vbase + segLimit g)
/-- A range lies wholly in a segment. -/
def segHoldsRange (g : Segment) (va len : Nat) : Bool :=
  segHolds g va && decide (va + len ≤ g.vbase + segLimit g)

def segmentAt (bank : List Segment) (i : Nat) : Segment := bank.getD i {}

/-- The segment that an address is bound to. -/
def bindSegment (bank : List Segment) (va : Nat) : Option Nat :=
  (List.range 16).find? (fun i => segHolds (segmentAt bank i) va)

def segRight (g : Segment) (k : Access) : Bool := k.right g.rd g.wr g.at' g.red

/-! ### Page-table entries -/

def pteValid (e : Word64) : Bool := e.getLsbD 0
def pteFrame (e : Word64) : Nat := e.toNat / 2 ^ 21
/-- R280: a malformed entry. -/
def pteMalformed (psize : Nat) (e : Word64) : Bool :=
  bitsOf 20 5 e.toNat != 0 || (psize == 1 && bitsOf 29 21 e.toNat != 0) || (psize == 2 && bitsOf 35 21 e.toNat != 0)

/-- What a translated page gives: the physical address of its first byte and the rights of segment and entry (R282). -/
structure PageUse where
  frame : Nat
  rd : Bool
  wr : Bool
  at' : Bool
  red : Bool
  deriving DecidableEq, Repr

/-- What the read of an entry comes to: a page or a cause of R289. -/
def pageOfEntry (g : Segment) : Option Word64 → Except Nat PageUse
  | none => .error 0x105
  | some e =>
    if !pteValid e then .error 0x102
    else if pteMalformed g.psize e then .error 0x104
    else .ok { frame := pteFrame e, rd := g.rd && e.getLsbD 1, wr := g.wr && e.getLsbD 2, at' := g.at' && e.getLsbD 3,
               red := g.red && e.getLsbD 4 }

/-- The read of entry `page` of a segment's table, under key slot 0 (R281, R588). -/
def readEntry (s : State) (g : Segment) (page : Nat) : Option Word64 :=
  let pa := g.table + 8 * page
  if paNode (homePa s pa) = ownNode s then (memRead s (homeKey s pa 0) (paLocal pa) 8).map (fun bs => BitVec.ofNat 64 (leNat bs))
  else Config.remoteEntry s.free pa

/-! ### Translation -/

/-- Why an access does not go ahead: no cached translation, a cause with its address, segment and `NOSEG`, or bytes that
memory cannot give back (R508), with their physical address. -/
inductive Stop where
  | miss (seg page va : Nat)
  | fault (cause va seg : Nat) (noseg : Bool)
  | unreadable (pa : Nat)
  deriving DecidableEq, Repr

/-- A translated part of a range, within one page. -/
structure Piece where
  va : Nat
  pa : Nat
  len : Nat
  key : Nat
  deriving DecidableEq, Repr

def samePlace (place : XPlace) (x : Xlat) : Bool := decide (x.place = place) || decide (x.place = .l2)

/-- A cached translation that hits: the same slice and the same generation (R282). -/
def cachedPage (s : State) (place : XPlace) (sl : Slice) (seg page : Nat) : Option PageUse :=
  (s.xlat.cache.find? (fun x => samePlace place x && x.slice == sl.id && x.segment == seg && x.page == page &&
    x.gen == sl.gen)).map (fun x => { frame := x.frame, rd := x.rd, wr := x.wr, at' := x.at', red := x.red })

/-- The physical place of a byte range within one page, with the checks of R278 and R289. -/
def usePage (s : State) (g : Segment) (seg : Nat) (k : Access) (va len : Nat) (u : PageUse) : Except Stop Piece :=
  let pa' := u.frame * 2 ^ 21 + (va - g.vbase) % segPage g
  let pa := homePa s pa'
  if !(k.right u.rd u.wr u.at' u.red) then .error (.fault 0x103 va seg false)
  else if paNode pa = ownNode s && decide (nodeBytes s < paLocal pa + len) then .error (.fault 0x106 va seg false)
  else .ok { va := va, pa := pa, len := len, key := homeKey s pa' g.key }

/-- One part of a range, which lies within one page of segment `seg`. `now` reads the entry at once where no cached
translation hits; otherwise the access misses (log 17). -/
def xlatPart (s : State) (place : XPlace) (sl : Slice) (now : Bool) (seg : Nat) (k : Access) (va len : Nat) :
    Except Stop Piece :=
  let g := segmentAt sl.inForce seg
  if !segHoldsRange g va len then .error (.fault 0x101 va seg (bindSegment sl.inForce va).isNone)
  else if !segRight g k then .error (.fault 0x103 va seg false)
  else
    let page := (va - g.vbase) / segPage g
    match cachedPage s place sl seg page with
    | some u => usePage s g seg k va len u
    | none =>
      if now then
        match pageOfEntry g (readEntry s g page) with
        | .ok u => usePage s g seg k va len u
        | .error c => .error (.fault c va seg false)
      else .error (.miss seg page va)

/-- The parts of a range, cut at the pages of segment `seg`. -/
def pageParts (g : Segment) (va len : Nat) : List (Nat × Nat) :=
  (chunks (segPage g) (len / segPage g + 2) (va - g.vbase) len).map (fun c => (c.1 + g.vbase, c.2))

def collect {ε α β : Type} (f : α → Except ε β) : List α → Except ε (List β)
  | [] => .ok []
  | x :: xs =>
    match f x with
    | .error e => .error e
    | .ok b =>
      match collect f xs with
      | .error e => .error e
      | .ok bs => .ok (b :: bs)

/-- Translate a range bound to segment `seg`: every byte must lie in it (R277). -/
def xlatRange (s : State) (place : XPlace) (sl : Slice) (now : Bool) (seg : Nat) (k : Access) (va len : Nat) :
    Except Stop (List Piece) :=
  let g := segmentAt sl.inForce seg
  if len = 0 then .ok []
  else if !segHolds g va then .error (.fault 0x101 va seg (bindSegment sl.inForce va).isNone)
  else
    let inside := min len (g.vbase + segLimit g - va)
    match collect (fun c => xlatPart s place sl now seg k c.1 c.2) (pageParts g va inside) with
    | .error e => .error e
    | .ok ps =>
      if inside < len then .error (.fault 0x101 (va + inside) seg (bindSegment sl.inForce (va + inside)).isNone) else .ok ps

/-- Translate a range bound to the segment that holds its first byte. -/
def xlatBound (s : State) (place : XPlace) (sl : Slice) (now : Bool) (k : Access) (va len : Nat) :
    Except Stop (List Piece) :=
  match bindSegment sl.inForce va with
  | none => if len = 0 then .ok [] else .error (.fault 0x101 va 0 true)
  | some seg => xlatRange s place sl now seg k va len

/-- The first byte of a range of this node's memory that cannot be read. -/
def badByte (s : State) (key a : Nat) : Nat → Nat
  | 0 => a
  | n + 1 => if (readByte s key a).isNone then a else badByte s key (a + 1) n

/-- The bytes of one piece, read at once; another block's bytes are free (log 15). -/
def pieceBytes (s : State) (p : Piece) : Except Stop (List Byte) :=
  if paNode p.pa = ownNode s then
    match memRead s p.key (paLocal p.pa) p.len with
    | some bs => .ok bs
    | none => .error (.unreadable (paNode p.pa * 2 ^ 52 + badByte s p.key (paLocal p.pa) p.len))
  else
    match Config.remoteBytes s.free p.pa p.len with
    | some bs => .ok bs
    | none => .error (.unreadable p.pa)

/-- Bytes read at once through a slice's translation and one buffer (log 17). -/
def readAt (s : State) (place : XPlace) (sl : Slice) (k : Access) (va len : Nat) : Except Stop (List Byte) :=
  match xlatBound s place sl true k va len with
  | .error e => .error e
  | .ok ps =>
    match collect (pieceBytes s) ps with
    | .error e => .error e
    | .ok bs => .ok bs.flatten

/-- Bytes read at once by a unit that has no buffer of its own. -/
def readNow (s : State) (sl : Slice) (k : Access) (va len : Nat) : Except Stop (List Byte) := readAt s .l2 sl k va len

/-! ### Detail words, walks and open faults -/

/-- The detail word of a translation-class record (R292). -/
def detailWord (gen : Nat) (k : Nat) (noseg : Bool) (seg row : Nat) : Nat :=
  gen % 2 ^ 32 * 2 ^ 32 + k * 2 ^ 29 + (if noseg then 2 ^ 28 else seg * 2 ^ 24) + row % 2 ^ 24

/-- `ROW` of an access that is no gather, scatter or walk. -/
def noRow : Nat := 2 ^ 24 - 1

/-- The walks outstanding in the L2 half of a page, which bit 0 of its number selects (R283). -/
def halfWalks (s : State) (page : Nat) : Nat := (s.xlat.walks.filter (fun w => w.page % 2 == page % 2)).length

/-- Start a walk of a page for accesses of kind `k`, or join the one in progress (R283). With 64 walks outstanding in the page's half
the access finds no walk to start, and comes again (08 "The translation path"). -/
def startWalk (sl : Slice) (place : XPlace) (k seg page : Nat) (ds : List Demand) (s : State) : State :=
  let here := fun (w : Walk) => w.slice == sl.id && w.segment == seg && w.page == page && w.gen == sl.gen
  if s.xlat.walks.any here then
    { s with xlat := { s.xlat with walks := replaceFirst here (fun w => { w with demand := w.demand ++ ds.filter (fun d => !w.demand.contains d) }) s.xlat.walks } }
  else if 64 ≤ halfWalks s page then s
  else
    { s with xlat := { s.xlat with walks := s.xlat.walks ++
      [{ slice := sl.id, segment := seg, page := page, gen := sl.gen, place := place, kind := k, demand := ds }] } }

/-- Fill the caches with a page (R282, R284): the L2 and the buffer that asked. -/
def fillPage (slice seg page psize gen : Nat) (places : List XPlace) (u : PageUse) (s : State) : State :=
  let mk := fun (p : XPlace) => ({
    place := p, slice := slice, segment := seg, page := page, frame := u.frame, rd := u.rd, wr := u.wr, at' := u.at'
    red := u.red, psize := psize, gen := gen } : Xlat)
  let old := s.xlat.cache.filter (fun x => !(x.slice == slice && x.segment == seg && x.page == page &&
    (decide (x.place = .l2) || places.contains x.place)))
  { s with xlat := { s.xlat with cache := old ++ (mk .l2 :: places.map mk) } }

/-- Accesses that translate at once leave the pages that they used in the L2 and in their unit's buffer (R203, R282, R283). -/
def cachePages (place : XPlace) (sl : Slice) (va len : Nat) (s : State) : State :=
  match bindSegment sl.inForce va with
  | none => s
  | some seg =>
    let g := segmentAt sl.inForce seg
    (pageParts g va (min len (g.vbase + segLimit g - va))).foldl (fun s c =>
      let page := (c.1 - g.vbase) / segPage g
      if (s.xlat.cache.any (fun x => decide (x.place = place) && x.slice == sl.id && x.segment == seg && x.page == page && x.gen == sl.gen)) then s
      else match cachedPage s place sl seg page with
        | some u => fillPage sl.id seg page g.psize sl.gen [place] u s
        | none => match pageOfEntry g (readEntry s g page) with
          | .ok u => fillPage sl.id seg page g.psize sl.gen [place] u s
          | .error _ => s) s

/-- R286: translate the pages of coming parts of a stream ahead: one that the L2 holds fills the buffer, any other is walked; a part
in no segment, or without its right, is dropped (R288). -/
def prefetch (sl : Slice) (place : XPlace) (k : Access) (seg : Nat) (parts : List (Nat × Nat)) (s : State) : State :=
  let g := segmentAt sl.inForce seg
  (((parts.filter (fun p => segHoldsRange g p.1 p.2 && segRight g k)).map (fun p => pageParts g p.1 p.2)).flatten).foldl (fun s p =>
    let page := (p.1 - g.vbase) / segPage g
    match cachedPage s place sl seg page with
    | some u => if k.right u.rd u.wr u.at' u.red then cachePages place sl p.1 1 s else s
    | none => startWalk sl place k.code seg page [] s) s

/-- An engine is stalled in an open fault, or waits for an entry (R293, R294). -/
def stalled (s : State) (slice : Nat) (e : UnitId × Nat × Nat) : Bool :=
  s.xlat.opens.any (fun o => o.slice == slice && o.engines.contains e) ||
  s.xlat.waiting.any (fun w => w.slice == slice && decide (w.engine = e)) ||
  s.xlat.walks.any (fun w => w.slice == slice && w.demand.any (fun d => decide ((d.unit, d.eng, d.id) = e)))

/-- R291, R293, R294: an engine meets an entry with `V` 0. It joins the page's open entry, opens one, or waits for one. -/
def stallEngines (slice seg page : Nat) (es : List (UnitId × Nat × Nat)) (r : FaultRecord) (s : State) : State :=
  let here := fun (o : OpenFault) => o.slice == slice && o.segment == seg && o.page == page
  if s.xlat.opens.any here then
    { s with xlat := { s.xlat with opens := replaceFirst here (fun o => { o with engines := o.engines ++ es.filter (fun e => !o.engines.contains e) }) s.xlat.opens } }
  else if s.xlat.opens.length < 128 && !s.xlat.waiting.any (fun w => w.slice == slice && w.segment == seg && w.page == page) then openEntry slice seg page es r s
  else
    let ws := es.map (fun e => ({ slice := slice, segment := seg, page := page, engine := e, record := r } : OpenWait))
    { s with xlat := { s.xlat with waiting := s.xlat.waiting ++ ws } }

/-! ### The dirty log (R306, R307) -/

/-- The block of the part with a node ID; this block where none has it. -/
def blockOfNode (s : State) (node : Nat) : Nat := ((partBlocks s).find? (fun b => nodeOf s b == node)).getD s.boot.blkId

/-- OR one bit of a bitmap in this block's memory. -/
def setBitHere (pa bit : Nat) (s : State) : State :=
  let set := fun (b : Byte) (s : State) => memWrite (paLocal pa + bit / 8) (homeKey s pa 0) [b ||| BitVec.ofNat 8 (2 ^ (bit % 8))] s
  match readByte s (homeKey s pa 0) (paLocal pa + bit / 8) with
  | some b => set b s
  | none => set (BitVec.ofNat 8 (Config.freeNat s.free)) { s with free := s.free + 1 }

/-- A `MGMT` packet to another block, whose response the owner's work waits for (R322, R341). -/
def mgmtRequest (slice node : Nat) (owner : Owner) (m : MgmtMsg) (s : State) : State :=
  emit (.d2d (blockOfNode s node) (.mgmt m)) (postRequest slice { blankPacket with type := 0x0A, tc := 4, dnode := node } owner .discard s)

/-- OR one bit of a bitmap in memory: here, or by a message to the block that holds it, whose answer the logged write waits for (R307,
log 18). -/
def orBit (slice : Nat) (owner : Owner) (pa bit : Nat) (s : State) : State :=
  if paNode (homePa s pa) = ownNode s then setBitHere pa bit s else mgmtRequest slice (paNode pa) owner (.dirtyBit pa bit) s

/-- R307: the first write to each page of a logged segment sets the page's bit before the write is acknowledged. -/
def logPages (owner : Owner) (sl : Slice) (seg : Nat) (va len : Nat) (s : State) : State :=
  match sl.dirty.find? (fun d => d.segment == seg) with
  | none => s
  | some d =>
    let g := segmentAt sl.inForce seg
    (pageParts g va len).foldl (fun s c => orBit sl.id owner d.active ((c.1 - g.vbase) / segPage g) s) s

/-- The tether's own dirty log: pages written since the last image (R448). -/
def tetherPages (slice seg : Nat) (g : Segment) (va len : Nat) (s : State) : State :=
  if decide (s.twin.state = .pairing) || decide (s.twin.state = .tight) || decide (s.twin.state = .loose) then
    mapSlice slice (fun x => { x with dirtyPages := (pageParts g va len).foldl (fun l c =>
      let e := (seg, (c.1 - g.vbase) / segPage g)
      if l.contains e then l else l ++ [e]) x.dirtyPages }) s
  else s

/-- Log a write-class access to a segment, in the guest's log and in the tether's; its owner's work waits for the bits. -/
def logSegment (owner : Owner) (sl : Slice) (k : Access) (seg va len : Nat) (s : State) : State :=
  if !k.writes || len == 0 then s
  else tetherPages sl.id seg (segmentAt sl.inForce seg) va len (logPages owner sl seg va len s)

/-- Log a write-class access at a bound address. -/
def logWrite (owner : Owner) (sl : Slice) (k : Access) (va len : Nat) (s : State) : State :=
  match bindSegment sl.inForce va with
  | none => s
  | some seg => logSegment owner sl k seg va len s

end Sys2Proof.Machine
end

