-- ==== Sys2Proof/Machine/Traffic.lean ====
section
/-! DEFINITION. How translated data moves: requests to the memory ports of this node (R503, R505) and packets to other
nodes (R329, R330, R332, R333), and what a translation that does not go ahead does to the work that asked for it. -/

namespace Sys2Proof.Machine

/-- A `READ` or `WRITE` of at most 256 bytes within a 256-byte block (R330). -/
def dataPacket (tc type node : Nat) (pa key len : Nat) (data : List Byte) : Packet :=
  { blankPacket with
    tc := tc, type := type, dnode := node, addr := pa, key := key, len := len, payload := data }

/-- The virtual address and the row of the packets sent since there were `n`, for the record of a refusal (R292). -/
def nameVa (n : Nat) (ps : List Piece) (row : Nat) (s : State) : State :=
  let va := fun (a : Nat) => ((ps.find? (fun p => decide (p.pa ≤ a) && decide (a < p.pa + p.len))).map (fun p => p.va + (a - p.pa))).getD a
  { s with fab := { s.fab with txns := s.fab.txns.take n ++ (s.fab.txns.drop n).map (fun t => { t with va := va t.packet.addr, row := row }) } }

/-- How many requests stand at the fabric. -/
def sentCount (s : State) : Nat := s.fab.txns.length

/-- Read a translated piece; the action says where its bytes go. -/
def readPiece (slice tc : Nat) (owner : Owner) (act : OnRead) (p : Piece) (s : State) : State :=
  if paNode p.pa = ownNode s then mpRequest (readReqs (paLocal p.pa) p.key p.len owner act) s
  else (chunks 256 p.len p.pa p.len).foldl (fun s c =>
    sendRequest slice (dataPacket tc 1 (paNode p.pa) c.1 p.key c.2 []) owner (act.shift (c.1 - p.pa)) s) s

/-- Write bytes at a physical address. -/
def writePiece (slice tc : Nat) (owner : Owner) (pa key : Nat) (data : List Byte) (s : State) : State :=
  if paNode pa = ownNode s then mpRequest (writeReqs (paLocal pa) key data owner) s
  else (chunks 256 data.length pa data.length).foldl (fun s c =>
    sendRequest slice (dataPacket tc 2 (paNode pa) c.1 key c.2 ((data.drop (c.1 - pa)).take c.2)) owner .discard s) s

/-- Write the bytes of consecutive pieces. -/
def writePieces (slice tc : Nat) (owner : Owner) : List Piece → List Byte → State → State
  | [], _, s => s
  | p :: ps, data, s => writePieces slice tc owner ps (data.drop p.len) (writePiece slice tc owner p.pa p.key (data.take p.len) s)

/-- An atomic at a physical address (R332): the memory port of this node, or an `ATOM` packet. -/
def atomPiece (slice tc : Nat) (owner : Owner) (act : OnRead) (pa key width sub fmt : Nat) (operand compare : Nat) (s : State) : State :=
  if paNode pa = ownNode s then
    mpRequest [{ rmwReq (paLocal pa) key width (.atom sub (8 * width) (fmt < 2) operand compare) [] owner with onRead := act }] s
  else
    sendRequest slice { blankPacket with
      tc := tc, type := 3, dnode := paNode pa, addr := pa, key := key, len := 16, sub := sub, fmt := fmt
      payload := leBytes operand 8 ++ leBytes compare 8 } owner act s

/-- A reduction payload at a physical address (R333, R337): the arrival reducer serves this node's memory as well. -/
def reducePiece (slice tc : Nat) (owner : Owner) (act : OnRead) (pa key sub fmt : Nat) (data : List Byte) (s : State) : State :=
  if paNode pa = ownNode s then
    mpRequest [{ rmwReq (paLocal pa) key data.length (.reduce sub fmt) data owner with onRead := act }] s
  else
    sendRequest slice { blankPacket with
      tc := tc, type := 4, comb := true, dnode := paNode pa, addr := pa, key := key, len := data.length, sub := sub, fmt := fmt
      payload := data } owner act s

/-- The traffic class of a slice's work: TC0 for a real-time queue, TC1 otherwise (spec/03, spec/09). -/
def classOf (s : State) (slice q : Nat) : Nat := if ((findQueue s slice q).map Queue.rt).getD false then 0 else 1

/-- The start of the record of a translation fault in work of a queue (R292). -/
def xlatRecord (s : State) (slice gen q d pc engine : Nat) (k : Access) (va seg : Nat) (noseg : Bool) (row : Nat) : FaultRecord :=
  { slice := slice, queue := q, context := contextSlot s slice, engine := engine, addr := va, pc := pc, desc := d % 2 ^ 44,
    tag := descTag s slice q d, detail := detailWord gen k.code noseg seg row }

/-- Work of queue `q`, descriptor `d` meets a stop: `PAGE_INVALID` stalls engine `e` in an open fault where `stalls`
holds (R291), a miss starts a walk, and every other cause stops the queue (R290). -/
def meetStop (sl : Slice) (e : UnitId × Nat × Nat) (q d pc : Nat) (k : Access) (row : Nat) (stalls : Bool) (place : XPlace)
    (x : Stop) (s : State) : State :=
  match x with
  | .miss seg page va =>
    let r := xlatRecord s sl.id sl.gen q d pc (engineId s e.1 e.2.1) k va seg false row
    startWalk sl place k.code seg page [{ unit := e.1, eng := e.2.1, id := e.2.2, access := k.code, va := va, row := row, record := r }] s
  | .fault c va seg noseg =>
    let r := xlatRecord s sl.id sl.gen q d pc (engineId s e.1 e.2.1) k va seg noseg row
    if c = 0x102 ∧ stalls then
      let g := segmentAt sl.inForce seg
      stallEngines sl.id seg ((va - g.vbase) / segPage g) [e] r s
    else stopQueue sl.id q stExecFault { r with cause := c } s
  | .unreadable pa =>
    stopQueue sl.id q stExecFault
      { cause := 0x502, engine := engineId s e.1 e.2.1, addr := pa, pc := pc, desc := d % 2 ^ 44, tag := descTag s sl.id q d } s

end Sys2Proof.Machine
end

