-- ==== Sys2Proof/Machine/Aqi.lean ====
section
/-! DEFINITION. The AQI front end (spec/02, spec/03, spec/06): doorbells, descriptor fetch and checks, descriptors of each
type, completion, stored graphs, and the start and completion of runs. -/

namespace Sys2Proof.Machine

abbrev Result := Host.Outcome State Fault Refusal

/-! ### Doorbells (R40 to R49, R116 to R119) -/

/-- A queue's ring size in descriptors. -/
def ringSize (x : Queue) : Nat := 2 ^ x.ringLog2

/-- The doorbell write is ignored (R47, R49). -/
def doorbellStale (x : Queue) (value : Nat) : Bool := !queueOpen x || decide (value ≤ x.posted) || x.quiescing

/-- The slice's real-time runs in flight on this block (R122). -/
def rtInFlight (s : State) (slice : Nat) : Nat :=
  ((s.units.filter (fun y => y.slice == slice)).map (fun y => (heldRuns y).filter (fun r => r.rt))).flatten.length

/-- A queue as an accepted doorbell write leaves it (R44, R116); the write is remembered with the tick of its acceptance (R120). -/
def rungQueue (t : Nat) (r : Ring) (x : Queue) : Queue :=
  { x with
    posted := r.posted, stale := false, state := .active, rung := x.rung || x.armed, rings := x.rings ++ [r]
    waitingSince := if x.completed = x.posted then t else x.waitingSince }

/-- The number of the first descriptor that has not completed (R83 step 3). -/
def headIndex (x : Queue) : Nat := x.completed + donePrefix x.descs

/-- The owner's front end takes a posted count that the lead's host port accepted at `tick` (R35, R44, R47 to R49, R116); a member
reports how the queue stands (R34). The record of an overrun names the first descriptor that has not completed: R48 names none
(log 76). -/
def takeDoorbell (slice q value tick : Nat) (s : State) : State :=
  match findQueue s slice q with
  | none => s
  | some x =>
    if doorbellStale x value then reportQueue slice q (mapQueue slice q (fun y => { y with stale := true }) s)
    else
      let s1 := mapQueue slice q (rungQueue (now s) { posted := value, tick := tick, load := rtInFlight s slice }) s
      if x.completed + ringSize x < value then
        stopQueue slice q 0x0D { cause := 0x302, desc := headIndex x % 2 ^ 44, tag := descTag s slice q (headIndex x), detail := 0x0D } s1
      else reportQueue slice q s1

/-- The configuration that serves a slice: the set's entry, with the handle table that a snapshot has brought (R384). -/
def sliceCfg (s : State) (slice : Nat) : Option SliceCfg :=
  let c := if slice < 1024 then s.cfg.active.slices.find? (fun c => c.id == slice)
    else ((s.twin.set.map CfgSet.slices).getD []).find? (fun c => c.id + 1024 == slice)
  match (findSlice s slice).bind Slice.table with
  | some e => c.map (fun c => { c with table := e.1, tableLog2 := e.2 })
  | none => c

/-- DOORBELL_WRITE: a write of `size` bytes at an offset of the doorbell region (R40 to R42, R34, R546). -/
def execDoorbellWrite (id : Requester) (offset size : Nat) (value : Word64) (s : State) : Result :=
  let slice := offset / 4096
  let q := offset % 4096 / 64
  let reg := offset % 64
  if !s.boot.ready || !s.boot.isLead then .next s else
    match sliceCfg s slice with
    | none => .next s
    | some c =>
      if c.identity ≠ id then .next (mapSlice slice (fun x => { x with rejectedWrites := x.rejectedWrites + 1 }) s)
      else if 8 ≤ reg then .next s
      else
        match findQueue s slice q with
        | none => .next s
        | some x =>
          let v := if reg = 0 ∧ size = 8 then value else 0
          if x.owner = s.boot.blkId then .next (takeDoorbell slice q v.toNat (now s) s)
          else .next (sendD2d x.owner (.doorbell slice q v (now s)) s)

/-- DOORBELL_FORWARD: the lead's forwarded write, with the tick of its acceptance, reaches the queue's owner (R34, R35). -/
def execDoorbellForward (slice queue : Nat) (value : ForwardedWrite) (s : State) : Result :=
  match findQueue s slice queue with
  | none => .next s
  | some x => if x.owner = s.boot.blkId then .next (takeDoorbell slice queue value.value.toNat value.tick s) else .next s

/-! ### Handles (R50 to R54) -/

/-- A number in bytes [a, a + n) of a descriptor. -/
def byteField (bs : List Byte) (a n : Nat) : Nat := leNat ((bs.drop a).take n)

/-- A relocated handle. -/
structure Reloc where
  base : Nat
  length : Nat
  gen : Nat
  index : Nat
  va : Nat
  len : Nat

/-- The statuses found so far, and the value that the check gives when none applies. -/
abbrev Checked (α : Type) := List Nat × Option α

/-- Relocate a handle (R50 to R54, R69). `len` is the range's length, the entry's own where none is named. -/
def relocate (s : State) (sl : Slice) (c : SliceCfg) (h kind : Nat) (needRd needWr : Bool) (k : Access) (off : Nat)
    (len : Option Nat) (beyond : Nat) : Except Stop (Checked Reloc) :=
  let index := h % 2 ^ 24
  if h / 2 ^ 30 ≠ kind ∨ 2 ^ c.tableLog2 ≤ index then .ok ([0x03], none) else
    match readNow s sl .fetch (c.table + 16 * index) 16 with
    | .error e => .error e
    | .ok bs =>
      let lo := byteField bs 0 8
      let hi := byteField bs 8 8
      if !hi.testBit 48 || bitsOf 41 40 hi != kind || bitsOf 47 42 hi != bitsOf 29 24 h then .ok ([0x03], none) else
        let length := hi % 2 ^ 40
        let base := lo % 2 ^ 56
        let n := len.getD length
        let va := base + off
        let seg := (bindSegment sl.inForce va).map (segmentAt sl.inForce)
        let bad1 := if (needRd && !hi.testBit 49) || (needWr && !hi.testBit 50) then [0x04] else []
        let bad2 := if length < off + n then [beyond] else []
        let bad3 := if n = 0 then [] else
          match seg with
          | none => [0x06]
          | some g => if !segHoldsRange g va n then [0x06] else if !segRight g k then [0x04] else []
        let bad := bad1 ++ bad2 ++ bad3
        .ok (bad, if bad.isEmpty then some { base := base, length := length, gen := bitsOf 47 42 hi, index := index, va := va, len := n } else none)

/-! ### Program images (R61, R197 to R200) -/

/-- The sum of the 32-bit words of an image, modulo 2^32 (R198). -/
def wordSum (bs : List Byte) : Nat := ((elemsOf 4 bs).foldl (· + ·) 0) % 2 ^ 32

/-- The highest bit set in a 32-bit word. -/
def highestBit (w : Nat) : Option Nat := ((List.range 32).reverse).find? (fun i => w.testBit i)

/-- The header's fields, when it passes the checks of R61 and R200 that need no other byte of the image. -/
def programHeader (h : List Byte) (length paramLen target : Nat) : Option Program :=
  let flags := byteField h 6 2
  let nwords := byteField h 8 4
  let regInit := byteField h 12 4
  let engines := byteField h 16 2
  let first := byteField h 18 2
  let count := byteField h 20 2
  let pmin := byteField h 28 4
  let base := byteField h 32 4
  let proxy := flags.testBit 0
  let minWords := match highestBit regInit with | some b => 2 * b + 2 | none => 0
  if byteField h 0 4 = 0x50535645 ∧ byteField h 4 2 = 3 ∧ flags < 2 ∧ 1 ≤ nwords ∧ nwords ≤ 262144 ∧ regInit < 2 ^ 30 ∧
      byteField h 22 6 = 0 ∧ byteField h 36 24 = 0 ∧ !engines.testBit 0 ∧ engines < 1024 ∧
      first + count ≤ (if proxy then 64 else 256) ∧ minWords ≤ pmin ∧ pmin ≤ 8192 ∧ 4 * pmin ≤ paramLen ∧
      proxy = decide (target = 1) ∧ (if proxy then engines = 512 else engines < 512) ∧ base % 8 = 0 ∧
      64 + 16 * nwords + 8 * count ≤ length
  then some { nwords := nwords, tallyFirst := first, tallyCount := count, incs := [], statusBase := base, regInit := regInit,
              paramMin := pmin, proxy := proxy }
  else none

/-- A pool has a place for a target: a cluster, or an engine port (R61). -/
def poolServes (target : Nat) (p : Pool) : Bool :=
  if target = 1 then p.epmask != 0 || p.shares.any (fun h => h.port) else p.clmask != 0 || p.shares.any (fun h => !h.port)

/-- The pool of a slice on some block meets the target (R61). -/
def poolMeets (s : State) (slice target : Nat) : Bool := (slicePools s slice).any (poolServes target)

/-- Check a program image at `va` of at most `length` bytes (R61, R198, R200); `none` is `BAD_PROGRAM`. -/
def checkProgram (s : State) (sl : Slice) (va length paramLen target : Nat) : Except Stop (Option Program) :=
  if length < 64 then .ok none else
    match readNow s sl .fetch va 64 with
    | .error e => .error e
    | .ok h =>
      match programHeader h length paramLen target with
      | none => .ok none
      | some p =>
        match readNow s sl .fetch va (64 + 16 * p.nwords + 8 * p.tallyCount) with
        | .error e => .error e
        | .ok image =>
          let ends := elemsOf 8 (image.drop (64 + 16 * p.nwords))
          if wordSum image ≠ 0 ∨ ends.any (fun e => decide (2 ^ 48 ≤ e)) ∨ (target = 0 ∧ !poolMeets s sl.id 0) then .ok none
          else .ok (some { p with incs := ends })

/-! ### Descriptor checks (R55 to R72) -/

def allZero (bs : List Byte) (a n : Nat) : Bool := byteField bs a n == 0
def lenOnes : Nat := 2 ^ 40 - 1

/-- A 40-bit offset or length field: its value, and whether its reserved bits are 0. -/
def field40 (bs : List Byte) (a : Nat) : Nat × Bool := (byteField bs a 8 % 2 ^ 40, byteField bs (a + 4) 4 / 256 == 0)

def badIf (c : Bool) (code : Nat) : List Nat := if c then [code] else []

/-- Put two checks together: both must pass. -/
def both {α β γ : Type} (a : Checked α) (b : Checked β) (f : α → β → γ) : Checked γ :=
  (a.1 ++ b.1, match a.2, b.2 with | some x, some y => some (f x y) | _, _ => none)

/-- Add statuses found to a check. -/
def alsoBad {α : Type} (bad : List Nat) (a : Checked α) : Checked α := (bad ++ a.1, if bad.isEmpty then a.2 else none)

/-- `COPY` (R57, R62, R67 to R69). R67 does not say whether a `COPY` of length 0 with a non-zero reserved field is a no-op: it is
rejected (log 76). -/
def checkCopy (s : State) (sl : Slice) (c : SliceCfg) (d : List Byte) : Except Stop (Checked DescOp) :=
  let so := field40 d 16
  let dO := field40 d 24
  let n := field40 d 32
  let bad := badIf (!(so.2 && dO.2 && n.2 && allZero d 40 24)) 0x02 ++ badIf (n.1 == lenOnes) 0x05
  if n.1 = 0 then .ok (alsoBad bad ([], some (.copy 0 0 0))) else
    match relocate s sl c (byteField d 8 4) 1 true false .read so.1 (some n.1) 0x06,
          relocate s sl c (byteField d 12 4) 1 false true .write dO.1 (some n.1) 0x06 with
    | .error e, _ => .error e
    | _, .error e => .error e
    | .ok a, .ok b =>
      let meet := match a.2, b.2 with
        | some x, some y => decide (x.va < y.va + n.1) && decide (y.va < x.va + n.1)
        | _, _ => false
      .ok (alsoBad (bad ++ badIf meet 0x08) (both a b (fun x y => .copy x.va y.va n.1)))

/-- `FILL` (R57, R63, R67 to R69). R67 does not say whether a `FILL` of length 0 with a non-zero reserved field, a bad `PSIZE` or a
misaligned `DST_OFF` is a no-op: it is rejected (log 76). -/
def checkFill (s : State) (sl : Slice) (c : SliceCfg) (d : List Byte) : Except Stop (Checked DescOp) :=
  let dO := field40 d 16
  let n := field40 d 24
  let ps := byteField d 40 1
  let psOk := ps == 1 || ps == 2 || ps == 4 || ps == 8
  let bad := badIf (!(dO.2 && n.2 && allZero d 12 4 && allZero d 41 23 && psOk)) 0x02 ++ badIf (n.1 == lenOnes) 0x05 ++
    badIf (psOk && (dO.1 % ps != 0 || n.1 % ps != 0)) 0x07
  if n.1 = 0 then .ok (alsoBad bad ([], some (.fill 0 0 1 0))) else
    match relocate s sl c (byteField d 8 4) 1 false true .write dO.1 (some n.1) 0x06 with
    | .error e => .error e
    | .ok a => .ok (alsoBad bad (both a ([], some ()) (fun x _ => .fill x.va n.1 ps (BitVec.ofNat 64 (byteField d 32 8)))))

/-- `SIGNAL` and `WAIT` (R57, R64, R65, R278). -/
def checkWord (s : State) (sl : Slice) (c : SliceCfg) (sig : Bool) (d : List Byte) : Except Stop (Checked DescOp) :=
  let o := field40 d 16
  let v := byteField d 24 8
  let bad := badIf (!(o.2 && allZero d 12 4 && allZero d 32 32) || (sig && v == 0)) 0x02 ++ badIf (o.1 % 8 != 0) 0x07
  match relocate s sl c (byteField d 8 4) 1 (!sig) sig (if sig then .atomic else .read) o.1 (some 8) 0x06 with
  | .error e => .error e
  | .ok a => .ok (alsoBad bad (both a ([], some ()) (fun x _ =>
      if sig then .signal x.va (BitVec.ofNat 64 v) else .wait x.va (BitVec.ofNat 64 v))))

/-- `LAUNCH` (R57, R61, R67 to R69). R67 does not say whether the `PARAM` handle of a `LAUNCH` with `PARAM_LEN` 0 is relocated: a
handle other than 0 is relocated and can be rejected (log 76). -/
def checkLaunch (s : State) (sl : Slice) (c : SliceCfg) (d : List Byte) : Except Stop (Checked DescOp) :=
  let po := field40 d 16
  let pl := field40 d 24
  let inst := byteField d 32 2
  let target := byteField d 34 1
  let ph := byteField d 12 4
  let bad := badIf (!(po.2 && pl.2 && allZero d 35 29) || inst == 0 || decide (256 < inst) || decide (1 < target) ||
      (target == 1 && !poolMeets s sl.id 1)) 0x02 ++ badIf (decide (32768 < pl.1)) 0x05 ++ badIf (po.1 % 4 != 0 || pl.1 % 4 != 0) 0x07
  let param : Except Stop (Checked Nat) :=
    if ph = 0 then .ok (badIf (pl.1 != 0) 0x03, some 0) else
      match relocate s sl c ph 1 true false .read po.1 (some pl.1) 0x06 with
      | .error e => .error e
      | .ok a => .ok (both a ([], some ()) (fun x _ => x.va))
  let prog : Except Stop (Checked (Nat × Program)) :=
    match relocate s sl c (byteField d 8 4) 2 true false .fetch 0 none 0x06 with
    | .error e => .error e
    | .ok (b, none) => .ok (b, none)
    | .ok (b, some r) =>
      match checkProgram s sl r.base r.length pl.1 target with
      | .error e => .error e
      | .ok none => .ok (b ++ [0x09], none)
      | .ok (some p) => .ok (b, some (r.base, p))
  match param, prog with
  | .error e, _ => .error e
  | _, .error e => .error e
  | .ok a, .ok b => .ok (alsoBad bad (both a b (fun pa pr => .launch pr.1 pr.2 pa pl.1 inst target)))

/-- A patch entry (R58): slot and value, and whether its reserved bits are 0. -/
def patchOf (n : Nat) : (Nat × Word32) × Bool := ((bitsOf 44 32 n, BitVec.ofNat 32 n), n / 2 ^ 45 == 0)

def checkGraphDesc (s : State) (sl : Slice) (c : SliceCfg) (d : List Byte) : Except Stop (Checked DescOp) :=
  let count := byteField d 12 2
  let mode := byteField d 14 1
  let image : Except Stop (Checked Reloc) := relocate s sl c (byteField d 8 4) 3 true false .read 0 none 0x06
  let patches : Except Stop (Checked (List (Nat × Word32))) :=
    if mode = 0 then
      let es := (List.range count).map (fun i => patchOf (byteField d (16 + 8 * i) 8))
      .ok (badIf (decide (6 < count) || !allZero d (16 + 8 * count) (48 - 8 * count) || es.any (fun e => !e.2)) 0x02, some (es.map Prod.fst))
    else if mode = 1 then
      let po := field40 d 24
      let bad := badIf (count == 0 || decide (1024 < count) || !po.2 || !allZero d 20 4 || !allZero d 32 32) 0x02 ++ badIf (po.1 % 8 != 0) 0x07
      match relocate s sl c (byteField d 16 4) 1 true false .read po.1 (some (8 * count)) 0x0A with
      | .error e => .error e
      | .ok (b, none) => .ok (bad ++ b, none)
      | .ok (b, some r) =>
        match readNow s sl .read r.va (8 * count) with
        | .error e => .error e
        | .ok bs =>
          let es := (elemsOf 8 bs).map patchOf
          .ok (alsoBad (bad ++ badIf (es.any (fun e => !e.2)) 0x02) (b, some (es.map Prod.fst)))
    else .ok ([0x02], none)
  match image, patches with
  | .error e, _ => .error e
  | _, .error e => .error e
  | .ok a, .ok b => .ok (alsoBad (badIf (!allZero d 15 1) 0x02) (both a b (fun r ps => .launchGraph r.index r.base r.length r.gen ps)))

/-- Every check of a descriptor (R55 to R72): the statuses that apply, and what it asks for. -/
def checkDesc (s : State) (sl : Slice) (c : SliceCfg) (d : List Byte) : Except Stop (Checked DescOp) :=
  let ty := byteField d 0 1
  if 7 < ty then .ok ([0x01], none) else
    let bad := badIf (decide (1 < byteField d 1 1) || !allZero d 2 2) 0x02
    let body : Except Stop (Checked DescOp) := match ty with
      | 0 => .ok (badIf (!allZero d 8 56) 0x02, some DescOp.nop)
      | 1 => checkLaunch s sl c d
      | 2 => checkGraphDesc s sl c d
      | 3 => checkCopy s sl c d
      | 4 => checkFill s sl c d
      | 5 => checkWord s sl c true d
      | 6 => checkWord s sl c false d
      | _ => .ok (badIf (!allZero d 8 56) 0x02, some DescOp.fence)
    match body with
    | .error e => .error e
    | .ok a => .ok (alsoBad bad a)

/-- One of several statuses that apply: the manual gives no order among the checks. FREE VALUE (log 19). -/
def pickStatus (n : Nat) (bad : List Nat) : Nat := bad.getD (Config.freeNat n % bad.length) 0

/-- R83 and R422 for a rejected descriptor: nothing of it moves. -/
def rejectDesc (slice q k tag status : Nat) (s : State) : State :=
  stopQueue slice q status { cause := 0x301, desc := k % 2 ^ 44, tag := tag, detail := status } s

/-- The unit whose DMA engine moves a descriptor's bytes: the lowest cluster of the slice on this block (log 20). -/
def moverOf (s : State) (slice : Nat) : UnitId :=
  ((s.units.filter (fun x => x.slice == slice)).map UnitCtx.unit).headD (.cluster 0)

/-- The engine name of a descriptor's transfer, and of the front end at a queue's work. -/
def moverEngine (s : State) (slice q : Nat) : UnitId × Nat × Nat := (moverOf s slice, 8, 2 ^ 32 + q)
def frontEngine (s : State) (slice q : Nat) : UnitId × Nat × Nat := (moverOf s slice, frontEng, 2 ^ 32 + q)

/-- A front-end read that does not go ahead: `PAGE_INVALID` stalls the front end at that queue in an open fault (R291); any other
cause stops the queue (R290, log 17). -/
def frontFault (sl : Slice) (q k tag : Nat) (x : Stop) (s : State) : State :=
  match x with
  | .miss _ _ va => stopQueue sl.id q stExecFault { xlatRecord s sl.id sl.gen q k 0 0 .fetch va 0 false noRow with cause := 0x105, tag := tag } s
  | .fault c va seg noseg =>
    let r := { xlatRecord s sl.id sl.gen q k 0 0 .fetch va seg noseg noRow with cause := c, tag := tag }
    if c = 0x102 then
      let g := segmentAt sl.inForce seg
      stallEngines sl.id seg ((va - g.vbase) / segPage g) [frontEngine s sl.id q] r s
    else stopQueue sl.id q stExecFault r s
  | .unreadable pa => stopQueue sl.id q stExecFault { cause := 0x502, addr := pa, desc := k % 2 ^ 44, tag := tag } s

/-- The place after the last wanting context. -/
def nextWanting (s : State) : Nat := (s.contexts.filterMap Context.wanting).foldl max 0 + 1

/-- R110: a context that is not in hardware and is not being loaded becomes wanting at a runnable descriptor. -/
def wantContext (slice : Nat) (s : State) : State :=
  let n := nextWanting s
  mapContext slice (fun c => if c.resident || !c.loading.isEmpty || c.wanting.isSome then c else { c with wanting := some n }) s

/-- Advance the counter of free values, at the start of a step that reads another block's memory or chooses. -/
def stepFree (s : State) : State := { s with free := s.free + 1 }

def opBarrier : DescOp → Bool
  | .wait _ _ => true
  | .fence => true
  | _ => false
def opOrdered : DescOp → Bool
  | .signal _ _ => true
  | .nop => true
  | .fence => true
  | _ => false

/-- Guarantees 4 and 5 of R77. -/
def orderAllows (before : List Desc) (d : Desc) : Bool :=
  (!(d.ordered || opOrdered d.op) || before.all descDone) && before.all (fun e => !opBarrier e.op || descDone e)

/-- Note the tick from which guarantees 4 and 5 let each descriptor start (R120). -/
def markFree (t : Nat) : List Desc → List Desc → List Desc
  | _, [] => []
  | before, d :: ds =>
    (if d.freeAt.isNone && orderAllows before d then { d with freeAt := some t } else d) :: markFree t (before ++ [d]) ds

/-- The doorbell write that covers descriptor `k`. -/
def ringOf (x : Queue) (k : Nat) : Option Ring := x.rings.find? (fun r => decide (k < r.posted))

/-- A queue after its next descriptor is fetched and checked. -/
def fetchedQueue (t : Nat) (d : Desc) (x : Queue) : Queue :=
  let r := (ringOf x d.index).getD { posted := 0, tick := t, load := 0 }
  let d' := { d with rung := r.tick, load := r.load, freeAt := if orderAllows x.descs d then some r.tick else none }
  { x with
    fetched := x.fetched + 1, armed := false, rung := false, state := .active, descs := x.descs ++ [d']
    rings := x.rings.filter (fun r => decide (x.fetched + 1 < r.posted))
    waitingSince := if x.descs.isEmpty then t else x.waitingSince }

/-- DESCRIPTOR_FETCH: fetch, relocate and check the next descriptor, or declare the queue idle (R77, R117). -/
def execDescriptorFetch (slice queue : Nat) (s0 : State) : Result :=
  match findSlice s0 slice, findQueue s0 slice queue, sliceCfg s0 slice with
  | some sl, some x, some c =>
    if x.owner ≠ s0.boot.blkId || !queueOpen x || x.quiescing || s0.recovery.halted || stalled s0 slice (frontEngine s0 slice queue) then
      .next s0
    else if x.posted ≤ x.fetched then .next (mapQueue slice queue (fun y => { y with armed := true }) s0)
    else
      let va := x.ring + 64 * (x.fetched % ringSize x)
      let s := cachePages .l2 sl va 64 (stepFree s0)
      match readNow s sl .fetch va 64 with
      | .error e => .next (frontFault sl queue x.fetched 0 e s)
      | .ok d =>
        let tag := byteField d 4 4
        match checkDesc s sl c d with
        | .error e => .next (frontFault sl queue x.fetched tag e s)
        | .ok (bad, op) =>
          match bad, op with
          | [], some o =>
            let dd : Desc := { index := x.fetched, tag := BitVec.ofNat 32 tag, ordered := byteField d 1 1 == 1, op := o, phase := .fetched }
            .next (reportQueue slice queue (wantContext slice (mapQueue slice queue (fetchedQueue (now s) dd) s)))
          | _, _ => .next (rejectDesc slice queue x.fetched tag (pickStatus s.free bad) s)
  | _, _, _ => .next s0

/-! ### Starting descriptors (R77) -/

/-- The next descriptor to start and those before it, in ring order. -/
def nextToStart : List Desc → List Desc → Option (List Desc × Desc)
  | _, [] => none
  | before, d :: ds => if d.phase = .fetched then some (before, d) else nextToStart (before ++ [d]) ds

/-- The context is in hardware and dispatched: from the chair it enters, or, where its loads run on into a chair, as each ends
(R82, R99, R115). -/
def contextRuns (s : State) (slice : Nat) : Bool :=
  match findContext s slice with
  | some c => c.resident && decide (c.enteredChair ≤ chairOf s) && c.saving.isEmpty && s.twin.serving && !s.twin.fenced && !s.recovery.halted
  | none => false

/-- The descriptor of a queue that can start now. -/
def startable (s : State) (slice q : Nat) : Option (Slice × Queue × Desc) :=
  match findSlice s slice, findQueue s slice q with
  | some sl, some x =>
    if x.owner = s.boot.blkId && queueOpen x && contextRuns s slice && !sl.aborted && !s.twin.fenced then
      match nextToStart [] x.descs with
      | some (before, d) => if orderAllows before d then some (sl, x, d) else none
      | none => none
    else none
  | _, _ => none

/-- Change a descriptor; where one becomes done, those behind it may come free. -/
def mapDesc (slice q k : Nat) (f : Desc → Desc) (s : State) : State :=
  mapQueue slice q (fun x => { x with descs := markFree (now s) [] (x.descs.map (fun d => if d.index = k then f d else d)) }) s

/-- A descriptor that starts: its timer runs (R81). -/
def startDesc (slice q k : Nat) (phase : DescPhase) (s : State) : State :=
  mapDesc slice q k (fun d => { d with phase := phase, timed := true }) s

/-- The descriptor's timer runs while it stalls or waits at its start (R76, R81, R291). -/
def timeDesc (slice q k : Nat) (s : State) : State := mapDesc slice q k (fun d => { d with timed := true }) s

/-- NOP: completes when every earlier descriptor has completed (R59). -/
def execNop (slice queue : Nat) (s : State) : Result :=
  match startable s slice queue with
  | some (_, _, d) => if d.op = .nop then .next (startDesc slice queue d.index .done s) else .next s
  | none => .next s

/-- FENCE: completes when every earlier descriptor has completed (R66). -/
def execFence (slice queue : Nat) (s : State) : Result :=
  match startable s slice queue with
  | some (_, _, d) => if d.op = .fence then .next (startDesc slice queue d.index .done s) else .next s
  | none => .next s

/-- The blocks of the part that may run work of a queue, this block first: those whose pool has a place for the target, and of them,
for a real-time queue on clusters, those that its reservation names (R35, R107, log 77). -/
def runBlocks (s : State) (slice q target : Nat) : List Nat :=
  let all := ((slicePools s slice).filter (poolServes target)).map Pool.block
  let named := (s.cfg.active.rts.filter (fun r => r.slice == slice && r.queue == q)).map (fun r => r.clusters.map Prod.fst)
  let bs := if target = 0 ∧ all.any named.flatten.contains then all.filter named.flatten.contains else all
  if 1024 ≤ slice ∨ bs.isEmpty then [s.boot.blkId]
  else bs.filter (fun b => b == s.boot.blkId) ++ bs.filter (fun b => b != s.boot.blkId)

/-- The block that runs instance `i`: the blocks take the instances in turn (log 77). -/
def runBlock (s : State) (slice q target i : Nat) : Nat :=
  let bs := runBlocks s slice q target
  bs.getD (i % bs.length) s.boot.blkId

/-- Dispatch the runs of one program: instance numbers from 0; those of other blocks go there in a message (R60, R201, 01 "Federation"). -/
def addRuns (slice q target : Nat) (mk : Nat → Nat → Run) (instances : Nat) (s : State) : State :=
  let here := (List.range instances).filter (fun i => runBlock s slice q target i == s.boot.blkId)
  let away := (List.range instances).filter (fun i => runBlock s slice q target i != s.boot.blkId)
  let s1 := mapSlice slice (fun x => { x with
    runs := x.runs ++ (List.range here.length).map (fun n => mk (x.nextRun + n) (here.getD n 0))
    nextRun := x.nextRun + here.length }) s
  away.foldl (fun t i => sendD2d (runBlock s slice q target i) (.mgmt (.dispatch slice { mk 0 i with home := some s.boot.blkId })) t) s1

/-- LAUNCH: the descriptor starts and its runs wait for a sequencer or proxy (R60). -/
def execLaunch (slice queue : Nat) (s : State) : Result :=
  match startable s slice queue with
  | none => .next s
  | some (_, x, d) =>
    match d.op with
    | .launch prog p params plen inst target =>
      let t := now s
      let s1 := addRuns slice queue target (fun id i => { p with
        id := id, queue := queue, desc := d.index, node := none, prog := prog, param := [], paramVa := some (params, plen)
        instNo := i, instances := inst, rt := x.rt, ready := t, bases := [], tag := d.tag, since := d.freeAt.getD t, load := d.load }) inst s
      .next (mapDesc slice queue d.index (fun e => { e with runsLeft := inst }) (startDesc slice queue d.index .started s1))
    | _ => .next s

/-- Pair the pieces of a source with the places of a destination of the same length. -/
def zipPieces : Nat → List Piece → List Piece → List (Piece × Nat × Nat × Nat)
  | 0, _, _ => []
  | fuel + 1, a :: as, b :: bs =>
    let n := min a.len b.len
    let rest := fun (p : Piece) (ps : List Piece) =>
      if p.len ≤ n then ps else { p with va := p.va + n, pa := p.pa + n, len := p.len - n } :: ps
    ({ a with len := n }, b.pa, b.key, b.va) :: zipPieces fuel (rest a as) (rest b bs)
  | _, _, _ => []

/-- COPY: reads of the source whose answers are written on to the destination (R62, R67). -/
def execCopy (slice queue : Nat) (s0 : State) : Result :=
  match startable s0 slice queue with
  | none => .next s0
  | some (sl, _, d) =>
    match d.op with
    | .copy src dst n =>
      let e := moverEngine s0 slice queue
      if stalled s0 slice e then .next s0
      else
        let s := stepFree s0
        match xlatBound s .l2 sl true .read src n with
        | .error x => .next (meetStop sl e queue d.index 0 .read noRow true .l2 x (timeDesc slice queue d.index s))
        | .ok ps =>
          match xlatBound s .l2 sl true .write dst n with
          | .error x => .next (meetStop sl e queue d.index 0 .write noRow true .l2 x (timeDesc slice queue d.index s))
          | .ok qs =>
            let tc := classOf s slice queue
            let s1 := logWrite (.desc slice queue d.index) sl .write dst n
              (cachePages .l2 sl dst n (cachePages .l2 sl src n (startDesc slice queue d.index .started s)))
            .next (nameVa (sentCount s1) ps noRow ((zipPieces (ps.length + qs.length) ps qs).foldl (fun s z =>
              readPiece slice tc (.desc slice queue d.index) (.writeOn z.2.1 z.2.2.1 slice z.2.2.2) z.1 s) s1))
    | _ => .next s0

/-- The bytes that `FILL` writes (R63). -/
def fillBytes (n psize : Nat) (pattern : Word64) : List Byte :=
  (List.range n).map (fun i => BitVec.ofNat 8 (pattern.toNat >>> (8 * (i % psize))))

/-- FILL: writes the pattern over the range (R63, R67). -/
def execFill (slice queue : Nat) (s0 : State) : Result :=
  match startable s0 slice queue with
  | none => .next s0
  | some (sl, _, d) =>
    match d.op with
    | .fill dst n psize pattern =>
      let e := moverEngine s0 slice queue
      if stalled s0 slice e then .next s0
      else
        let s := stepFree s0
        match xlatBound s .l2 sl true .write dst n with
        | .error x => .next (meetStop sl e queue d.index 0 .write noRow true .l2 x (timeDesc slice queue d.index s))
        | .ok qs =>
          let s1 := logWrite (.desc slice queue d.index) sl .write dst n (cachePages .l2 sl dst n (startDesc slice queue d.index .started s))
          .next (nameVa (sentCount s1) qs noRow
            (writePieces slice (classOf s slice queue) (.desc slice queue d.index) qs (fillBytes n psize pattern) s1))
    | _ => .next s0

/-- SIGNAL: adds its value to the word atomically, modulo 2^64 (R64). -/
def execSignal (slice queue : Nat) (s0 : State) : Result :=
  match startable s0 slice queue with
  | none => .next s0
  | some (sl, _, d) =>
    match d.op with
    | .signal va v =>
      let e := moverEngine s0 slice queue
      if stalled s0 slice e then .next s0
      else
        let s := stepFree s0
        match xlatBound s .l2 sl true .atomic va 8 with
        | .error x => .next (meetStop sl e queue d.index 0 .atomic noRow true .l2 x (timeDesc slice queue d.index s))
        | .ok qs =>
          let tc := classOf s slice queue
          let s1 := logWrite (.desc slice queue d.index) sl .atomic va 8 (cachePages .l2 sl va 8 (startDesc slice queue d.index .started s))
          .next (nameVa (sentCount s1) qs noRow
            (qs.foldl (fun s p => atomPiece slice tc (.desc slice queue d.index) .discard p.pa p.key 8 0 3 v.toNat 0 s) s1))
    | _ => .next s0

/-- Read a `WAIT` word: the descriptor completes once it is at least the threshold (R65). -/
def readWaitWord (sl : Slice) (q : Nat) (d : Desc) (va : Nat) (v : Word64) (s : State) : State :=
  match readNow s sl .read va 8 with
  | .error x => meetStop sl (moverEngine s sl.id q) q d.index 0 .read noRow true .l2 x s
  | .ok bs =>
    mapDesc sl.id q d.index (fun e => { e with phase := if v.toNat ≤ leNat bs then .done else .started }) s

/-- WAIT: starts, and reads its word (R65). -/
def execWait (slice queue : Nat) (s : State) : Result :=
  match startable s slice queue with
  | none => .next s
  | some (sl, _, d) =>
    match d.op with
    | .wait va v =>
      if stalled s slice (moverEngine s slice queue) then .next s
      else .next (readWaitWord sl queue d va v (startDesc slice queue d.index .started (stepFree s)))
    | _ => .next s

/-- A `WAIT` that has started and stands. -/
def standingWait (d : Desc) : Bool := decide (d.phase = .started) && (match d.op with | .wait _ _ => true | _ => false)

/-- WAIT_REREAD: a standing `WAIT` reads its word again (R65). -/
def execWaitReread (slice queue : Nat) (s : State) : Result :=
  match findSlice s slice, findQueue s slice queue with
  | some sl, some x =>
    if !queueOpen x || !contextRuns s slice || stalled s slice (moverEngine s slice queue) then .next s else
      match x.descs.find? standingWait with
      | some d =>
        match d.op with
        | .wait va v => .next (readWaitWord sl queue d va v (stepFree s))
        | _ => .next s
      | none => .next s
  | _, _ => .next s

/-! ### Completion (R77, R81, R450) -/

/-- A quiesced queue whose fetched descriptors are all complete enters `QUIESCED` (R376). -/
def settleQuiesce (x : Queue) : Queue :=
  if x.quiescing && x.descs.isEmpty && queueOpen x then { x with state := .quiesced, quiescing := false, armed := false, rung := false } else x

/-- The graph launch of a descriptor, when it still runs. -/
def launchOf (sl : Slice) (q k : Nat) : Option (Graph × GLaunch) :=
  sl.graphs.findSome? (fun g => (g.launches.find? (fun l => l.queue == q && l.desc == k)).map (fun l => (g, l)))

/-- Every node of a launch is complete, and in `TIGHT` the twin has its image (R235, R449). -/
def launchDone (s : State) (g : Graph) (l : GLaunch) : Bool :=
  l.nodes.all (fun n => decide (n = some 0)) && (!(g.step && decide (s.twin.state = .tight)) || l.imageAcked)

/-- A started descriptor has nothing left to do: no run, no outstanding request, no graph node. -/
def descFinished (s : State) (sl : Slice) (q : Nat) (d : Desc) : Bool :=
  decide (d.phase = .started) && d.runsLeft == 0 && !outstanding s (.desc sl.id q d.index) &&
  (match d.op with
   | .wait _ _ => false
   | .launchGraph _ _ _ _ _ => (match launchOf sl q d.index with | some (g, l) => launchDone s g l | none => true)
   | _ => true)

/-- Drop the launch of a completed descriptor. -/
def dropLaunch (q k : Nat) (x : Slice) : Slice :=
  { x with graphs := x.graphs.map (fun g => { g with launches := g.launches.filter (fun l => !(l.queue == q && l.desc == k)) }) }

/-- A descriptor whose work has ended is complete, and `COMPLETED` counts the longest completed run from descriptor 0
(R77). -/
def completeDescriptor (slice queue index : Nat) (s : State) : State :=
  match findSlice s slice, findQueue s slice queue with
  | some sl, some x =>
    if !queueOpen x then s else
      match x.descs.find? (fun d => d.index == index) with
      | none => s
      | some d =>
        let s1 := if descFinished s sl queue d then
            mapSlice slice (dropLaunch queue index) (mapDesc slice queue index (fun e => { e with phase := .done }) s)
          else s
        reportQueue slice queue (mapQueue slice queue (fun y => settleQuiesce (advanceQueue (now s) (countLimit s x) y)) s1)
  | _, _ => s

/-- The `GATE` that a queue's run waits at: its unit, the instruction, whether it is at the head (R268). -/
def openGate (s : State) (slice q : Nat) : Option (UnitCtx × EngInsn) :=
  s.units.findSome? (fun x => if x.slice = slice then
    ((allInsns x).find? (fun e => e.queue == q && e.started && opOf e.word == 0x83)).map (fun e => (x, e)) else none)

/-- QUEUE_TIMEOUT: the timer has reached the timeout; the queue stops as guilty, or as a victim at an open gate (R83,
R268). The `PEER_ABSENT` record names the home node and the gate as the gate's instruction does. -/
def execQueueTimeout (slice queue : Nat) (s : State) : Result :=
  match findQueue s slice queue with
  | none => .next s
  | some x =>
    if !queueOpen x || x.descs.all descDone || decide (x.timer < x.timeout) then .next s else
      let head := headIndex x
      let tag := descTag s slice queue head
      match openGate s slice queue with
      | some (u, e) =>
        .next (stopQueue slice queue 0x0E
          { cause := 0x602, engine := engineId s u.unit e.eng, pc := e.pc, desc := head % 2 ^ 44, tag := tag,
            addr := Config.peerAbsentAddr (fld 75 64 e.word) (fld 57 48 e.word) } s)
      | none => .next (stopQueue slice queue 0x0C { cause := 0x601, desc := head % 2 ^ 44, tag := tag, detail := 0x0C } s)

end Sys2Proof.Machine
end

