-- ==== Sys2Proof/Machine/Runs.lean ====
section
/-! DEFINITION. Stored graphs and runs: `LAUNCH_GRAPH` (R71 to R76, R236), graph nodes (R235), the start (R201 to R206,
R106, R120 to R123) and the completion (R60, R246) of runs. -/

namespace Sys2Proof.Machine

/-! ### Graph images (R234, R236, R590) -/

/-- A graph image as the check finds it: nodes, edges, initial parameter words, step graph. -/
structure GraphImage where
  step : Bool
  nodes : List GNode
  edges : List (Nat × Nat)
  init : List Word32

/-- Remove every node that no remaining edge enters, `n` times over; what is left lies on a cycle. -/
def peel : Nat → List Nat → List (Nat × Nat) → List Nat
  | 0, left, _ => left
  | n + 1, left, edges =>
    let live := edges.filter (fun e => left.contains e.1 && left.contains e.2)
    peel n (left.filter (fun v => live.any (fun e => e.2 == v))) edges

/-- The end of a node's program image, by its own header. -/
def programEnd (off : Nat) (h : List Byte) : Nat := off + 64 + 16 * byteField h 8 4 + 8 * byteField h 20 2

/-- One node's check: its entry's fields and its program (R61, R200, R236). -/
def checkNode (s : State) (sl : Slice) (base extent words : Nat) (e : List Byte) : Except Stop (Option GNode) :=
  let off := byteField e 0 4
  let pw := byteField e 6 2
  let inst := byteField e 8 2
  let target := byteField e 10 1
  if off % 64 ≠ 0 ∨ inst = 0 ∨ 256 < inst ∨ 1 < target ∨ byteField e 11 5 ≠ 0 ∨ words < byteField e 4 2 + pw ∨ extent < off ∨
      (target = 1 ∧ !poolMeets s sl.id 1) then .ok none
  else
    match checkProgram s sl (base + off) (extent - off) (4 * pw) target with
    | .error x => .error x
    | .ok none => .ok none
    | .ok (some p) => .ok (some { prog := base + off, program := p, pfirst := byteField e 4 2, pwords := pw, instances := inst, target := target })

/-- The graph's extent: the end of its last piece (R590); `none` when a program header lies beyond the handle. -/
def graphExtent (s : State) (sl : Slice) (base length : Nat) (ends : List Nat) : List Nat → Except Stop (Option Nat)
  | [] => .ok (some (ends.foldl max 0))
  | off :: offs =>
    if length < off + 64 then .ok none else
      match readNow s sl .fetch (base + off) 64 with
      | .error x => .error x
      | .ok h => graphExtent s sl base length (programEnd off h :: ends) offs

/-- Check a graph image in full (R236); `none` is `BAD_PROGRAM`. -/
def checkGraph (s : State) (sl : Slice) (base length : Nat) : Except Stop (Option GraphImage) :=
  if length < 64 then .ok none else
    match readNow s sl .read base 64 with
    | .error x => .error x
    | .ok h =>
      let flags := byteField h 6 2
      let nn := byteField h 8 4
      let ne := byteField h 12 4
      let pw := byteField h 16 4
      let eo := byteField h 20 4
      let io := byteField h 24 4
      let fixed := [64 + 16 * nn, eo + 4 * ne, io + 4 * pw]
      if byteField h 0 4 ≠ 0x47535645 ∨ byteField h 4 2 ≠ 3 ∨ 1 < flags ∨ nn = 0 ∨ 4096 < nn ∨ 65536 < ne ∨ pw = 0 ∨ 8192 < pw ∨
          eo % 16 ≠ 0 ∨ io % 16 ≠ 0 ∨ byteField h 28 32 ≠ 0 ∨ fixed.any (fun e => decide (length < e)) then .ok none
      else
        match readNow s sl .read (base + 64) (16 * nn), readNow s sl .read (base + eo) (4 * ne), readNow s sl .read (base + io) (4 * pw) with
        | .error x, _, _ => .error x
        | _, .error x, _ => .error x
        | _, _, .error x => .error x
        | .ok nb, .ok eb, .ok ib =>
          let nodes := (List.range nn).map (fun i => (nb.drop (16 * i)).take 16)
          let edges := (elemsOf 4 eb).map (fun e => (e % 2 ^ 16, e / 2 ^ 16))
          let offs := nodes.map (fun e => byteField e 0 4)
          if edges.any (fun e => decide (nn ≤ e.1) || decide (nn ≤ e.2)) || !(peel nn (List.range nn) edges).isEmpty then .ok none
          else
            match graphExtent s sl base length fixed offs with
            | .error x => .error x
            | .ok none => .ok none
            | .ok (some extent) =>
              if length < extent then .ok none else
                match readNow s sl .read base extent, collect (checkNode s sl base extent pw) nodes with
                | .error x, _ => .error x
                | _, .error x => .error x
                | .ok image, .ok ns =>
                  if wordSum image ≠ 0 ∨ ns.any Option.isNone then .ok none
                  else .ok (some { step := flags.testBit 0, nodes := ns.filterMap id, edges := edges,
                                   init := (elemsOf 4 ib).map (BitVec.ofNat 32) })

/-! ### Launching a graph (R71 to R76) -/

/-- Apply patches in entry order (R71). -/
def applyPatches (words : List Word32) (ps : List (Nat × Word32)) : List Word32 := ps.foldl (fun w p => w.set p.1 p.2) words

/-- A graph's fresh parameter state (R75). -/
def freshGraph (handle base len gen queue : Nat) (im : GraphImage) : Graph :=
  { handle := handle, base := base, len := len, gen := gen, step := im.step, nodes := im.nodes, edges := im.edges, even := im.init,
    odd := im.init, next := 0, lastStart := 0, queues := [queue], launches := [] }

/-- The check of another queue's first launch (R236); a graph that a snapshot brought takes its nodes and edges here. -/
def addGraphQueue (queue : Nat) (im : GraphImage) (g : Graph) : Graph :=
  { g with
    queues := g.queues ++ [queue]
    nodes := if g.nodes.isEmpty then im.nodes else g.nodes
    edges := if g.nodes.isEmpty then im.edges else g.edges }

/-- Start launch `g.next`: its buffer takes the values of the launch before it with the patches applied (R71, R73). -/
def launchGraph (q k stepNo t : Nat) (ordered : Bool) (ps : List (Nat × Word32)) (g : Graph) : Graph :=
  let l : GLaunch := { number := g.next, queue := q, desc := k, ordered := ordered || g.step, nodes := g.nodes.map (fun _ => none),
                       stepNo := stepNo, imageAcked := false, imageSent := false }
  let g1 := { g with next := g.next + 1, lastStart := t, launches := g.launches ++ [l] }
  if g.next % 2 = 0 then { g1 with even := applyPatches (if g.next = 0 then g.even else g.odd) ps }
  else { g1 with odd := applyPatches g.even ps }

/-- The handle whose last launch started longest ago (R76). -/
def oldestGraph : List Graph → Option Graph
  | [] => none
  | g :: gs =>
    match oldestGraph gs with
    | none => some g
    | some h => if g.lastStart ≤ h.lastStart then some g else some h

/-- In `LOOSE`, step k + 1 starts only once the image of step k - 1 is acknowledged (R451). -/
def stepMayStart (s : State) (sl : Slice) : Bool :=
  decide (s.twin.state ≠ .loose) || !s.twin.outstanding.any (fun m => m.slice == sl.id && m.isStep && decide (m.step + 1 ≤ sl.step))

/-- Put a launched graph into the slice; a step graph's launch begins a new step with an empty peer set (R448, R449). -/
def putGraph (g : Graph) (x : Slice) : Slice :=
  { x with
    graphs := x.graphs.filter (fun h => h.handle != g.handle) ++ [g]
    step := if g.step then x.step + 1 else x.step
    peers := if g.step then [] else x.peers }

/-- A handle's parameter state, as a mirror or a snapshot carries it (R384, R448). -/
def snapGraph (g : Graph) : SnapGraph :=
  { handle := g.handle, base := g.base, len := g.len, gen := g.gen, step := g.step, next := g.next, even := g.even, odd := g.odd }

/-- The parameter buffers of a step graph go to the twin at each launch (R448). -/
def mirrorParams (slice handle : Nat) (s : State) : State :=
  match findSlice s slice with
  | none => s
  | some sl =>
    match sl.graphs.find? (fun g => g.handle == handle && g.step) with
    | none => s
    | some g => if mirroring s then
        emit (.tether (.image { slice := slice, step := sl.step, isStep := false, params := [snapGraph g] } true)) s
      else s

/-- LAUNCH_GRAPH: check the image when the check is due (R236), apply the patches, start a launch (R71 to R76). -/
def execLaunchGraph (slice queue : Nat) (s0 : State) : Result :=
  match startable s0 slice queue with
  | none => .next s0
  | some (sl, _, d) =>
    match d.op with
    | .launchGraph handle image len gen patches =>
      if stalled s0 slice (frontEngine s0 slice queue) then .next s0 else
      let s := stepFree s0
      let old := sl.graphs.find? (fun g => g.handle == handle)
      let same := match old with | some g => g.base == image && g.len == len && g.gen == gen | none => false
      let due := match old with | some g => !same || !g.queues.contains queue | none => true
      let start := fun (g : Graph) (s : State) =>
        if g.even.length = 0 ∨ patches.any (fun p => decide (g.even.length ≤ p.1)) then
          rejectDesc slice queue d.index d.tag.toNat 0x0A s
        else if !(stepMayStart s sl) && g.step then timeDesc slice queue d.index s
        else
          startDesc slice queue d.index .started
            (mirrorParams slice handle
              (mapSlice slice (putGraph (launchGraph queue d.index (sl.step + 1) (now s) d.ordered patches g)) s))
      match old with
      | some g =>
        if (same && 2 ≤ g.launches.length) || (!same && !g.launches.isEmpty) then .next (timeDesc slice queue d.index s)
        else if !due then .next (start g s)
        else
          match checkGraph s sl image len with
          | .error e => .next (frontFault sl queue d.index d.tag.toNat e (timeDesc slice queue d.index s))
          | .ok none => .next (rejectDesc slice queue d.index d.tag.toNat 0x09 s)
          | .ok (some im) =>
            .next (start (if same then addGraphQueue queue im g else freshGraph handle image len gen queue im) s)
      | none =>
        let full := 64 ≤ sl.graphs.length
        let victim := oldestGraph sl.graphs
        if full && ((victim.map (fun g => !g.launches.isEmpty)).getD false) then .next (timeDesc slice queue d.index s)
        else
          match checkGraph s sl image len with
          | .error e => .next (frontFault sl queue d.index d.tag.toNat e (timeDesc slice queue d.index s))
          | .ok none => .next (rejectDesc slice queue d.index d.tag.toNat 0x09 s)
          | .ok (some im) =>
            let s1 := if full then mapSlice slice (fun x => { x with graphs := x.graphs.filter (fun g =>
                decide (some g.handle ≠ victim.map Graph.handle)) }) s else s
            .next (start (freshGraph handle image len gen queue im) s1)
    | _ => .next s0

/-! ### Graph nodes (R235, R73, R74, R449, R451) -/

def nodeState (l : GLaunch) (n : Nat) : Option Nat := l.nodes.getD n none
def nodeComplete (l : GLaunch) (n : Nat) : Bool := decide (nodeState l n = some 0)

/-- The node may start: its predecessors are complete (R235); the same node of the launch before is (R73); the launch
two before has completed (R73); `ORDERED` waits for the launch before (R74); the last node of a step waits for its
image (R449, R451). -/
def nodeMayStart (s : State) (g : Graph) (l : GLaunch) (n : Nat) : Bool :=
  let earlier := g.launches.filter (fun m => decide (m.number < l.number))
  let last := (List.range g.nodes.length).all (fun i => i == n || (nodeState l i).isSome)
  let imageOk :=
    if g.step && last && decide (s.twin.state = .tight) then l.imageAcked
    else if g.step && last && decide (s.twin.state = .loose) then l.imageSent
    else true
  decide (n < g.nodes.length) && decide (nodeState l n = none) &&
  g.edges.all (fun e => e.2 != n || nodeComplete l e.1) &&
  earlier.all (fun m => decide (m.number + 1 = l.number) && nodeComplete m n) &&
  (!l.ordered || earlier.isEmpty) && imageOk

/-- A node's parameter block: its words of the launch's buffer, as bytes (R235). -/
def nodeParams (g : Graph) (l : GLaunch) (nd : GNode) : List Byte :=
  ((((if l.number % 2 = 0 then g.even else g.odd).drop nd.pfirst).take nd.pwords).map (fun w => leBytes w.toNat 4)).flatten

/-- Change one launch of one graph. -/
def mapLaunch (handle number : Nat) (f : GLaunch → GLaunch) (x : Slice) : Slice :=
  { x with graphs := x.graphs.map (fun g => if g.handle = handle then
      { g with launches := g.launches.map (fun l => if l.number = number then f l else l) } else g) }

/-- GRAPH_NODE_START: a node's runs wait for a sequencer or proxy (R235). -/
def execGraphNodeStart (slice handle launch node : Nat) (s : State) : Result :=
  match findSlice s slice with
  | none => .next s
  | some sl =>
    match sl.graphs.find? (fun g => g.handle == handle) with
    | none => .next s
    | some g =>
      match g.launches.find? (fun l => l.number == launch), g.nodes[node]? with
      | some l, some nd =>
        match findQueue s slice l.queue with
        | none => .next s
        | some x =>
          if !(nodeMayStart s g l node) || !contextRuns s slice || sl.aborted || !queueOpen x then .next s else
            let t := now s
            let ps := nodeParams g l nd
            let d := x.descs.find? (fun e => e.index == l.desc)
            let s1 := addRuns slice l.queue nd.target (fun id i => { nd.program with
              id := id, queue := l.queue, desc := l.desc, node := some (handle, launch, node), prog := nd.prog, param := ps
              paramVa := none, instNo := i, instances := nd.instances, rt := x.rt, ready := t, bases := []
              tag := (d.map Desc.tag).getD 0, since := (d.bind Desc.freeAt).getD t, load := (d.map Desc.load).getD 0 }) nd.instances s
            .next (mapSlice slice (mapLaunch handle launch (fun l => { l with nodes := l.nodes.set node (some nd.instances) })) s1)
      | _, _ => .next s

/-! ### Starting a run (R100 to R107, R120 to R123, R201 to R206) -/

/-- The cluster is the half-chair cluster of a reservation of the slice: the highest one named for the block of an odd share (R107). -/
def halfCluster (s : State) (slice c : Nat) : Bool :=
  s.cfg.active.rts.any (fun r => r.slice == slice && r.units % 2 == 1 && r.clusters.any (fun b => b.1 == s.boot.blkId && b.2.getLsbD c &&
    !(List.range 32).any (fun i => decide (c < i) && b.2.getLsbD i)))

/-- The unit is one of the whole clusters of the reservation (R120). -/
def wholeReserved (s : State) (slice c : Nat) : Bool :=
  s.cfg.active.rts.any (fun r => r.slice == slice && r.clusters.any (fun b => b.1 == s.boot.blkId && b.2.getLsbD c &&
    (r.units % 2 == 0 || (List.range 32).any (fun i => decide (c < i) && b.2.getLsbD i))))

/-- A cluster of this block is reserved for the slice's real-time queues now (R107): a whole cluster for every chair, the half-chair
cluster for ticks 0 to 8,191. No reservation holds in `FAILED_OVER` (R456). -/
def reservedNow (s : State) (slice c : Nat) : Bool :=
  decide (s.twin.state ≠ .failedOver) && (wholeReserved s slice c || (halfCluster s slice c && decide (tickOf s < 8192)))

/-- Some scheduler core runs, and serves the normal queues (R26, R100). -/
def coresRun (s : State) : Bool := (s.recovery.schedDown ||| s.recovery.schedRestarting) != 0xF#4

/-- The core that serves a normal queue (R100): the queue's own, or the next one that runs. A slice has 64 queues, so the global queue number
mod 4 is the queue's own number mod 4 (log 78). -/
def servingCore (s : State) (q : Nat) : Option Nat :=
  (((List.range 4).map (fun i => (q + i) % 4)).find? (fun n => !(s.recovery.schedDown ||| s.recovery.schedRestarting).getLsbD n))

/-- A scheduler core that dispatches a run gives a sign of progress (R435). A real-time run needs no core (R101). -/
def coreSigns (r : Run) (s : State) : State :=
  match (if r.rt then none else servingCore s r.queue) with
  | some n => { s with recovery := { s.recovery with schedSeen := Sparse.put s.recovery.schedSeen n (now s) } }
  | none => s

/-- A run that a unit may take (R100, R106, R107). -/
def unitTakes (s : State) (slice : Nat) (u : UnitId) (r : Run) : Bool :=
  (r.rt || coresRun s) && match u with
  | .port _ => r.proxy
  | .cluster c => !r.proxy && (!reservedNow s slice c || r.rt)

/-- How long the head descriptor of a run's queue has waited: the tick since which it waits; for another block's queue, the tick at
which the run came here. -/
def runSince (s : State) (slice : Nat) (r : Run) : Nat :=
  if r.home.isSome then r.ready else ((findQueue s slice r.queue).map Queue.waitingSince).getD 0

/-- R106: real-time queues first, then the queue whose head descriptor has waited longest. The order among several real-time queues,
and among queues that have waited equally long, is the model's: longest waiting, then first listed (log 76). -/
def pickRun (s : State) (slice : Nat) : List Run → Option Run
  | [] => none
  | r :: rs =>
    match pickRun s slice rs with
    | none => some r
    | some b =>
      if r.rt && !b.rt then some r else if b.rt && !r.rt then some b
      else if runSince s slice r ≤ runSince s slice b then some r else some b

/-- The initial s registers of a run (R201). -/
def initialRegs (r : Run) (param : List Byte) : List (Nat × Word64) :=
  let loaded := (List.range 30).foldl (fun m i =>
    if r.regInit.testBit i then Sparse.set 0 m i (BitVec.ofNat 64 (byteField param (8 * i) 8)) else m) ([] : List (Nat × Word64))
  Sparse.set 0 (Sparse.set 0 loaded 30 (BitVec.ofNat 64 r.instNo)) 31 (BitVec.ofNat 64 r.instances)

/-- The conditions of R122 that the block can see: at the doorbell write the runs in flight and the descriptor's instances lay within
the reserved whole clusters; the unit is one of them; no failover here, no schuss clamp in its first 1 ms. -/
def boundHolds (s : State) (slice : Nat) (u : UnitId) (r : Run) : Bool :=
  let whole := ((List.range 32).filter (wholeReserved s slice)).length
  decide (r.load + r.instances ≤ whole) && decide (s.twin.state ≠ .failedOver) && s.twin.probing.isNone &&
  (match s.power.clampSince with | some t => decide (t + 1000000 ≤ s.lift.wallNs) | none => true) &&
  (match u with | .cluster c => wholeReserved s slice c | .port _ => false)

/-- How many instances of a run's launch are dispatched to this block. -/
def hereOf (s : State) (slice : Nat) (r : Run) : Nat :=
  ((List.range r.instances).filter (fun i => runBlock s slice r.queue (if r.proxy then 1 else 0) i == s.boot.blkId)).length

/-- R123: the record of a real-time descriptor that starts late; it stops nothing. The interval runs from the acceptance of its doorbell
write, or from the completion of the last descriptor that it had to wait for (R120). -/
def noteLate (slice : Nat) (u : UnitId) (r : Run) (first : Bool) (s : State) : State :=
  let interval := now s - r.since
  if r.rt && first && decide (125 < interval) && boundHolds s slice u r then
    writeRecord { cause := 0x603, slice := slice, queue := r.queue, context := contextSlot s slice, engine := engineId s u 0,
                  desc := r.desc % 2 ^ 44, tag := r.tag.toNat, detail := interval } s
  else s

/-- The unit's sequencer takes a run: registers, tally bases (R201, R204). -/
def beginRun (r : Run) (param : List Byte) (x : UnitCtx) : UnitCtx :=
  let r' := { r with param := param, bases := (List.range r.tallyCount).map (fun i => (expectOf x (r.tallyFirst + i)).toNat) }
  { x with seq := some { run := r', s := initialRegs r' param } }

/-- RUN_START: the sequencer or proxy begins its next run (R106, R201, R206). -/
def execRunStart (unit : UnitId) (slice : Nat) (s0 : State) : Result :=
  match findUnit s0 unit slice, findSlice s0 slice with
  | some x, some sl =>
    if currentSlice s0 unit ≠ some slice || !contextRuns s0 slice || x.seq.isSome || x.stopping || sl.aborted then .next s0 else
      match pickRun s0 slice (sl.runs.filter (unitTakes s0 slice unit)) with
      | none => .next s0
      | some r =>
        let e : UnitId × Nat × Nat := (unit, 0, 2 ^ 33 + r.id)
        if stalled s0 slice e then .next s0 else
          let s := stepFree s0
          let n := tallyCount s slice unit
          let first := decide (r.home.isSome ∨ (sl.runs.filter (fun y => y.queue == r.queue && y.desc == r.desc && decide (y.node = r.node))).length = hereOf s slice r)
          if 0 < r.tallyCount ∧ n < r.tallyFirst + r.tallyCount then
            .next (execFault unit slice 0 r.queue r.desc 0 0x201 (syncAddr s unit (max r.tallyFirst n) 0) 0 s)
          else
            let params : Except Stop (List Byte) :=
              match r.paramVa with
              | some (va, len) => if len = 0 then .ok [] else readAt s (.buffer unit 0) sl .fetch va len
              | none => .ok r.param
            match params with
            | .error st => .next (meetStop sl e r.queue r.desc 0 .fetch noRow true (.buffer unit 0) st s)
            | .ok bs =>
              let s1 := noteLate slice unit r first (match r.paramVa with | some (va, len) => cachePages (.buffer unit 0) sl va len s | none => s)
              let s2 := mapSlice slice (fun y => { y with runs := y.runs.filter (fun z => z.id != r.id) }) s1
              .next (mapContext slice (fun c => { c with lastDispatch := now s }) (mapUnit unit slice (beginRun r bs) (coreSigns r s2)))
  | _, _ => .next s0

/-! ### The completion of a run (R60, R205, R235, R246) -/

/-- Clear `PAIRED` on a pair's tallies (R246). -/
def unpairTallies (u : UnitId) (slice : Nat) (p : Pair) (s : State) : State :=
  [p.producer, p.consumer].foldl (fun s i => mapPlaced slice u i (fun t => { t with paired := false }) s) s

/-- R246: dissolve every pair that a run declared and left standing. -/
def dissolveRunPairs (u : UnitId) (slice run : Nat) (s : State) : State :=
  match findUnit s u slice with
  | none => s
  | some x =>
    let mine := x.pairs.filter (fun p => p.run == run)
    mapUnit u slice (fun y => { y with pairs := y.pairs.filter (fun p => p.run != run) })
      (mine.foldl (fun s p => unpairTallies u slice p s) s)

/-- One run fewer for a descriptor or its graph node. -/
def takeRunDone (slice queue desc : Nat) (node : Option (Nat × Nat × Nat)) (s : State) : State :=
  match node with
  | none => mapDesc slice queue desc (fun d => { d with runsLeft := d.runsLeft - 1 }) s
  | some (h, l, n) =>
    mapSlice slice (mapLaunch h l (fun x => { x with nodes := x.nodes.set n ((nodeState x n).map (fun k => k - 1)) })) s

/-- A run is complete: its descriptor or node counts it, here or at the block that dispatched it. -/
def countRun (slice : Nat) (r : Run) (s : State) : State :=
  match r.home with
  | some b => sendD2d b (.mgmt (.runDone slice r.queue r.desc r.node)) s
  | none => takeRunDone slice r.queue r.desc r.node s

/-- A run that another block has dispatched waits here for a sequencer or proxy, and its context is wanted (R110). -/
def takeDispatch (slice : Nat) (r : Run) (s : State) : State :=
  wantContext slice (mapSlice slice (fun x => { x with runs := x.runs ++ [{ r with id := x.nextRun, ready := now s }], nextRun := x.nextRun + 1 }) s)

/-- The owner of a queue hears that a fault on another block has stopped it (R83, R34). -/
def takeQueueStop (slice q status : Nat) (seq : Word32) (s : State) : State :=
  match findQueue s slice q with
  | some x =>
    if x.owner = s.boot.blkId && queueOpen x then closeQueue slice q status seq (stopQueueWork slice q .none true false s) else s
  | none => s

/-- RUN_COMPLETE: a run that has halted and whose engine work has drained is complete (R60, R205). -/
def execRunComplete (unit : UnitId) (slice run : Nat) (s : State) : Result :=
  match findUnit s unit slice with
  | none => .next s
  | some x =>
    match x.draining.find? (fun r => r.id == run) with
    | none => .next s
    | some r =>
      if x.insns.any (fun e => e.run == run) then .next s else
        let s1 := dissolveRunPairs unit slice run s
        let s2 := mapUnit unit slice (fun y => { y with draining := y.draining.filter (fun z => z.id != run) }) s1
        .next (countRun slice r s2)

end Sys2Proof.Machine
end

