-- ==== Sys2Proof/Machine/Seq.lean ====
section
/-! DEFINITION. The sequencer (spec/06, spec/04): instruction fetch and decode (R203, R211), issue to the engine queues
(R124, R125), and the control and scalar instructions (R217 to R221, R584). -/

namespace Sys2Proof.Machine

/-! ### Registers (R207) -/

def sReg (z : Seq) (i : Nat) : Word64 := Sparse.get 0 z.s i
def setS (i : Nat) (v : Word64) (z : Seq) : Seq := { z with s := Sparse.set 0 z.s i v }
def aReg (z : Seq) (i : Nat) : Word64 := Sparse.get 0 z.a i
def setA (i : Nat) (v : Word64) (z : Seq) : Seq := { z with a := Sparse.set 0 z.a i v }
def tReg (z : Seq) (i : Nat) : TileReg := Sparse.get 0 z.t i
def setT (i : Nat) (v : TileReg) (z : Seq) : Seq := { z with t := Sparse.set 0 z.t i v }

/-- The d, a and b fields of a control or scalar instruction. -/
def rd (w : InsnWord) : Nat := fld 95 91 w
def ra (w : InsnWord) : Nat := fld 90 86 w
def rb (w : InsnWord) : Nat := fld 85 81 w

/-! ### Issue -/

/-- An execution fault raised by the sequencer at a word of its run (R212). -/
def seqFault (x : UnitCtx) (z : Seq) (pc cause addr detail : Nat) (s : State) : State :=
  execFault x.unit x.slice 0 z.run.queue z.run.desc pc cause addr detail s

/-- Put the sequencer's new state back. -/
def putSeq (x : UnitCtx) (z : Seq) (s : State) : State := mapUnit x.unit x.slice (fun y => { y with seq := some z }) s

/-- Continue at a word; issue past the last word faults with `PC_RANGE` at `NWORDS` - 1 (R217). -/
def goTo (x : UnitCtx) (z : Seq) (target : Nat) (s : State) : State :=
  if target < z.run.nwords then putSeq x { z with pc := target } s
  else seqFault x z (z.run.nwords - 1) 0x304 0 0 s

def goNext (x : UnitCtx) (z : Seq) (s : State) : State := goTo x z (z.pc + 1) s

/-- The address of a program word. -/
def wordAddr (r : Run) (w : Nat) : Nat := r.prog + 64 + 16 * w

/-- The engine name of a sequencer in a run. -/
def seqEngine (x : UnitCtx) (z : Seq) : UnitId × Nat × Nat := (x.unit, 0, 2 ^ 33 + z.run.id)

/-- The word is an instruction of an opcode. -/
def isOp (op : Nat) (w : InsnWord) : Bool := opOf w == op

/-- Read a program word through the sequencer's translation (R203). -/
def readWord (s : State) (u : UnitId) (sl : Slice) (r : Run) (w : Nat) : Except Stop InsnWord :=
  match readAt s (.buffer u 0) sl .fetch (wordAddr r w) 16 with
  | .error e => .error e
  | .ok bs => .ok (BitVec.ofNat 128 (leNat bs))

/-- The sequencer has fetched a word: its translation stands in the sequencer's buffer (R203, R282). -/
def fetchStep (u : UnitId) (sl : Slice) (z : Seq) (s : State) : State :=
  cachePages (.buffer u 0) sl (wordAddr z.run z.pc) 16 (stepFree s)

/-- The sequencer of a unit can issue: its context runs and it is not stalled. -/
def canIssue (s : State) (x : UnitCtx) (z : Seq) (sl : Slice) : Bool :=
  contextRuns s x.slice && !x.stopping && !sl.aborted && !stalled s x.slice (seqEngine x z)

/-- One issue step: fetch the word at the pc, decode it (R211), and let `k` do what an instruction that `sel` selects
does. A word that `sel` does not select is another command's step. -/
def issueStep (sel : InsnWord → Bool) (u : UnitId) (k : UnitCtx → Seq → Slice → InsnWord → State → State) (s0 : State) : Result :=
  match currentUnit s0 u with
  | none => .next s0
  | some x =>
    match x.seq, findSlice s0 x.slice with
    | some z, some sl =>
      if !canIssue s0 x z sl then .next s0 else
        let s := fetchStep u sl z s0
        match readWord s u sl z.run z.pc with
        | .error st => .next (meetStop sl (seqEngine x z) z.run.queue z.run.desc z.pc .fetch noRow true (.buffer u 0) st s)
        | .ok w =>
          if !decodes z.run.proxy w then .next (seqFault x z z.pc 0x303 0 0 s)
          else if !sel w then .next s0
          else .next (k x z sl w s)
    | _, _ => .next s0

/-! ### Control (R217 to R219) -/

/-- The condition of a `BR` (06 "Control and scalar"). -/
def brTaken (sub : Nat) (a b : Word64) : Bool :=
  match sub with
  | 0 => true
  | 1 => a == 0
  | 2 => a != 0
  | 3 => a.slt b
  | 4 => !(a.slt b)
  | _ => a.ult b

/-- A word lies in a loop's body: from the word after its `LOOP` to its `ENDLOOP`. -/
def inBody (t : Nat) (l : LoopEntry) : Bool := decide (l.start < t) && decide (t ≤ l.stop)

/-- R217: a branch closes every loop whose body it leaves, with the loops nested inside it (innermost first). -/
def closeLoops (t : Nat) : List LoopEntry → List LoopEntry
  | [] => []
  | l :: ls =>
    let outer := closeLoops t ls
    if outer.length < ls.length then outer else if inBody t l then l :: ls else ls

def doBr (x : UnitCtx) (z : Seq) (_ : Slice) (w : InsnWord) (s : State) : State :=
  let t := (z.pc : Int) + imm32 w
  if t < 0 ∨ (z.run.nwords : Int) ≤ t then seqFault x z z.pc 0x304 0 0 s
  else if brTaken (subOf w) (sReg z (rd w)) (sReg z (ra w)) then
    goTo x { z with loops := closeLoops t.toNat z.loops } t.toNat s
  else goNext x z s

/-- BR (R217, R218). -/
def execBr (unit : UnitId) (s : State) : Result := issueStep (isOp 0x01) unit doBr s

def doLoop (x : UnitCtx) (z : Seq) (sl : Slice) (w : InsnWord) (s : State) : State :=
  let d := imm32 w
  let t := (z.pc : Int) + d
  if d ≤ 0 ∨ (z.run.nwords : Int) ≤ t then seqFault x z z.pc 0x304 0 0 s else
    match readWord s x.unit sl z.run t.toNat with
    | .error st => meetStop sl (seqEngine x z) z.run.queue z.run.desc z.pc .fetch noRow true (.buffer x.unit 0) st s
    | .ok v =>
      if opOf v ≠ 0x03 then seqFault x z z.pc 0x304 0 0 s
      else if 4 ≤ z.loops.length then seqFault x z z.pc 0x305 0 0 s
      else
        let n := (sReg z (rd w)).toNat
        if n = 0 then goTo x z (t.toNat + 1) s
        else goNext x { setS (ra w) 0 z with loops := { start := z.pc, stop := t.toNat, left := n, index := ra w, pass := 0 } :: z.loops } s

/-- LOOP (R218, R219). -/
def execLoop (unit : UnitId) (s : State) : Result := issueStep (isOp 0x02) unit doLoop s

def doEndloop (x : UnitCtx) (z : Seq) (_ : Slice) (_ : InsnWord) (s : State) : State :=
  match z.loops with
  | [] => seqFault x z z.pc 0x305 0 0 s
  | l :: ls =>
    if 1 < l.left then
      goTo x { setS l.index (BitVec.ofNat 64 (l.pass + 1)) z with
        loops := { l with left := l.left - 1, pass := l.pass + 1 } :: ls } (l.start + 1) s
    else goNext x { z with loops := ls } s

/-- ENDLOOP (R218, R219). -/
def execEndloop (unit : UnitId) (s : State) : Result := issueStep (isOp 0x03) unit doEndloop s

/-- R204: `HALT` adds `INC` to `E` for each tally of the run's range. -/
def haltExpect (r : Run) (x : UnitCtx) : UnitCtx :=
  (List.range r.tallyCount).foldl (fun x i =>
    setExpect (r.tallyFirst + i) (expectOf x (r.tallyFirst + i) + BitVec.ofNat 48 (r.incs.getD i 0)) x) x

/-- A unit whose run has halted: the run drains and the sequencer is free for its next (R205). -/
def haltUnit (r : Run) (x : UnitCtx) : UnitCtx := { haltExpect r x with seq := none, draining := x.draining ++ [r] }

def doHalt (x : UnitCtx) (z : Seq) (_ : Slice) (_ : InsnWord) (s : State) : State :=
  mapUnit x.unit x.slice (haltUnit z.run) s

/-- HALT (R199, R204, R205). -/
def execHalt (unit : UnitId) (s : State) : Result := issueStep (isOp 0x04) unit doHalt s

/-! ### Scalar (R216, R220, R221, R584) -/

/-- The immediate of `ADD`, sign-extended to 64 bits. -/
def immS (w : InsnWord) : Word64 := (BitVec.ofNat 32 (fld 31 0 w)).signExtend 64

def doAdd (x : UnitCtx) (z : Seq) (_ : Slice) (w : InsnWord) (s : State) : State :=
  goNext x (setS (rd w) (sReg z (ra w) + (if flgOf w 0 then immS w else sReg z (rb w))) z) s

/-- ADD: wraps modulo 2^64. -/
def execAdd (unit : UnitId) (s : State) : Result := issueStep (isOp 0x10) unit doAdd s

/-- R584: a shift by an unsigned amount of any size. -/
def shiftBy (sub : Nat) (v : Word64) (n : Nat) : Word64 :=
  match sub with
  | 0 => if 64 ≤ n then 0 else v <<< n
  | 1 => if 64 ≤ n then 0 else v >>> n
  | _ => v.sshiftRight (min n 63)

def doShl (x : UnitCtx) (z : Seq) (_ : Slice) (w : InsnWord) (s : State) : State :=
  let n := if flgOf w 0 then fld 5 0 w else (sReg z (rb w)).toNat
  goNext x (setS (rd w) (shiftBy (subOf w) (sReg z (ra w)) n) z) s

/-- SHL (R584). -/
def execShl (unit : UnitId) (s : State) : Result := issueStep (isOp 0x11) unit doShl s

/-- Put the bytes of an `LDP` source into its destination. -/
def ldpDest (w : InsnWord) (bs : List Byte) (z : Seq) : Seq :=
  match subOf w with
  | 0 => setS (rd w) (BitVec.ofNat 64 (leNat bs)) z
  | 1 => setA (rd w) (BitVec.ofNat 64 (leNat bs)) z
  | _ => setT (rd w) (BitVec.ofNat 256 (leNat bs)) z

def doLdp (x : UnitCtx) (z : Seq) (_ : Slice) (w : InsnWord) (s : State) : State :=
  let n := if subOf w = 2 then 32 else 8
  if flgOf w 0 then
    let a := (sReg z (ra w) + BitVec.ofNat 64 (fld 31 0 w)).toNat
    if a % n ≠ 0 then seqFault x z z.pc 0x306 0 0 s
    else if !sramFits s x.slice x.unit a n then seqFault x z z.pc 0x307 0 0 s
    else
      let bad := badWords s x.slice x.unit [(a, n)]
      if bad.contains 2 then seqFault x z z.pc 0x501 0 0 s
      else goNext x (ldpDest w (sramRead s x.slice x.unit a n) z) (countFixes x.slice bad s)
  else
    let o := 4 * fld 31 0 w
    if o % n ≠ 0 ∨ z.run.param.length < o + n then seqFault x z z.pc 0x306 0 0 s
    else goNext x (ldpDest w ((z.run.param.drop o).take n) z) s

/-- LDP (R220). -/
def execLdp (unit : UnitId) (s : State) : Result := issueStep (isOp 0x12) unit doLdp s

/-- The registers after a `MOV` (R221). -/
def movRegs (w : InsnWord) (z : Seq) : Seq :=
  match subOf w with
  | 0 => setS (rd w) (BitVec.ofNat 64 (fld 63 0 w)) z
  | 1 => setS (rd w) (sReg z (ra w)) z
  | 2 => setA (rd w) (sReg z (ra w)) z
  | 3 => setS (rd w) (aReg z (ra w)) z
  | 4 => setA (rd w) (aReg z (ra w) + sReg z (rb w)) z
  | 5 => setT (rd w) (setTileField (fld 98 96 w) (sReg z (ra w)) (tReg z (rd w))) z
  | _ => setT (rd w) (tReg z (ra w)) z

def doMov (x : UnitCtx) (z : Seq) (_ : Slice) (w : InsnWord) (s : State) : State := goNext x (movRegs w z) s

/-- MOV (R221). -/
def execMov (unit : UnitId) (s : State) : Result := issueStep (isOp 0x13) unit doMov s

/-! ### Engine queues (R124 to R126, R215) -/

/-- The tile registers of the four quadrants from a base register (R222). -/
def quadTiles (z : Seq) (n : Nat) : List TileReg := (List.range 4).map (fun q => tReg z ((n + q) % 16))

/-- An instruction as it is issued: its word and the register values it names (log 7). -/
def capture (x : UnitCtx) (z : Seq) (w : InsnWord) : EngInsn :=
  let sel := if opOf w = 0x72 then (fld 71 67 w, fld 66 62 w) else if opOf w = 0x81 then (rd w, 0) else (fld 71 67 w, 0)
  { id := x.nextInsn, eng := engOf w, word := w, pc := z.pc, run := z.run.id, queue := z.run.queue,
    tD := quadTiles z (fld 95 92 w), tS1 := quadTiles z (fld 91 88 w), tS2 := quadTiles z (fld 87 84 w),
    tS3 := tReg z (fld 83 80 w), tV := tReg z (fld 71 68 w), ar := aReg z (fld 79 76 w), ar2 := aReg z (fld 75 72 w),
    sX := sReg z sel.1, sY := sReg z sel.2 }

/-- The queue of an engine has room (R125: 16 entries each). -/
def queueRoom (x : UnitCtx) (eng : Nat) : Bool := decide ((x.insns.filter (fun e => e.eng == eng)).length < 16)

/-- Place an instruction at the tail of its engine's queue; with no room, issue stops (R124, R125). -/
def doIssue (x : UnitCtx) (z : Seq) (_ : Slice) (w : InsnWord) (s : State) : State :=
  if queueRoom x (engOf w) then
    goNext x z (mapUnit x.unit x.slice (fun y => { y with insns := y.insns ++ [capture x z w], nextInsn := y.nextInsn + 1 }) s)
  else s

/-- An array instruction or an `EPCALL` that is started runs on; every other instruction keeps the head of its queue
until it completes (R126, R142, R509). -/
def runsOn (e : EngInsn) : Bool :=
  e.started && ((decide (0x50 ≤ opOf e.word) && decide (opOf e.word ≤ 0x53)) || opOf e.word == 0x90)

/-- The instruction at an engine's queue head. -/
def headInsn (x : UnitCtx) (eng : Nat) : Option EngInsn := x.insns.find? (fun e => e.eng == eng && !runsOn e)

/-- Every earlier instruction of the queue has completed (R215). -/
def oldest (x : UnitCtx) (e : EngInsn) : Bool := decide ((x.insns.find? (fun y => y.eng == e.eng)).map EngInsn.id = some e.id)

def mapInsn (x : UnitCtx) (id : Nat) (f : EngInsn → EngInsn) (s : State) : State :=
  mapUnit x.unit x.slice (mapInsns (fun es => es.map (fun e => if e.id = id then f e else e))) s

/-- An instruction completes: it leaves its queue. -/
def retire (x : UnitCtx) (id : Nat) (s : State) : State :=
  mapUnit x.unit x.slice (mapInsns (fun es => es.filter (fun e => e.id != id))) s

/-- The engine name of an instruction. -/
def insnEngine (x : UnitCtx) (e : EngInsn) : UnitId × Nat × Nat := (x.unit, e.eng, e.id)

/-- The run that issued an instruction. -/
def insnRun (x : UnitCtx) (e : EngInsn) : Option Run := (heldRuns x).find? (fun r => r.id == e.run)

/-- One step of the instruction at a queue head, when `sel` selects it; an instruction that needs every earlier one of
its queue completed waits for that. -/
def headStep (sel : InsnWord → Bool) (eng : Nat) (u : UnitId) (needOldest : Bool)
    (k : UnitCtx → EngInsn → Slice → State → State) (s : State) : Result :=
  match currentUnit s u with
  | none => .next s
  | some x =>
    match headInsn x eng, findSlice s x.slice with
    | some e, some sl =>
      if !sel e.word || (needOldest && !oldest x e) || !contextRuns s x.slice || x.stopping || stalled s x.slice (insnEngine x e) ||
        e.fault.isSome then .next s
      else .next (k x e sl (stepFree s))
    | _, _ => .next s

/-- An instruction with its two phases. -/
def engineStep (op : Nat) (u : UnitId) (needOldest : Bool) (k : UnitCtx → EngInsn → Slice → State → State) (ph : Phase) (s : State) : Result :=
  match ph with
  | .issue => issueStep (isOp op) u doIssue s
  | .head eng => headStep (isOp op) eng u needOldest k s

end Sys2Proof.Machine
end

