-- ==== Sys2Proof/Machine/Sync.lean ====
section
/-! DEFINITION. Tally instructions and start gates (spec/07): `SIG`, `WAITGE`, `PAIRCHK`, `GATE` and its home, landing
mailboxes, and the hand-off of `EPCALL` (spec/06, spec/15). -/

namespace Sys2Proof.Machine

/-! ### Landing mailboxes (R256, R262) -/

/-- An increment applied to a saved tally image; a poisoned one discards it (R253, R262). -/
def bumpSaved (u : UnitId) (i amount : Nat) (v : Saved) : Saved :=
  let t := Sparse.get {} v.tallies (savedKey u i)
  if t.poison then v else { v with tallies := Sparse.set {} v.tallies (savedKey u i) (bumpTally amount t) }

/-- A mailbox applies an increment, or holds it while the context's tallies are out; once their images are written it
applies to the images (R262), and the pair bounds are checked (R245). -/
def mailboxAdd (u : UnitId) (slice tallyIx amount : Nat) (s : State) : State :=
  if talliesOut s slice u then
    match (findContext s slice).bind Context.saved with
    | some _ =>
      if ((findContext s slice).map (fun c => c.saving.contains u || c.loading.contains u)).getD false then
        { s with heldIncs := s.heldIncs ++ [{ unit := u, slice := slice, tally := tallyIx, amount := amount }] }
      else checkPairs {} u slice tallyIx (mapContext slice (fun c => { c with saved := c.saved.map (bumpSaved u tallyIx amount) }) s)
    | none => { s with heldIncs := s.heldIncs ++ [{ unit := u, slice := slice, tally := tallyIx, amount := amount }] }
  else addTally u slice tallyIx amount s

/-! ### SIG and WAITGE (R238 to R242, R228) -/

/-- A tally operand lies in the program's range and in the context's (R133, R214). -/
def tallyOk (s : State) (x : UnitCtx) (r : Run) (i : Nat) : Bool :=
  decide (r.tallyFirst ≤ i) && decide (i < r.tallyFirst + r.tallyCount) && decide (i < tallyCount s x.slice x.unit)

/-- The sequencer goes on to its next word, where its run still runs. -/
def goNextIf (x : UnitCtx) (z : Seq) (s : State) : State :=
  match findUnit s x.unit x.slice with
  | some y => if (y.seq.map (fun v => v.run.id)) = some z.run.id then goNext y z s else s
  | none => s

def sigTally (w : InsnWord) : Nat := fld 55 48 w
def sigAmount (w : InsnWord) : Nat := fld 47 32 w

def doSigSeq (x : UnitCtx) (z : Seq) (sl : Slice) (w : InsnWord) (s : State) : State :=
  if engOf w ≠ 0 then doIssue x z sl w s
  else if !tallyOk s x z.run (sigTally w) then seqFault x z z.pc 0x201 (syncAddr s x.unit (sigTally w) 0) 0 s
  else goNextIf x z (addTallyFrom { pc := z.pc } x.unit x.slice (sigTally w) (sigAmount w) s)

/-- The tally check of an instruction of an engine queue. -/
def insnTallyOk (s : State) (x : UnitCtx) (e : EngInsn) (i : Nat) : Bool :=
  match insnRun x e with
  | some r => tallyOk s x r i
  | none => false

def doSigHead (x : UnitCtx) (e : EngInsn) (_ : Slice) (s : State) : State :=
  if !insnTallyOk s x e (sigTally e.word) then insnFault x e 0x201 (syncAddr s x.unit (sigTally e.word) 0) 0 s
  else addTallyFrom { eng := e.eng, pc := e.pc } x.unit x.slice (sigTally e.word) (sigAmount e.word) (retire x e.id s)

/-- SIG: adds its amount in queue order, or at issue on `ENG` 0 (R215, R238, R239). -/
def execSig (unit : UnitId) (ph : Phase) (s : State) : Result :=
  match ph with
  | .issue => issueStep (isOp 0x80) unit doSigSeq s
  | .head eng => headStep (isOp 0x80) eng unit true doSigHead s

/-- The threshold of a `WAITGE` (R228): the immediate, plus the run base, plus s`a`. -/
def waitThreshold (r : Run) (w : InsnWord) (sa : Word64) : Nat :=
  let i := fld 55 48 w
  fld 47 0 w + (if flgOf w 0 then r.bases.getD (i - r.tallyFirst) 0 else 0) + (if flgOf w 1 then sa.toNat else 0)

/-- What a `WAITGE` finds (R240, R241, R252): satisfied, waiting, or a cause. -/
inductive WaitFinds where
  | met
  | waits
  | cause (c : Nat)

def waitFinds (t : Tally) (threshold : Nat) : WaitFinds :=
  if t.poison then .cause 0x207 else if t.sat then .cause 0x202
  else if threshold ≤ t.value.toNat then .met else .waits

def doWaitSeq (x : UnitCtx) (z : Seq) (sl : Slice) (w : InsnWord) (s : State) : State :=
  if engOf w ≠ 0 then doIssue x z sl w s
  else
    let i := fld 55 48 w
    if !tallyOk s x z.run i then seqFault x z z.pc 0x201 (syncAddr s x.unit i 0) 0 s else
      match waitFinds (tally s x.slice x.unit i) (waitThreshold z.run w (sReg z (rd w))) with
      | .met => goNext x z s
      | .waits => s
      | .cause c => seqFault x z z.pc c (syncAddr s x.unit i 0) 0 s

def doWaitHead (x : UnitCtx) (e : EngInsn) (_ : Slice) (s : State) : State :=
  let i := fld 55 48 e.word
  match insnRun x e with
  | none => s
  | some r =>
    if !tallyOk s x r i then insnFault x e 0x201 (syncAddr s x.unit i 0) 0 s else
      match waitFinds (tally s x.slice x.unit i) (waitThreshold r e.word e.sX) with
      | .met => retire x e.id s
      | .waits => mapInsn x e.id (fun y => { y with started := true }) s
      | .cause c => insnFault x e c (syncAddr s x.unit i 0) 0 s

/-- WAITGE: holds its queue head until the tally reaches the threshold (R228, R240, R241). -/
def execWaitge (unit : UnitId) (ph : Phase) (s : State) : Result :=
  match ph with
  | .issue => issueStep (isOp 0x81) unit doWaitSeq s
  | .head eng => headStep (isOp 0x81) eng unit false doWaitHead s

/-- WAITGE_WAKE: a waiting `WAITGE` evaluates its condition again after a write of its tally (R241, R252). -/
def execWaitgeWake (unit : UnitId) (eng : Nat) (s : State) : Result :=
  if eng = 0 then issueStep (fun w => isOp 0x81 w && engOf w == 0) unit doWaitSeq s
  else headStep (isOp 0x81) eng unit false (fun x e sl s => if e.started then doWaitHead x e sl s else s) s

/-! ### PAIRCHK (R243 to R246) -/

def pairProducer (w : InsnWord) : Nat := fld 55 48 w
def pairConsumer (w : InsnWord) : Nat := fld 63 56 w

/-- The pair slots of a context on a unit: one per bank of its partition (R243). -/
def pairSlots (s : State) (slice : Nat) (u : UnitId) : Nat := tallyCount s slice u / 8

/-- The declaration is invalid (R243). -/
def pairInvalid (s : State) (x : UnitCtx) (w : InsnWord) : Bool :=
  let p := pairProducer w
  let c := pairConsumer w
  p == c || (tally s x.slice x.unit p).paired || (tally s x.slice x.unit c).paired || fld 31 0 w == 0 ||
  decide (pairSlots s x.slice x.unit ≤ x.pairs.length)

def setPaired (u : UnitId) (slice i : Nat) (b : Bool) (s : State) : State :=
  match tallyKey s slice u i with
  | some k => setTallyAt k { tallyAt s k with paired := b } s
  | none => s

/-- R244: record the origins and set `PAIRED`. -/
def declarePair (x : UnitCtx) (r : Run) (w : InsnWord) (s : State) : State :=
  let p := pairProducer w
  let c := pairConsumer w
  let pr : Pair := { producer := p, consumer := c, capacity := fld 31 0 w, originP := (tally s x.slice x.unit p).value.toNat,
                     originC := (tally s x.slice x.unit c).value.toNat, run := r.id, queue := r.queue, desc := r.desc, raised := false }
  mapUnit x.unit x.slice (fun y => { y with pairs := y.pairs ++ [pr] })
    (setPaired x.unit x.slice c true (setPaired x.unit x.slice p true s))

/-- R246: clear `PAIRED` and free the slot. -/
def dissolvePair (x : UnitCtx) (w : InsnWord) (s : State) : State :=
  let p := pairProducer w
  let c := pairConsumer w
  mapUnit x.unit x.slice (fun y => { y with pairs := y.pairs.filter (fun z => !(z.producer == p && z.consumer == c)) })
    (setPaired x.unit x.slice c false (setPaired x.unit x.slice p false s))

def pairStands (x : UnitCtx) (w : InsnWord) : Bool :=
  x.pairs.any (fun z => z.producer == pairProducer w && z.consumer == pairConsumer w)

/-- The first tally operand out of range. -/
def pairRange (s : State) (x : UnitCtx) (r : Run) (w : InsnWord) : Option Nat :=
  [pairProducer w, pairConsumer w].find? (fun i => !tallyOk s x r i)

/-- A `PAIRCHK`: the fault that it raises, if any. -/
def pairFault (s : State) (x : UnitCtx) (r : Run) (w : InsnWord) (bad : Bool) : Option (Nat × Nat) :=
  match pairRange s x r w with
  | some i => some (0x201, syncAddr s x.unit i 0)
  | none => if bad then some (0x203, syncAddr s x.unit (pairProducer w) (pairConsumer w)) else none

def isDeclare (w : InsnWord) : Bool := isOp 0x82 w && subOf w == 0
def isDissolve (w : InsnWord) : Bool := isOp 0x82 w && subOf w == 1

def doDeclareSeq (x : UnitCtx) (z : Seq) (sl : Slice) (w : InsnWord) (s : State) : State :=
  if engOf w ≠ 0 then doIssue x z sl w s else
    match pairFault s x z.run w (pairInvalid s x w) with
    | some (c, a) => seqFault x z z.pc c a 0 s
    | none => goNextIf x z (declarePair x z.run w s)

def doDeclareHead (x : UnitCtx) (e : EngInsn) (_ : Slice) (s : State) : State :=
  match insnRun x e with
  | none => s
  | some r =>
    match pairFault s x r e.word (pairInvalid s x e.word) with
    | some (c, a) => insnFault x e c a 0 s
    | none => declarePair x r e.word (retire x e.id s)

/-- PAIRCHK_DECLARE (R243, R244). -/
def execPairchkDeclare (unit : UnitId) (ph : Phase) (s : State) : Result :=
  match ph with
  | .issue => issueStep isDeclare unit doDeclareSeq s
  | .head eng => headStep isDeclare eng unit true doDeclareHead s

def doDissolveSeq (x : UnitCtx) (z : Seq) (sl : Slice) (w : InsnWord) (s : State) : State :=
  if engOf w ≠ 0 then doIssue x z sl w s else
    match pairFault s x z.run w (!pairStands x w) with
    | some (c, a) => seqFault x z z.pc c a 0 s
    | none => goNextIf x z (dissolvePair x w s)

def doDissolveHead (x : UnitCtx) (e : EngInsn) (_ : Slice) (s : State) : State :=
  match insnRun x e with
  | none => s
  | some r =>
    match pairFault s x r e.word (!pairStands x e.word) with
    | some (c, a) => insnFault x e c a 0 s
    | none => dissolvePair x e.word (retire x e.id s)

/-- PAIRCHK_DISSOLVE (R246). -/
def execPairchkDissolve (unit : UnitId) (ph : Phase) (s : State) : Result :=
  match ph with
  | .issue => issueStep isDissolve unit doDissolveSeq s
  | .head eng => headStep isDissolve eng unit true doDissolveHead s

/-! ### Start gates (R263 to R268, R455) -/

def gateAt (s : State) (g : Nat) : Gate := Sparse.get {} s.gates g
def setGate (g : Nat) (x : Gate) (s : State) : State := { s with gates := Sparse.set {} s.gates g x }

/-- A gate as an arrival finds it: a free gate takes the arrival's slice tag (R265); a gate marked under R454 takes the
arrival's generation. -/
def takenGate (a : Arrival) (g : Gate) : Gate :=
  let g := if g.free then { g with free := false, tag := a.tag } else g
  if g.takeNext && g.tag == a.tag then { g with takeNext := false, gen := BitVec.ofNat 16 a.gen } else g

/-- R265: the cause with which an arrival is refused, or the gate as the arrival leaves it. -/
def arriveAt (a : Arrival) (g0 : Gate) : Except Nat Gate :=
  let g := takenGate a g0
  if g.tag ≠ a.tag then .error 0x20A
  else if g.gen.toNat ≠ a.gen then .error 0x20B
  else if 0 < g.count ∧ g.expected ≠ a.expected then .error 0x20C
  else if g.list.contains a.who then .error 0x20D
  else .ok { g with expected := if g.count = 0 then a.expected else g.expected, count := g.count + 1, list := g.list ++ [a.who] }

/-- The outstanding `GATE` of a participant's cluster that a release matches: same home, gate and generation (R267). -/
def matchGate (s : State) (home slice cluster gate gen : Nat) : Option (UnitCtx × EngInsn) :=
  s.units.findSome? (fun x => if x.slice = slice ∧ x.unit = .cluster cluster then
    ((allInsns x).find? (fun e => opOf e.word == 0x83 && e.started && fld 75 64 e.word == home && fld 57 48 e.word == gate &&
      fld 39 24 e.word == gen)).map (fun e => (x, e)) else none)

/-- R267: a release that matches no outstanding `GATE` is counted in telemetry. -/
def countDiscard (s : State) : State := { s with telemetry := { s.telemetry with discardedReleases := s.telemetry.discardedReleases + 1 } }

/-- R267: a release adds 1 to the release tally and completes the `GATE`; one that matches none is counted. -/
def landRelease (home slice cluster gate gen : Nat) (s : State) : State :=
  match matchGate s home slice cluster gate gen with
  | none => countDiscard s
  | some (x, e) => mailboxAdd x.unit x.slice (fld 47 40 e.word) 1 (retire x e.id s)

/-- A `GATE_RELEASE` packet (R266); it receives no response (R322). Its `ADDR` names the participant's cluster: the manual gives the
mailbox no place (log 22). -/
def releasePacket (home tag gate gen node cluster : Nat) : Packet :=
  { blankPacket with
    type := 7, dnode := node, snode := home, stag := tag, len := 16, addr := cluster, payload := Config.releasePayload gate gen }

/-- The slice that a tag names at a node of this block, when its part is that node's (08 "Remote memory", R456). -/
def tagSlice (s : State) (node tag : Nat) : Option Nat :=
  if s.fab.assumed.contains node then
    (if tag / 1024 = s.twin.lead ∧ (findSlice s (1024 + tag % 1024)).isSome then some (1024 + tag % 1024) else none)
  else if tag / 1024 = nodeOf s s.boot.leadId ∧ (findSlice s (tag % 1024)).isSome then some (tag % 1024) else none

/-- R266: send the releases of a met gate, in list order. -/
def sendReleases (home tag gate gen : Nat) : List Participant → State → State
  | [], s => s
  | p :: ps, s =>
    let s1 :=
      if p.node = ownNode s ∨ s.fab.assumed.contains p.node then
        match tagSlice s p.node tag with
        | some sl => landRelease home sl p.cluster gate gen s
        | none => countDiscard s
      else transmit (releasePacket home tag gate gen p.node p.cluster) s
    sendReleases home tag gate gen ps s1

/-- Where a gate's place lies: the gates of an assumed node have places from 1,024 up (R453 step 5). -/
def gatePlace (s : State) (home gate : Nat) : Nat := if s.fab.assumed.contains home then 1024 + gate else gate
def gateHome (s : State) (place : Nat) : Nat := if place < 1024 then ownNode s else s.twin.assumed.getD (ownNode s)

/-- The gate with one more arrival; when its count is met it releases (R266). -/
def placeArrival (gate : Nat) (g : Gate) (s : State) : State :=
  if g.count = g.expected then
    sendReleases (gateHome s gate) g.tag (gate % 1024) g.gen.toNat g.list (setGate gate { g with gen := g.gen + 1, count := 0, list := [] } s)
  else setGate gate g s

/-- The `GATE_ARRIVE` fields of an instruction (R264). -/
def gateArrival (s : State) (x : UnitCtx) (w : InsnWord) : Arrival :=
  let c := match x.unit with | .cluster c => c | .port p => p
  { tag := sliceTag s x.slice, gate := fld 57 48 w, gen := fld 39 24 w, expected := fld 12 0 w
    who := { node := sliceNode s x.slice, cluster := c, slot := contextSlot s x.slice, tally := fld 47 40 w } }

def doGateHead (x : UnitCtx) (e : EngInsn) (sl : Slice) (s : State) : State :=
  if e.started then s
  else if !insnTallyOk s x e (fld 47 40 e.word) then insnFault x e 0x201 (syncAddr s x.unit (fld 47 40 e.word) 0) 0 s
  else
    let a := gateArrival s x e.word
    let s1 := mapInsn x e.id (fun y => { y with started := true }) s
    let home := fld 75 64 e.word
    if a.expected = 0 ∨ 4096 < a.expected then insnFault x e 0x703 0 0 s1
    else if home = ownNode s ∨ s.fab.assumed.contains home then
      match arriveAt a (gateAt s (gatePlace s home a.gate)) with
      | .error c => insnFault x e c 0 0 s1
      | .ok g => placeArrival (gatePlace s home a.gate) g s1
    else
      sendRequest x.slice { blankPacket with
        type := 6, tc := classOf s sl.id e.queue, dnode := home, len := 16
        payload := Config.arrivalPayload a.tag a.gate a.gen a.expected a.who } (.insn x.unit x.slice e.id) .discard s1

/-- GATE: an expected count outside the 1 to 4,096 of R263 is refused at the sender as `MALFORMED`, as R318 has the home do (log 23); otherwise it sends its arrival once every earlier instruction of queue 8 has completed, and stays at the head until its
release (R264 to R266). -/
def execGate (unit : UnitId) (ph : Phase) (s : State) : Result := engineStep 0x83 unit true doGateHead ph s

/-! ### EPCALL (R231, R232, R509) -/

def setEnginePort (p : Nat) (x : EnginePort) (s : State) : State := { s with ports := Sparse.set {} s.ports p x }

/-- The call IDs that are free. -/
def freeCalls (x : EnginePort) : List Nat := (List.range 16).filter (fun i => !x.calls.any (fun c => c.id == i))

def doCallHead (x : UnitCtx) (e : EngInsn) (_ : Slice) (s : State) : State :=
  match x.unit with
  | .cluster _ => s
  | .port p =>
    let ep := enginePort s p
    match freeCalls ep with
    | [] => s
    | ids =>
      let id := ids.getD (Config.freeNat s.free % ids.length) 0
      let c : Call := { id := id, slice := x.slice, insn := e.id, done := false }
      emit (.call p id (BitVec.ofNat 96 e.word.toNat) (x.slice % 1024) (contextSlot s x.slice))
        (mapInsn x e.id (fun y => { y with started := true, issued := true, count := id })
          (setEnginePort p { ep with calls := ep.calls ++ [c] } s))

/-- EPCALL: the payload goes to the licensee's engine with the context's identity (R232). -/
def execEpcall (unit : UnitId) (ph : Phase) (s : State) : Result := engineStep 0x90 unit false doCallHead ph s

end Sys2Proof.Machine
end

