-- ==== Sys2Proof/Machine/Move.lean ====
section
/-! DEFINITION. Instructions that move data: the DMA engine (R162, R163), gather and scatter (R147 to R151, R338), fabric
instructions (R226, R227, R330 to R333), `WALK` and the visited-set filter (R152 to R155), and their completion (R215). -/

namespace Sys2Proof.Machine

/-! ### Jobs: the parts of an instruction, issued in order -/

/-- A range of a memory tile: address, length, the segment its tile is bound to (R277), and the access kind. -/
structure Ref where
  va : Nat
  len : Nat
  seg : Option Nat
  access : Access

/-- What a job does with its ranges once they are translated. -/
inductive JobAct where
  | land (units : List UnitId) (sram : Nat)
  | put (sram : Nat)
  | copy
  | add (sram sub fmt : Nat)
  | atom (sram sub fmt operand compare : Nat)
  | spread (units : List UnitId) (from' to' len : Nat)
  | row (place : Nat)
  | window (packets : List (Packet × OnRead))

/-- One part of an instruction: its row for a fault record (R292), the prefetch tile that it belongs to (R286), its ranges of memory. -/
structure Job where
  row : Nat
  tile : Nat
  refs : List Ref
  act : JobAct

/-- Translate the ranges of a job through an engine's buffer. -/
def xlatRef (s : State) (place : XPlace) (sl : Slice) (r : Ref) : Except Stop (List Piece) :=
  match r.seg with
  | none => if r.len = 0 then .ok [] else .error (.fault 0x101 r.va 0 (bindSegment sl.inForce r.va).isNone)
  | some g => xlatRange s place sl false g r.access r.va r.len

/-- Cut a piece at 256-byte boundaries (R330, R333), or, where it does not lie on whole elements of `w` bytes, into groups of whole
elements from its start (R150, log 79). -/
def cut256 (w : Nat) (p : Piece) : List Piece :=
  let sub := fun (c : Nat × Nat) => { p with va := p.va + (c.1 - p.pa), pa := c.1, len := c.2 }
  if p.pa % w = 0 then (chunks 256 p.len p.pa p.len).map sub
  else (chunks 256 p.len 0 p.len).map (fun c => sub (p.pa + c.1, c.2))

/-- Add the part of a row that one piece holds: the elements that lie wholly in it are added, and the bytes of one that the piece's ends
cut take a free value (R150, log 79). `at'` is the piece's place in the row. -/
def addPiece (slice tc : Nat) (o : Owner) (sub fmt at' : Nat) (p : Piece) (data : List Byte) (s : State) : State :=
  let w := packetElemBytes fmt
  let lead := min p.len ((w - at' % w) % w)
  let body := (p.len - lead) / w * w
  let torn := fun (off n : Nat) (s : State) =>
    if n = 0 then s else writePiece slice tc o (p.pa + off) p.key (leBytes (Config.freeNat s.free) n) { s with free := s.free + 1 }
  let s1 := torn 0 lead s
  let s2 := (cut256 w { p with va := p.va + lead, pa := p.pa + lead, len := body }).foldl (fun s c =>
    reducePiece slice tc o .discard c.pa c.key sub fmt ((data.drop (c.pa - p.pa)).take c.len) s) s1
  torn (lead + body) (p.len - lead - body) s2

/-- The requests of a job whose ranges have been translated. -/
def jobRequests (x : UnitCtx) (e : EngInsn) (tc : Nat) (j : Job) (pss : List (List Piece)) (s : State) : State :=
  let o : Owner := .insn x.unit x.slice e.id
  let ps := pss.headD []
  match j.act with
  | .land units sram =>
    (ps.foldl (fun (a : State × Nat) p => (readPiece x.slice tc o (.landSram units x.slice (sram + a.2)) p a.1, a.2 + p.len)) (s, 0)).1
  | .put sram => writePieces x.slice tc o ps (sramRead s x.slice x.unit sram ((ps.map Piece.len).sum)) s
  | .copy =>
    let qs := pss.getD 1 []
    (zipPieces (ps.length + qs.length) ps qs).foldl (fun s z => readPiece x.slice tc o (.writeOn z.2.1 z.2.2.1 x.slice z.2.2.2) z.1 s) s
  | .add sram sub fmt =>
    (ps.foldl (fun (a : State × Nat) p =>
      (addPiece x.slice tc o sub fmt a.2 p (sramRead s x.slice x.unit (sram + a.2) p.len) a.1, a.2 + p.len)) (s, 0)).1
  | .atom sram sub fmt operand compare =>
    ps.foldl (fun s p => atomPiece x.slice tc o (.landSram [x.unit] x.slice sram) p.pa p.key p.len sub fmt operand compare s) s
  | .spread units from' to' len =>
    let bs := sramRead s x.slice x.unit from' len
    units.foldl (fun s u => sramWrite x.slice u to' bs s) s
  | .row place =>
    (ps.foldl (fun (a : State × Nat) p => (readPiece x.slice tc o (.walkRow x.unit x.slice e.id (place + a.2)) p a.1, a.2 + p.len)) (s, 0)).1
  | .window packets => sendRequests x.slice o packets s

/-- Do a job whose ranges have been translated. -/
def doJob (x : UnitCtx) (e : EngInsn) (tc : Nat) (j : Job) (pss : List (List Piece)) (s : State) : State :=
  nameVa (sentCount s) pss.flatten j.row (jobRequests x e tc j pss s)

/-- The record of an instruction's fault, to be raised when its requests are answered (R149, R324). -/
def insnRecord (s : State) (x : UnitCtx) (e : EngInsn) (cause addr detail : Nat) : FaultRecord :=
  { cause := cause, slice := x.slice, queue := e.queue, context := contextSlot s x.slice, engine := engineId s x.unit e.eng,
    addr := addr, pc := e.pc, desc := runDesc x e.run % 2 ^ 44, tag := descTag s x.slice e.queue (runDesc x e.run), detail := detail }

/-- Raise an instruction's fault once nothing it sent is outstanding. -/
def settleInsn (u : UnitId) (slice id : Nat) (s : State) : State :=
  match findUnit s u slice with
  | none => s
  | some x =>
    match x.insns.find? (fun e => e.id == id) with
    | none => s
    | some e =>
      match e.fault with
      | none => s
      | some r => if outstanding s (.insn u slice id) then s else stopQueue slice e.queue stExecFault r s

/-- Hold a fault of an instruction, unless it holds one already, and raise it when it can be. -/
def holdFault (x : UnitCtx) (id : Nat) (r : FaultRecord) (s : State) : State :=
  settleInsn x.unit x.slice id (mapInsn x id (fun e => { e with fault := some (e.fault.getD r) }) s)

/-- A job does not translate: a miss starts a walk (R283); a fault is held. -/
def stopJob (x : UnitCtx) (e : EngInsn) (sl : Slice) (j : Job) (k : Access) (st : Stop) (s : State) : State :=
  let place : XPlace := .buffer x.unit e.eng
  let eng := engineId s x.unit e.eng
  let d := runDesc x e.run
  match st with
  | .miss seg page va =>
    let r := xlatRecord s x.slice sl.gen e.queue d e.pc eng k va seg false j.row
    startWalk sl place k.code seg page [{ unit := x.unit, eng := e.eng, id := e.id, access := k.code, va := va, row := j.row, record := r }] s
  | .fault c va seg noseg =>
    holdFault x e.id { xlatRecord s x.slice sl.gen e.queue d e.pc eng k va seg noseg j.row with cause := c } s
  | .unreadable pa => holdFault x e.id (insnRecord s x e 0x502 pa 0) s

/-- R286: while the tile of job `j` moves, the pages of the next four tiles are translated. -/
def lookAhead (x : UnitCtx) (e : EngInsn) (sl : Slice) (j : Job) (rest : List Job) (s : State) : State :=
  (rest.filter (fun i => decide (j.tile < i.tile) && decide (i.tile ≤ j.tile + 4))).foldl (fun s i =>
    i.refs.foldl (fun s r => match r.seg with | some g => prefetch sl (.buffer x.unit e.eng) r.access g [(r.va, r.len)] s | none => s) s) s

/-- The first range of a job that does not translate, with its access kind; or every range's pieces. -/
def xlatJob (s : State) (place : XPlace) (sl : Slice) : List Ref → Except (Stop × Access) (List (List Piece))
  | [] => .ok []
  | r :: rs =>
    match xlatRef s place sl r with
    | .error st => .error (st, r.access)
    | .ok ps =>
      match xlatJob s place sl rs with
      | .error e => .error e
      | .ok pss => .ok (ps :: pss)

/-- The requests that pieces take, in memory or on the fabric. -/
def requestsOf (s : State) (ps : List Piece) : Nat :=
  (ps.map (fun p => (chunks (if paNode p.pa = ownNode s then 512 else 256) p.len p.pa p.len).length)).sum

/-- The requests of an owner that are not answered. -/
def inFlight (s : State) (o : Owner) : Nat :=
  (s.mp.out.filter (fun r => decide (r.owner = o))).length + (s.mp.queue.filter (fun r => decide (r.owner = o))).length +
  (s.fab.txns.filter (fun t => decide (t.owner = o))).length

/-- The requests an engine holds outstanding: 512 rows of the GSU, 128 of the DMA engine (R148, R162). -/
def engineRoom (eng : Nat) : Nat := if eng = 5 then 512 else 128

/-- An engine takes no further job now: with the job's requests it would hold more than it can. -/
def engineFull (s : State) (x : UnitCtx) (e : EngInsn) (pss : List (List Piece)) : Bool :=
  let n := inFlight s (.insn x.unit x.slice e.id)
  decide (0 < n) && decide (engineRoom e.eng < n + max 1 ((pss.map (requestsOf s)).sum))

/-- The translations that a job used stand in the engine's buffer, and its writes are logged (R282, R307). -/
def useRefs (x : UnitCtx) (e : EngInsn) (sl : Slice) (j : Job) (s : State) : State :=
  j.refs.foldl (fun s r => match r.seg with
    | some g => logSegment (.insn x.unit x.slice e.id) sl r.access g r.va r.len (cachePages (.buffer x.unit e.eng) sl r.va r.len s)
    | none => s) s

/-- Issue jobs in order until one does not translate or the engine is full; after the last, `last`. `tile` is the prefetch tile that
moves. -/
def runJobs (x : UnitCtx) (e : EngInsn) (sl : Slice) (tc : Nat) (last : State → State) : Option Nat → List Job → State → State
  | _, [], s => last s
  | tile, j :: js, s0 =>
    let s := if tile = some j.tile then s0 else lookAhead x e sl j js s0
    match xlatJob s (.buffer x.unit e.eng) sl j.refs with
    | .error (st, k) => stopJob x e sl j k st s
    | .ok pss =>
      if engineFull s x e pss then s
      else runJobs x e sl tc last (some j.tile) js
        (doJob x e tc j pss (mapInsn x e.id (fun y => { y with moved := y.moved + 1 }) (useRefs x e sl j s)))

/-- The instruction is issued whole. -/
def issuedWhole (x : UnitCtx) (e : EngInsn) (s : State) : State := mapInsn x e.id (fun y => { y with issued := true }) s

/-- Start an instruction and issue the jobs that it has not issued yet. -/
def goJobs (x : UnitCtx) (e : EngInsn) (sl : Slice) (jobs : List Job) (s : State) : State :=
  if e.issued then s
  else runJobs x e sl (classOf s x.slice e.queue) (issuedWhole x e) none (jobs.drop e.moved) (mapInsn x e.id (fun y => { y with started := true }) s)

/-- An instruction with nothing to move is issued whole at once (R209). -/
def nothing (x : UnitCtx) (e : EngInsn) (s : State) : State := mapInsn x e.id (fun y => { y with started := true, issued := true }) s

/-! ### The DMA engine (R162, R163, R585) -/

def dT (e : EngInsn) : TileReg := e.tD.headD 0
def s1T (e : EngInsn) : TileReg := e.tS1.headD 0
def s2T (e : EngInsn) : TileReg := e.tS2.headD 0

/-- The tiles of an instruction in the order of R577. -/
def opTiles (e : EngInsn) : List TileReg :=
  if opOf e.word = 0x30 ∨ opOf e.word = 0x31 then [dT e, s1T e, s2T e]
  else if opOf e.word = 0x32 then [dT e, s1T e, s2T e, e.tS3]
  else [dT e, s1T e]

/-- R577: the address register that applies to the instruction's `i`-th tile: `AR` to the first whose `SPACE` is 1, `AR2` to the next;
0 to any other. -/
def addrReg (e : EngInsn) (i : Nat) : Word64 :=
  if !tMem ((opTiles e).getD i 0) then 0 else
    match (((opTiles e).take i).filter tMem).length with
    | 0 => e.ar
    | 1 => e.ar2
    | _ => 0

/-- The first byte of t`D`, t`S1` and t`S3` as memory tiles. -/
def dAddr (e : EngInsn) : Nat := memBase (dT e) (addrReg e 0)
def s1Addr (e : EngInsn) : Nat := memBase (s1T e) (addrReg e 1)
def s3Addr (e : EngInsn) : Nat := memBase e.tS3 (addrReg e 3)

/-- The byte offsets of a tile's items in the shape of the first source tile (R585). -/
def walkOf (shape t : TileReg) : List Nat := itemOffsets (tLen1 shape) (tLen2 shape) t

/-- Every SRAM item of a walk lies in the partition (R133). -/
def sramOk (s : State) (x : UnitCtx) (u : UnitId) (base : Nat) (offs : List Nat) (len : Nat) : Bool :=
  offs.all (fun o => sramFits s x.slice u (base + o) len)

/-- R137 and R138: an instruction that starts reads ranges of SRAM, and `k` goes on. Words with one bad symbol are corrected and
counted; one with two delivers no data, and the instruction faults with `SRAM_UNCORRECTABLE`. -/
def readSram (x : UnitCtx) (e : EngInsn) (rs : List (Nat × Nat)) (k : State → State) (s : State) : State :=
  let bad := if e.started then [] else badWords s x.slice x.unit rs
  if bad.contains 2 then insnFault x e 0x501 0 0 s else k (countFixes x.slice bad s)

/-- The SRAM ranges of a walk's items. -/
def walkRanges (base : Nat) (offs : List Nat) (len : Nat) : List (Nat × Nat) := offs.map (fun o => (base + o, len))

/-- The items of a walk, cut where the memory address `base` plus the first offset is a multiple of 512 (R162): the item's number, the
memory address, the second offset and the length. -/
def cutItems (base len : Nat) (offs : List (Nat × Nat)) : List (Nat × Nat × Nat × Nat) :=
  (((List.range offs.length).zip offs).map (fun o =>
    (chunks 512 len (base + o.2.1) len).map (fun c => (o.1, c.1, o.2.2 + (c.1 - (base + o.2.1)), c.2)))).flatten

/-- `DMA.LD`, `GET`, and `DMA.BCAST` from memory: SRAM of units from memory. -/
def loadJobs (sl : Slice) (units : List UnitId) (e : EngInsn) : List Job :=
  let a := s1Addr e
  let seg := bindSegment sl.inForce a
  (cutItems a (tLen0 (s1T e)) (List.zip (walkOf (s1T e) (s1T e)) (walkOf (s1T e) (dT e)))).map (fun o =>
    { row := noRow, tile := o.1, refs := [{ va := o.2.1, len := o.2.2.2, seg := seg, access := .read }]
      act := .land units (sramBase (dT e) + o.2.2.1) })

/-- `DMA.ST` and `PUT`: memory from SRAM. -/
def storeJobs (sl : Slice) (e : EngInsn) : List Job :=
  let a := dAddr e
  let seg := bindSegment sl.inForce a
  (cutItems a (tLen0 (s1T e)) (List.zip (walkOf (s1T e) (dT e)) (walkOf (s1T e) (s1T e)))).map (fun o =>
    { row := noRow, tile := o.1, refs := [{ va := o.2.1, len := o.2.2.2, seg := seg, access := .write }]
      act := .put (sramBase (s1T e) + o.2.2.1) })

def doDmaLd (x : UnitCtx) (e : EngInsn) (sl : Slice) (s : State) : State :=
  if tEmpty (s1T e) then nothing x e s
  else if !sramOk s x x.unit (sramBase (dT e)) (walkOf (s1T e) (dT e)) (tLen0 (s1T e)) then insnFault x e 0x307 0 0 s
  else goJobs x e sl (loadJobs sl [x.unit] e) s

/-- DMA_LD: from memory to SRAM. -/
def execDmaLd (unit : UnitId) (ph : Phase) (s : State) : Result := engineStep 0x20 unit true doDmaLd ph s

def doDmaSt (x : UnitCtx) (e : EngInsn) (sl : Slice) (s : State) : State :=
  if tEmpty (s1T e) then nothing x e s
  else if !sramOk s x x.unit (sramBase (s1T e)) (walkOf (s1T e) (s1T e)) (tLen0 (s1T e)) then insnFault x e 0x307 0 0 s
  else readSram x e (walkRanges (sramBase (s1T e)) (walkOf (s1T e) (s1T e)) (tLen0 (s1T e))) (goJobs x e sl (storeJobs sl e)) s

/-- DMA_ST: from SRAM to memory. -/
def execDmaSt (unit : UnitId) (ph : Phase) (s : State) : Result := engineStep 0x21 unit true doDmaSt ph s

/-- `DMA.COPY`: `AR` applies to t`D`, `AR2` to t`S1` (R577). -/
def copyJobs (sl : Slice) (e : EngInsn) : List Job :=
  let d := dAddr e
  let a := s1Addr e
  let dseg := bindSegment sl.inForce d
  let aseg := bindSegment sl.inForce a
  (cutItems a (tLen0 (s1T e)) (List.zip (walkOf (s1T e) (s1T e)) (walkOf (s1T e) (dT e)))).map (fun o =>
    { row := noRow, tile := o.1
      refs := [{ va := o.2.1, len := o.2.2.2, seg := aseg, access := .read },
        { va := d + o.2.2.1, len := o.2.2.2, seg := dseg, access := .write }]
      act := .copy })

def doDmaCopy (x : UnitCtx) (e : EngInsn) (sl : Slice) (s : State) : State :=
  if tEmpty (s1T e) then nothing x e s else goJobs x e sl (copyJobs sl e) s

/-- DMA_COPY: from memory to memory. -/
def execDmaCopy (unit : UnitId) (ph : Phase) (s : State) : Result := engineStep 0x22 unit true doDmaCopy ph s

/-- The clusters that a mask names. -/
def maskUnits (mask : Nat) : List UnitId := ((List.range 32).filter (fun c => mask.testBit c)).map UnitId.cluster

/-- A context holds a cluster in the current chair (R163): it has its place there, exclusively or by slots of every chair (R102), and the
cluster is not retired. -/
def holdsCluster (s : State) (slice : Nat) (u : UnitId) : Bool :=
  (findUnit s u slice).isSome && (partition s slice u).isSome && !talliesOut s slice u &&
  (match u with | .cluster c => !s.recovery.retiredClusters.getLsbD c | .port _ => false)

def doDmaBcast (x : UnitCtx) (e : EngInsn) (sl : Slice) (s : State) : State :=
  let units := maskUnits (fld 31 0 e.word)
  let offs := walkOf (s1T e) (s1T e)
  let doffs := walkOf (s1T e) (dT e)
  let n := tLen0 (s1T e)
  if tEmpty (s1T e) then nothing x e s
  else if !e.started && !units.all (holdsCluster s x.slice) then insnFault x e 0x309 0 0 s
  else if !e.started && !units.all (fun u => sramOk s x u (sramBase (dT e)) doffs n) then insnFault x e 0x307 0 0 s
  else if tMem (s1T e) then goJobs x e sl (loadJobs sl units e) s
  else if !sramOk s x x.unit (sramBase (s1T e)) offs n then insnFault x e 0x307 0 0 s
  else readSram x e (walkRanges (sramBase (s1T e)) offs n) (goJobs x e sl (((List.range offs.length).zip (List.zip offs doffs)).map (fun o =>
      { row := noRow, tile := o.1, refs := [], act := .spread units (sramBase (s1T e) + o.2.1) (sramBase (dT e) + o.2.2) n }))) s

/-- DMA_BCAST: from memory or SRAM to the SRAM of every named cluster (R162, R163). -/
def execDmaBcast (unit : UnitId) (ph : Phase) (s : State) : Result := engineStep 0x23 unit true doDmaBcast ph s

/-! ### Gather and scatter (R147 to R151, R338) -/

/-- The unsigned indices of a list tile (R147). -/
def indexList (s : State) (x : UnitCtx) (t : TileReg) : List Nat :=
  (List.range (tLen1 t)).map (fun j => leNat (sramRead s x.slice x.unit (sramBase t + j * tPitch1 t) (if tIdx64 t then 8 else 4)))

/-- The SRAM ranges of a list tile's indices. -/
def indexRanges (t : TileReg) : List (Nat × Nat) :=
  (List.range (tLen1 t)).map (fun j => (sramBase t + j * tPitch1 t, if tIdx64 t then 8 else 4))

def indexOk (s : State) (x : UnitCtx) (t : TileReg) : Bool :=
  (List.range (tLen1 t)).all (fun j => sramFits s x.slice x.unit (sramBase t + j * tPitch1 t) (if tIdx64 t then 8 else 4))

/-- R147: a row of 32 to 4,096 bytes in multiples of 32, and a pitch that is a multiple of 32 and at least the row. A
zero extent is no breach (R586). -/
def rowSizeOk (row pitch : Nat) : Bool :=
  (row == 0 || (decide (32 ≤ row) && decide (row ≤ 4096) && row % 32 == 0)) && pitch % 32 == 0 && decide (row ≤ pitch)

/-- The address of row `i` of a table whose first row lies at `base`: within 56 bits (log 79). -/
def rowVa (base i pitch : Nat) : Nat := (base + i * pitch) % 2 ^ 56

/-- R338: rows of a departing gather whose destinations are contiguous, and that fit in a flit with others, are packed. -/
def packedRows (e : EngInsn) : Bool := subOf e.word == 1 && decide (tLen0 (s1T e) < 256) && tPitch1 (dT e) == tLen0 (s1T e)

def gatherJobs (sl : Slice) (x : UnitCtx) (e : EngInsn) (idx : List Nat) : List Job :=
  let row := tLen0 (s1T e)
  let a := s1Addr e
  let d := dAddr e
  let seg := bindSegment sl.inForce a
  let dseg := bindSegment sl.inForce d
  ((List.range idx.length).zip idx).map (fun ji =>
    let src : Ref := { va := rowVa a ji.2 (tPitch1 (s1T e)), len := row, seg := seg, access := .read }
    let dst : Ref := { va := rowVa d ji.1 (tPitch1 (dT e)), len := row, seg := dseg, access := .write }
    if packedRows e then { row := ji.1, tile := ji.1 / 64, refs := [src], act := .row (ji.1 * row) }
    else if subOf e.word = 1 then { row := ji.1, tile := ji.1 / 64, refs := [src, dst], act := .copy }
    else { row := ji.1, tile := ji.1 / 64, refs := [src], act := .land [x.unit] (sramBase (dT e) + ji.1 * tPitch1 (dT e)) })

/-- The flits of a packed departing gather: memory address and length (R338). -/
def flitsOf (e : EngInsn) : List (Nat × Nat) :=
  let n := tLen1 (s2T e) * tLen0 (s1T e)
  chunks 256 n (dAddr e) n

/-- Send the flits whose rows have all come, in order; after the last the instruction is issued whole. -/
def sendFlits (x : UnitCtx) (e : EngInsn) (sl : Slice) (tc : Nat) : List (Nat × Nat) → State → State
  | [], s => issuedWhole x e s
  | f :: fs, s =>
    let place := f.1 - dAddr e
    let bs := (List.range f.2).filterMap (fun i => Sparse.get? e.rowBuf (place + i))
    let j : Job := { row := place / tLen0 (s1T e), tile := 0, refs := [{ va := f.1, len := f.2, seg := bindSegment sl.inForce (dAddr e), access := .write }]
                     act := .row place }
    if bs.length < f.2 then s else
      match xlatJob s (.buffer x.unit e.eng) sl j.refs with
      | .error (st, k) => stopJob x e sl j k st s
      | .ok pss =>
        let s1 := mapInsn x e.id (fun y => { y with written := y.written + 1, rowBuf := Sparse.delRange y.rowBuf place f.2 }) (useRefs x e sl j s)
        sendFlits x e sl tc fs (nameVa (sentCount s1) pss.flatten j.row
          (writePieces x.slice tc (.insn x.unit x.slice e.id) (pss.headD []) bs s1))

/-- A packed departing gather: the flits that are whole go, and further rows are asked for. -/
def goPacked (x : UnitCtx) (e : EngInsn) (sl : Slice) (jobs : List Job) (s : State) : State :=
  let tc := classOf s x.slice e.queue
  if e.issued then s
  else runJobs x e sl tc (fun s => sendFlits x e sl tc ((flitsOf e).drop e.written) s) none (jobs.drop e.moved)
    (mapInsn x e.id (fun y => { y with started := true }) s)

def doGather (x : UnitCtx) (e : EngInsn) (sl : Slice) (s : State) : State :=
  let row := tLen0 (s1T e)
  if !rowSizeOk row (tPitch1 (dT e)) then insnFault x e 0x30C 0 0 s
  else if tEmpty (s1T e) || tEmpty (s2T e) then nothing x e s
  else if !indexOk s x (s2T e) || (subOf e.word == 0 && !sramOk s x x.unit (sramBase (dT e))
      ((List.range (tLen1 (s2T e))).map (fun j => j * tPitch1 (dT e))) row) then insnFault x e 0x307 0 0 s
  else readSram x e (indexRanges (s2T e))
    ((if packedRows e then goPacked else goJobs) x e sl (gatherJobs sl x e (indexList s x (s2T e)))) s

/-- GATHER: rows of a table, into SRAM or departing as writes (R147, R149, R338). -/
def execGather (unit : UnitId) (ph : Phase) (s : State) : Result := engineStep 0x30 unit true doGather ph s

/-- The operation of a `SCATTER` with `ADD`, by tile format (R150): `SUB` and `FMT` of the reduction. -/
def scatterAdd (fmt : Nat) : Option (Nat × Nat) :=
  match fmt with
  | 0x08 => some (1, 4)
  | 0x0A => some (5, 0)
  | 0x0B => some (5, 1)
  | 0x09 => some (0, 6)
  | _ => none

def scatterJobs (sl : Slice) (e : EngInsn) (idx : List Nat) : List Job :=
  let row := tLen0 (dT e)
  let a := dAddr e
  let seg := bindSegment sl.inForce a
  let add := if flgOf e.word 0 then scatterAdd (tFmt (dT e)) else none
  ((List.range idx.length).zip idx).map (fun ji =>
    let sram := sramBase (s1T e) + ji.1 * tPitch1 (s1T e)
    let va := rowVa a ji.2 (tPitch1 (dT e))
    match add with
    | some (sub, fmt) => { row := ji.1, tile := ji.1 / 64, refs := [{ va := va, len := row, seg := seg, access := .atomic }], act := .add sram sub fmt }
    | none => { row := ji.1, tile := ji.1 / 64, refs := [{ va := va, len := row, seg := seg, access := .write }], act := .put sram })

/-- A `SCATTER` moves nothing: its rows, its row size or its list is empty (R209). -/
def scatterEmpty (e : EngInsn) : Bool := tLen0 (dT e) == 0 || tLen1 (s1T e) == 0 || tLen2 (s1T e) == 0 || tEmpty (s2T e)

def doScatter (x : UnitCtx) (e : EngInsn) (sl : Slice) (s : State) : State :=
  let row := tLen0 (dT e)
  if flgOf e.word 0 && (scatterAdd (tFmt (dT e))).isNone then insnFault x e 0x30B 0 0 s
  else if !rowSizeOk row (tPitch1 (s1T e)) then insnFault x e 0x30C 0 0 s
  else if scatterEmpty e then nothing x e s
  else if !indexOk s x (s2T e) || !sramOk s x x.unit (sramBase (s1T e))
      ((List.range (tLen1 (s2T e))).map (fun j => j * tPitch1 (s1T e))) row then insnFault x e 0x307 0 0 s
  else readSram x e (indexRanges (s2T e) ++
      walkRanges (sramBase (s1T e)) ((List.range (tLen1 (s2T e))).map (fun j => j * tPitch1 (s1T e))) row)
    (goJobs x e sl (scatterJobs sl e (indexList s x (s2T e)))) s

/-- SCATTER: SRAM rows to a table, written or added (R150). -/
def execScatter (unit : UnitId) (ph : Phase) (s : State) : Result := engineStep 0x31 unit true doScatter ph s

/-! ### WALK (R152 to R155) -/

def filterBit1 (v : Nat) : Nat := (v * 0x8F3B2C65) % 2 ^ 32 / 2 ^ 16
def filterBit2 (v : Nat) : Nat := (v * 0xC2B5A6D3) % 2 ^ 32 / 2 ^ 16
/-- R152: an ID counts as visited when both of its bits are set. -/
def visitedId (f : List (Nat × Bool)) (v : Nat) : Bool := Sparse.get false f (filterBit1 v) && Sparse.get false f (filterBit2 v)
def insertId (f : List (Nat × Bool)) (v : Nat) : List (Nat × Bool) :=
  Sparse.set false (Sparse.set false f (filterBit1 v) true) (filterBit2 v) true

/-- Probe and insert the neighbours of one row in order, up to the room left in the output list (R154). `WALK` stops at
the neighbour with which the list reaches its capacity (R155). Answers the IDs to append, the filter, and whether the
capacity was reached. -/
def probeRow : Nat → List Nat → List (Nat × Bool) → List Nat × List (Nat × Bool) × Bool
  | _, [], f => ([], f, false)
  | 0, v :: vs, f => if v = 0xFFFFFFFF || visitedId f v then probeRow 0 vs f else ([], f, true)
  | 1, v :: vs, f => if v = 0xFFFFFFFF || visitedId f v then probeRow 1 vs f else ([v], insertId f v, true)
  | room + 2, v :: vs, f =>
    if v = 0xFFFFFFFF || visitedId f v then probeRow (room + 2) vs f
    else
      let r := probeRow (room + 1) vs (insertId f v)
      (v :: r.1, r.2)

/-- The status word of `WALK` and the list instructions (R213). -/
def listStatus (count : Nat) (ovf : Bool) : Nat := count % 2 ^ 32 + (if ovf then 2 ^ 32 else 0)

/-- Write an instruction's status word, when it carries a slot (R213). -/
def writeStatus (x : UnitCtx) (e : EngInsn) (v : Nat) (s : State) : State :=
  if statOf e.word = 0 then s else
    match insnRun x e with
    | some r => sramWrite x.slice x.unit (statusAddr r.statusBase (statOf e.word)) (leBytes v 8) s
    | none => s

/-- A status word's place lies in the partition (R133). -/
def statusOk (s : State) (x : UnitCtx) (e : EngInsn) : Bool :=
  statOf e.word == 0 ||
    (match insnRun x e with
     | some r => sramFits s x.slice x.unit (statusAddr r.statusBase (statOf e.word)) 8
     | none => true)

/-- The vector row of a node ID (`VEC`). -/
def vectorRef (sl : Slice) (e : EngInsn) (id : Nat) : Ref :=
  { va := rowVa (s3Addr e) id (tPitch1 e.tS3), len := tLen0 e.tS3, seg := bindSegment sl.inForce (s3Addr e), access := .read }

/-- The vector rows of newly appended IDs (`VEC`): entry k of the output lands at row k of t`V`. -/
def vectorJobs (sl : Slice) (x : UnitCtx) (e : EngInsn) (node first : Nat) (ids : List Nat) : List Job :=
  ((List.range ids.length).zip ids).map (fun k =>
    { row := node, tile := node / 64, refs := [vectorRef sl e k.2], act := .land [x.unit] (sramBase e.tV + (first + k.1) * tPitch1 e.tV) })

/-- Append IDs to the output list (R154). -/
def appendIds (x : UnitCtx) (e : EngInsn) (first : Nat) (ids : List Nat) (s : State) : State :=
  ((List.range ids.length).zip ids).foldl (fun s k =>
    sramWrite x.slice x.unit (sramBase (dT e) + (first + k.1) * tPitch1 (dT e)) (leBytes k.2 4) s) s

/-- The neighbour row of a frontier node. -/
def nodeJob (s : State) (sl : Slice) (x : UnitCtx) (e : EngInsn) (node : Nat) : Job :=
  let id := leNat (sramRead s x.slice x.unit (sramBase (s2T e) + node * tPitch1 (s2T e)) 4)
  { row := node, tile := node / 64, act := .row 0
    refs := [{ va := rowVa (s1Addr e) id (tPitch1 (s1T e)), len := tLen0 (s1T e), seg := bindSegment sl.inForce (s1Addr e), access := .read }] }

/-- R286: when the first node of a prefetch tile comes up, the neighbour rows of the next four tiles are translated ahead. -/
def walkAhead (x : UnitCtx) (e : EngInsn) (sl : Slice) (s : State) : State :=
  if e.moved % 64 = 0 then
    lookAhead x e sl (nodeJob s sl x e e.moved) ((List.range (min 256 (tLen1 (s2T e) - e.moved - 64))).map (fun i => nodeJob s sl x e (e.moved + 64 + i))) s
  else s

/-- R286: the vector rows that a landed neighbour row names are translated ahead. -/
def vectorsAhead (x : UnitCtx) (e : EngInsn) (sl : Slice) (ids : List Nat) (s : State) : State :=
  (ids.filter (fun v => v != 0xFFFFFFFF)).foldl (fun s v =>
    match (vectorRef sl e v).seg with
    | some g => prefetch sl (.buffer x.unit e.eng) .read g [((vectorRef sl e v).va, (vectorRef sl e v).len)] s
    | none => s) s

/-- The vector rows still to be read, from the entries appended for the node last processed: `moved` counts nodes,
`count` entries appended, `written` entries whose vector row has been asked for. -/
def pendingVectors (s : State) (x : UnitCtx) (e : EngInsn) : List Nat :=
  (List.range (e.count - e.written)).map (fun i =>
    leNat (sramRead s x.slice x.unit (sramBase (dT e) + (e.written + i) * tPitch1 (dT e)) 4))

/-- The SRAM words from which they are read (R137). -/
def pendingRanges (e : EngInsn) : List (Nat × Nat) :=
  (List.range (e.count - e.written)).map (fun i => (sramBase (dT e) + (e.written + i) * tPitch1 (dT e), 4))

/-- Ask for vector rows in order until one does not translate or the engine is full. -/
def runVectors (x : UnitCtx) (e : EngInsn) (sl : Slice) (tc : Nat) : List Job → State → State
  | [], s => s
  | j :: js, s =>
    match xlatJob s (.buffer x.unit e.eng) sl j.refs with
    | .error (st, k) => stopJob x e sl j k st s
    | .ok pss =>
      if engineFull s x e pss then s
      else runVectors x e sl tc js (doJob x e tc j pss (mapInsn x e.id (fun y => { y with written := y.written + 1 }) (useRefs x e sl j s)))

/-- One step of `WALK`: ask for the next node's row, or process the row that has landed (R154). -/
def walkStep (x : UnitCtx) (e : EngInsn) (sl : Slice) (s : State) : State :=
  let tc := classOf s x.slice e.queue
  let vec := flgOf e.word 0
  if vec && e.written < e.count then
    let bad := badWords s x.slice x.unit (pendingRanges e)
    if bad.contains 2 then insnFault x e 0x501 0 0 s
    else runVectors x e sl tc (vectorJobs sl x e (e.moved - 1) e.written (pendingVectors s x e)) (countFixes x.slice bad s)
  else if e.moved = tLen1 (s2T e) || e.overflow then
    if outstanding s (.insn x.unit x.slice e.id) then s
    else writeStatus x e (listStatus e.count e.overflow) (mapInsn x e.id (fun y => { y with issued := true }) s)
  else if tLen0 (s1T e) ≤ e.rowBuf.length then
    let ids := elemsOf 4 (e.rowBuf.map Prod.snd)
    let r := probeRow (tLen1 (dT e) - e.count) ids x.visited
    let s1 := appendIds x e e.count r.1 (mapUnit x.unit x.slice (fun y => { y with visited := r.2.1 }) s)
    mapInsn x e.id (fun y => { y with
      moved := y.moved + 1, count := y.count + r.1.length, overflow := r.2.2, rowBuf := []
      written := if vec then y.written else y.count + r.1.length }) (if vec then vectorsAhead x e sl ids s1 else s1)
  else if outstanding s (.insn x.unit x.slice e.id) then s
  else
    let j := nodeJob s sl x e e.moved
    let s1 := walkAhead x e sl s
    match xlatJob s1 (.buffer x.unit e.eng) sl j.refs with
    | .error (st, k) => stopJob x e sl j k st s1
    | .ok pss => doJob x e tc j pss (useRefs x e sl j s1)

def doWalk (x : UnitCtx) (e : EngInsn) (sl : Slice) (s : State) : State :=
  if e.issued then s
  else if !statusOk s x e then insnFault x e 0x307 0 0 s
  else if subOf e.word = 1 then
    writeStatus x e 0 (nothing x e (mapUnit x.unit x.slice (fun y => { y with visited := [] }) s))
  else if tEmpty (s1T e) || tEmpty (s2T e) || (flgOf e.word 0 && tEmpty e.tS3) then writeStatus x e 0 (nothing x e s)
  else if !sramOk s x x.unit (sramBase (s2T e)) ((List.range (tLen1 (s2T e))).map (fun j => j * tPitch1 (s2T e))) 4 ||
      !sramOk s x x.unit (sramBase (dT e)) ((List.range (tLen1 (dT e))).map (fun j => j * tPitch1 (dT e))) 4 ||
      (flgOf e.word 0 && !sramOk s x x.unit (sramBase e.tV) ((List.range (tLen1 (dT e))).map (fun j => j * tPitch1 e.tV)) (tLen0 e.tS3)) then
    insnFault x e 0x307 0 0 s
  else readSram x e (walkRanges (sramBase (s2T e)) ((List.range (tLen1 (s2T e))).map (fun j => j * tPitch1 (s2T e))) 4)
    (fun s => walkStep x { e with started := true } sl (mapInsn x e.id (fun y => { y with started := true }) s)) s

/-- WALK: expands a frontier through the visited-set filter, or clears the filter (R152 to R155). -/
def execWalk (unit : UnitId) (ph : Phase) (s : State) : Result := engineStep 0x32 unit true doWalk ph s

/-! ### Fabric instructions (R226, R227, R309, R330 to R333) -/

def winId (e : EngInsn) : Nat := if opOf e.word = 0x72 then fld 61 52 e.word else fld 63 54 e.word
def isWin (e : EngInsn) : Bool := if opOf e.word = 0x72 then flgOf e.word 2 else flgOf e.word 0

/-- The 64-bit address of a windowed access: node in [63:52], offset below (08 "Remote memory"). -/
def winBase (t : TileReg) (a : Word64) : Nat := (tBase t + a.toNat % 2 ^ 56) % 2 ^ 64

/-- A window access as it leaves: TC2, no translation here (R227, R309). -/
def winPacket (e : EngInsn) (type addr len : Nat) (data : List Byte) : Packet :=
  { blankPacket with
    tc := 2, type := type, winv := true, win := winId e, dnode := paNode addr, addr := addr, len := len, payload := data }

/-- Windowed writes and reads, item by item, cut at 256-byte boundaries (R330). -/
def winJobs (s : State) (x : UnitCtx) (e : EngInsn) (store : Bool) : List Job :=
  let t := if store then dT e else s1T e
  let a := winBase t (addrReg e (if store then 0 else 1))
  let n := tLen0 (s1T e)
  let sram := sramBase (if store then s1T e else dT e)
  ((List.zip (walkOf (s1T e) t) (walkOf (s1T e) (if store then s1T e else dT e))).map (fun o =>
    (chunks 256 n (a + o.1) n).map (fun c =>
      let at' := sram + o.2 + (c.1 - (a + o.1))
      { row := noRow, tile := 0, refs := []
        act := .window [if store then (winPacket e 2 c.1 c.2 (sramRead s x.slice x.unit at' c.2), .discard)
          else (winPacket e 1 c.1 c.2 [], .landSram [x.unit] x.slice at')] }))).flatten

def doPut (x : UnitCtx) (e : EngInsn) (sl : Slice) (s : State) : State :=
  if e.issued then s
  else if tEmpty (s1T e) then nothing x e s
  else if !sramOk s x x.unit (sramBase (s1T e)) (walkOf (s1T e) (s1T e)) (tLen0 (s1T e)) then insnFault x e 0x307 0 0 s
  else readSram x e (walkRanges (sramBase (s1T e)) (walkOf (s1T e) (s1T e)) (tLen0 (s1T e)))
    (fun s => goJobs x e sl (if isWin e then winJobs s x e true else storeJobs sl e) s) s

/-- PUT: SRAM to remote memory or a window. -/
def execPut (unit : UnitId) (ph : Phase) (s : State) : Result := engineStep 0x70 unit true doPut ph s

def doGet (x : UnitCtx) (e : EngInsn) (sl : Slice) (s : State) : State :=
  if e.issued then s
  else if tEmpty (s1T e) then nothing x e s
  else if !sramOk s x x.unit (sramBase (dT e)) (walkOf (s1T e) (dT e)) (tLen0 (s1T e)) then insnFault x e 0x307 0 0 s
  else goJobs x e sl (if isWin e then winJobs s x e false else loadJobs sl [x.unit] e) s

/-- GET: remote memory or a window to SRAM. -/
def execGet (unit : UnitId) (ph : Phase) (s : State) : Result := engineStep 0x71 unit true doGet ph s

/-- The `FMT` of an atomic (R332): INT32, INT64, UINT32, UINT64. -/
def atomFmt (w : InsnWord) : Nat := (if flgOf w 0 then 1 else 0) + (if flgOf w 1 then 0 else 2)
def atomWidth (w : InsnWord) : Nat := if flgOf w 0 then 8 else 4

def doAtom (x : UnitCtx) (e : EngInsn) (sl : Slice) (s : State) : State :=
  let n := atomWidth e.word
  let v := e.sX.toNat % 2 ^ (8 * n)
  let c := e.sY.toNat % 2 ^ (8 * n)
  let sram := sramBase (dT e)
  if e.issued then s
  else if !sramFits s x.slice x.unit sram 8 then insnFault x e 0x307 0 0 s
  else if isWin e then
    let a := winBase (s1T e) (addrReg e 1)
    if a % n ≠ 0 then insnFault x e 0x705 0 0 s
    else sendRequest x.slice { winPacket e 3 a 16 (leBytes v 8 ++ leBytes c 8) with sub := subOf e.word, fmt := atomFmt e.word }
      (.insn x.unit x.slice e.id) (.landSram [x.unit] x.slice sram) (nothing x e s)
  else
    let a := s1Addr e
    if a % n ≠ 0 then insnFault x e 0x705 0 0 s
    else goJobs x e sl [{ row := noRow, tile := 0, refs := [{ va := a, len := n, seg := bindSegment sl.inForce a, access := .atomic }],
                            act := .atom sram (subOf e.word) (atomFmt e.word) v c }] s

/-- ATOM: one naturally aligned element; the old value lands in SRAM (R332). -/
def execAtom (unit : UnitId) (ph : Phase) (s : State) : Result := engineStep 0x72 unit true doAtom ph s

/-- The packet `FMT` of a tile format that a `REDUCE` may carry (R226, R333). -/
def reduceFmt (sub fmt : Nat) : Option Nat :=
  match sub, fmt with
  | 0, 0x09 => some 6
  | 1, 0x08 => some 4
  | 2, 0x04 => some 5
  | 3, 0x08 => some 4
  | 3, 0x04 => some 5
  | 3, 0x0A => some 0
  | 3, 0x0B => some 1
  | 4, 0x08 => some 4
  | 4, 0x04 => some 5
  | 4, 0x0A => some 0
  | 4, 0x0B => some 1
  | 5, 0x0A => some 0
  | 5, 0x0B => some 1
  | _, _ => none

def reduceJobs (sl : Slice) (e : EngInsn) (fmt : Nat) : List Job :=
  let a := dAddr e
  let seg := bindSegment sl.inForce a
  (cutItems a (tLen0 (s1T e)) (List.zip (walkOf (s1T e) (dT e)) (walkOf (s1T e) (s1T e)))).map (fun o =>
    { row := noRow, tile := o.1, refs := [{ va := o.2.1, len := o.2.2.2, seg := seg, access := .reduce }]
      act := .add (sramBase (s1T e) + o.2.2.1) (subOf e.word) fmt })

/-- Windowed reductions: full payloads of 256 bytes. -/
def winReduceJobs (s : State) (x : UnitCtx) (e : EngInsn) (fmt : Nat) : List Job :=
  let a := winBase (dT e) (addrReg e 0)
  let n := tLen0 (s1T e)
  ((List.zip (walkOf (s1T e) (s1T e)) (walkOf (s1T e) (dT e))).map (fun o =>
    (chunks 256 n (a + o.2) n).map (fun c =>
      let data := sramRead s x.slice x.unit (sramBase (s1T e) + o.1 + (c.1 - (a + o.2))) c.2
      { row := noRow, tile := 0, refs := []
        act := .window [({ winPacket e 4 c.1 c.2 data with comb := true, sub := subOf e.word, fmt := fmt }, .discard)] }))).flatten

def doReduce (x : UnitCtx) (e : EngInsn) (sl : Slice) (s : State) : State :=
  if e.issued then s else
    match reduceFmt (subOf e.word) (tFmt (s1T e)) with
    | none => insnFault x e 0x30B 0 0 s
    | some fmt =>
      let base := if isWin e then winBase (dT e) (addrReg e 0) else dAddr e
      if tLen0 (s1T e) % 256 ≠ 0 then insnFault x e 0x30C 0 0 s
      else if tEmpty (s1T e) then nothing x e s
      else if (walkOf (s1T e) (dT e)).any (fun o => (base + o) % 256 != 0) then insnFault x e 0x706 0 0 s
      else if !sramOk s x x.unit (sramBase (s1T e)) (walkOf (s1T e) (s1T e)) (tLen0 (s1T e)) then insnFault x e 0x307 0 0 s
      else readSram x e (walkRanges (sramBase (s1T e)) (walkOf (s1T e) (s1T e)) (tLen0 (s1T e)))
        (fun s => goJobs x e sl (if isWin e then winReduceJobs s x e fmt else reduceJobs sl e fmt) s) s

/-- REDUCE: payloads of 256 bytes combined at their destination (R226, R333). -/
def execReduce (unit : UnitId) (ph : Phase) (s : State) : Result := engineStep 0x73 unit true doReduce ph s

/-- The payload of a `SIG` packet (09): target, tally, amount, write count. -/
def sigPayload (prx : Bool) (target tallyIx amount count : Nat) : List Byte :=
  leBytes (if prx then 1 else 0) 1 ++ leBytes target 1 ++ leBytes tallyIx 1 ++ leBytes 0 1 ++ leBytes amount 2 ++ leBytes 0 2 ++
  leBytes count 3 ++ leBytes 0 1 ++ leBytes 0 4

def doPsig (x : UnitCtx) (e : EngInsn) (_ : Slice) (s : State) : State :=
  if e.started then s
  else
    sendRequest x.slice { blankPacket with
      type := 5, tc := classOf s x.slice e.queue, dnode := fld 75 64 e.word, len := 16
      payload := sigPayload (e.word.getLsbD 63) (fld 60 56 e.word) (fld 55 48 e.word) (fld 47 32 e.word) 0 }
      (.insn x.unit x.slice e.id) .discard (nothing x e s)

/-- PSIG: a remote increment, after every earlier instruction of the queue has completed (R215, R257). -/
def execPsig (unit : UnitId) (ph : Phase) (s : State) : Result := engineStep 0x74 unit true doPsig ph s

/-! ### Completion (R126, R213, R215, R582) -/

/-- How far the items cover consecutive bytes from `p` on. -/
def coverFrom (items : List (Nat × Nat)) : Nat → Nat → Nat
  | 0, p => p
  | fuel + 1, p =>
    let q := (items.filter (fun i => decide (i.1 ≤ p) && decide (p < i.1 + i.2))).foldl (fun m i => max m (i.1 + i.2)) p
    if q = p then p else coverFrom items fuel q

/-- R582: the 4 KiB regions that items cover wholly. -/
def coveredRegions (items : List (Nat × Nat)) : List Nat :=
  (((items.map (fun i => regionsOf i.1 i.2)).flatten).dedup).filter (fun r => decide ((r + 1) * 4096 ≤ coverFrom items (items.length + 1) (r * 4096)))

/-- The SRAM bytes that a release store read (R582). -/
def releaseItems (e : EngInsn) : List (Nat × Nat) :=
  if opOf e.word = 0x21 ∧ flgOf e.word 0 ∧ !tEmpty (s1T e) then
    (walkOf (s1T e) (s1T e)).map (fun o => (sramBase (s1T e) + o, tLen0 (s1T e)))
  else if opOf e.word = 0x31 ∧ flgOf e.word 1 ∧ !scatterEmpty e then
    (List.range (tLen1 (s2T e))).map (fun j => (sramBase (s1T e) + j * tPitch1 (s1T e), tLen0 (dT e)))
  else []

/-- R582: clear the live bits of the regions that a release store covered. -/
def releaseLive (s : State) (x : UnitCtx) (e : EngInsn) : State :=
  mapUnit x.unit x.slice (fun y => { y with
    live := (coveredRegions (releaseItems e)).foldl (fun l r => Sparse.set false l r false) y.live }) s

/-- The first instruction of a queue that has been issued whole. -/
def finishing (x : UnitCtx) (eng : Nat) : Option EngInsn := x.insns.find? (fun e => e.eng == eng && e.started && e.issued)

/-- ENGINE_INSTRUCTION_COMPLETE: an instruction whose every request has been answered completes (R126, R215). Array
instructions complete when their tiles are written; an `EPCALL` when its engine is done and its writes are acknowledged. -/
def execEngineInstructionComplete (unit : UnitId) (eng : Nat) (s : State) : Result :=
  match currentUnit s unit with
  | none => .next s
  | some x =>
    match finishing x eng with
    | none => .next s
    | some e =>
      let port := match unit with | .port p => some p | .cluster _ => none
      let callBusy := opOf e.word == 0x90 && (match port with
        | some p => (enginePort s p).calls.any (fun c => c.insn == e.id && c.slice == x.slice)
        | none => false)
      if e.fault.isSome || callBusy || outstanding s (.insn unit x.slice e.id) then .next s
      else .next (releaseLive (retire x e.id s) x e)

end Sys2Proof.Machine
end

