-- ==== Sys2Proof/Machine/Setu.lean ====
section
/-! DEFINITION. The set unit (spec/04 "Set unit"): `SORT`, `MERGE`, `ISECT`, `UNION` (R156 to R159, R225, R586). -/

namespace Sys2Proof.Machine

/-- Items of SRAM to write: addresses with bytes. -/
abbrev Writes := List (Nat × List Byte)

def writesFit (s : State) (x : UnitCtx) (ws : Writes) : Bool := ws.all (fun w => sramFits s x.slice x.unit w.1 w.2.length)

def putWrites (x : UnitCtx) (ws : Writes) (s : State) : State :=
  ws.foldl (fun s w => sramWrite x.slice x.unit w.1 w.2 s) s

/-- An instruction that acts whole in one step: its writes, then its status word (R213); it then completes. -/
def actWhole (x : UnitCtx) (e : EngInsn) (ws : Writes) (status : Nat) (s : State) : State :=
  writeStatus x e status (nothing x e (putWrites x ws s))

/-! ### Keys -/

/-- One 32-bit key or payload at each place. -/
def keysAt (s : State) (x : UnitCtx) (addrs : List Nat) : List Nat := addrs.map (fun a => leNat (sramRead s x.slice x.unit a 4))

/-- The places of the items of a tile, in the shape of another. -/
def itemAddrs (shape t : TileReg) : List Nat := (walkOf shape t).map (fun o => sramBase t + o)

/-- Put a keyed item behind every item whose key is not larger: equal keys keep their order. -/
def insertKey {α : Type} (k : Nat × α) : List (Nat × α) → List (Nat × α)
  | [] => [k]
  | y :: ys => if k.1 ≤ y.1 then k :: y :: ys else y :: insertKey k ys

/-- A stable sort into ascending order (R156). -/
def sortKeys {α : Type} : List (Nat × α) → List (Nat × α)
  | [] => []
  | k :: ks => insertKey k (sortKeys ks)

/-- Some 4-byte item at `as` shares a byte with one at `bs`. -/
def itemsMeet (as bs : List Nat) : Bool := as.any (fun a => bs.any (fun b => decide (a < b + 4) && decide (b < a + 4)))

/-- The key, payload and output places of a `SORT`: inputs, then outputs. -/
def sortPlaces (e : EngInsn) : List (List Nat) × List (List Nat) :=
  let pay := flgOf e.word 0
  (itemAddrs (s1T e) (s1T e) :: (if pay then [itemAddrs (s1T e) (s2T e)] else []),
    itemAddrs (s1T e) (dT e) :: (if pay then [itemAddrs (s1T e) e.tS3] else []))

def doSort (x : UnitCtx) (e : EngInsn) (_ : Slice) (s : State) : State :=
  if e.issued then s
  else if 4096 < tLen1 (s1T e) then insnFault x e 0x30C 0 0 s
  else if !statusOk s x e then insnFault x e 0x307 0 0 s
  else if tEmpty (s1T e) then actWhole x e [] 0 s
  else
    let pl := sortPlaces e
    if !(pl.1 ++ pl.2).all (fun as => as.all (fun a => sramFits s x.slice x.unit a 4)) then insnFault x e 0x307 0 0 s
    else if pl.1.any (fun a => pl.2.any (itemsMeet a)) then insnFault x e 0x308 0 0 s
    else
      let keys := keysAt s x (pl.1.headD [])
      let sorted := sortKeys (keys.zip (match pl.1 with | _ :: p :: _ => keysAt s x p | _ => keys))
      let outs := fun (as vs : List Nat) => (as.zip vs).map (fun p => (p.1, leBytes p.2 4))
      readSram x e (pl.1.flatten.map (fun a => (a, 4))) (actWhole x e
        (outs (pl.2.headD []) (sorted.map Prod.fst) ++
          (match pl.2 with | _ :: p :: _ => outs p (sorted.map Prod.snd) | _ => [])) keys.length) s

/-- SORT: stable, ascending, with payloads when `PAY` is set (R156, R225, R586). -/
def execSort (unit : UnitId) (ph : Phase) (s : State) : Result := engineStep 0x40 unit true doSort ph s

/-! ### Sorted lists (R157 to R159) -/

/-- Entry j of a list tile. -/
def listAddrs (t : TileReg) : List Nat := (List.range (tLen1 t)).map (fun j => sramBase t + j * tPitch1 t)

/-- The three list operations. -/
inductive ListOp where
  | merge
  | isect
  | union
  deriving DecidableEq

/-- What a list operation gives: emitted keys with their positions, whether the capacity was reached, and the list (1 or
2) and position of a key out of order. -/
structure ListOut where
  keys : List (Nat × Nat × Nat) := []
  full : Bool := false
  bad : Option (Nat × Nat) := none

/-- A key out of the order that the operation requires, after `last` of its list (R157). -/
def outOfOrder (op : ListOp) (last : Option Nat) (k : Nat) : Bool :=
  match last with
  | none => false
  | some l => if op = .merge then decide (k < l) else decide (k ≤ l)

/-- The keys of two lists in order: at each turn the two head keys are checked against the keys before them, and the
smaller is taken, the first list's when they are equal; `ISECT` and `UNION` take equal heads together. An emission with
which the capacity is reached ends the operation (R155, R225). -/
def listRun (op : ListOp) : Nat → Nat → (Nat × Option Nat × List Nat) → (Nat × Option Nat × List Nat) → ListOut
  | 0, _, _, _ => {}
  | fuel + 1, room, (i, la, as), (j, lb, bs) =>
    let emit := fun (k : Nat × Nat × Nat) (rest : ListOut) =>
      if room = 0 then ({ full := true } : ListOut)
      else if room = 1 then { keys := [k], full := true }
      else { rest with keys := k :: rest.keys }
    match as, bs with
    | [], [] => {}
    | a :: as', [] =>
      if outOfOrder op la a then { bad := some (1, i) }
      else if op = .isect then {}
      else emit (a, i, j) (listRun op fuel (room - 1) (i + 1, some a, as') (j, lb, []))
    | [], b :: bs' =>
      if outOfOrder op lb b then { bad := some (2, j) }
      else if op = .isect then {}
      else emit (b, i, j) (listRun op fuel (room - 1) (i, la, []) (j + 1, some b, bs'))
    | a :: as', b :: bs' =>
      if outOfOrder op la a then { bad := some (1, i) }
      else if outOfOrder op lb b then { bad := some (2, j) }
      else if a = b ∧ op ≠ .merge then
        emit (a, i, j) (listRun op fuel (room - 1) (i + 1, some a, as') (j + 1, some b, bs'))
      else if a ≤ b then
        if op = .isect then listRun op fuel room (i + 1, some a, as') (j, lb, b :: bs')
        else emit (a, i, j) (listRun op fuel (room - 1) (i + 1, some a, as') (j, lb, b :: bs'))
      else
        if op = .isect then listRun op fuel room (i, la, a :: as') (j + 1, some b, bs')
        else emit (b, i, j) (listRun op fuel (room - 1) (i, la, a :: as') (j + 1, some b, bs'))

/-- The output writes of a list operation: keys to t`D`, index pairs of `ISECT` with `IDX` to t`S3` (R158). -/
def listWrites (op : ListOp) (e : EngInsn) (keys : List (Nat × Nat × Nat)) : Writes :=
  let ks := (List.range keys.length).zip keys
  ks.map (fun k => (sramBase (dT e) + k.1 * tPitch1 (dT e), leBytes k.2.1 4)) ++
  (if op = .isect ∧ flgOf e.word 0 then
    ks.map (fun k => (sramBase e.tS3 + k.1 * tPitch1 e.tS3, leBytes k.2.2.1 4 ++ leBytes k.2.2.2 4))
  else [])

def doList (op : ListOp) (x : UnitCtx) (e : EngInsn) (_ : Slice) (s : State) : State :=
  if e.issued then s
  else if !statusOk s x e then insnFault x e 0x307 0 0 s
  else if tEmpty (s1T e) || tEmpty (s2T e) then actWhole x e [] (listStatus 0 false) s
  else
    let as := listAddrs (s1T e)
    let bs := listAddrs (s2T e)
    if !(as ++ bs).all (fun a => sramFits s x.slice x.unit a 4) then insnFault x e 0x307 0 0 s
    else
      let out := listRun op (as.length + bs.length + 1) (tLen1 (dT e)) (0, none, keysAt s x as) (0, none, keysAt s x bs)
      let ws := listWrites op e out.keys
      readSram x e ((as ++ bs).map (fun a => (a, 4))) (fun s =>
        if !writesFit s x ws then insnFault x e 0x307 0 0 s
        else
          match out.bad with
          | some p => insnFault x e 0x405 (Config.unsortedAddr p.1 p.2) (Config.unsortedDetail p.1 p.2) (putWrites x ws s)
          | none => actWhole x e ws (listStatus out.keys.length out.full) s) s

/-- MERGE: every key of both lists (R157). -/
def execMerge (unit : UnitId) (ph : Phase) (s : State) : Result := engineStep 0x41 unit true (doList .merge) ph s

/-- ISECT: each key present in both lists, and index pairs when asked (R157, R158). -/
def execIsect (unit : UnitId) (ph : Phase) (s : State) : Result := engineStep 0x42 unit true (doList .isect) ph s

/-- UNION: each key present in either list, once (R157). -/
def execUnion (unit : UnitId) (ph : Phase) (s : State) : Result := engineStep 0x43 unit true (doList .union) ph s

end Sys2Proof.Machine
end

