-- ==== Sys2Proof/Machine/Array.lean ====
section
/-! DEFINITION. The split arrays (spec/04 "Split arrays", spec/05): checks before the start (R169, R171, R223, R586),
normal and exact accumulation (R172 to R182), accumulate-in-place (R144, R179), write-back, status and faults (R143,
R194, R195), and the capture of ski-patrol segments (R439, R440). -/

namespace Sys2Proof.Machine

/-! ### The instruction -/

def isArray (w : InsnWord) : Bool := decide (0x50 ≤ opOf w) && decide (opOf w ≤ 0x53)
def arrCarve (e : EngInsn) : Bool := opOf e.word == 0x51 || opOf e.word == 0x53
def arrExact (e : EngInsn) : Bool := opOf e.word == 0x52 || opOf e.word == 0x53
def arrAip (e : EngInsn) : Bool := flgOf e.word 0
def arrXwb (e : EngInsn) : Bool := flgOf e.word 1
/-- R223: an 11-bit two's-complement anchor. -/
def arrAnchor (e : EngInsn) : Int := decodeInt 11 (fld 74 64 e.word)
def arrMask (e : EngInsn) : Nat := fld 79 76 e.word

/-- The output tiles of an instruction by the quadrant that stands for them: the quadrants named in carve mode, quadrant
0 for the whole array (R140, R222). -/
def arrParts (e : EngInsn) : List Nat := if arrCarve e then (List.range 4).filter (fun q => (arrMask e).testBit q) else [0]
/-- The quadrants an instruction keeps busy. -/
def arrQuads (e : EngInsn) : List Nat := if arrCarve e then arrParts e else [0, 1, 2, 3]

def partD (e : EngInsn) (q : Nat) : TileReg := e.tD.getD q 0
def partA (e : EngInsn) (q : Nat) : TileReg := e.tS1.getD q 0
def partB (e : EngInsn) (q : Nat) : TileReg := e.tS2.getD q 0

/-- Rows of an array or quadrant. -/
def arrSide (e : EngInsn) : Nat := if arrCarve e then 8 else 16

/-- A source tile has no data: an extent of 0; a K of 0 of both operands is no such case (R209). -/
def partBare (e : EngInsn) (q : Nat) : Bool :=
  tLen1 (partA e q) == 0 || tLen1 (partB e q) == 0 || tLen2 (partA e q) == 0 || tLen2 (partB e q) == 0 ||
  (tLen0 (partA e q) == 0) != (tLen0 (partB e q) == 0)

/-- R209: a source tile of the instruction is empty, so that it reads and writes no data. -/
def arrEmpty (e : EngInsn) : Bool := (arrParts e).any (partBare e)

/-! ### Checks before the start -/

/-- R171: the class of a format in the pairing table. -/
def pairClass (f : Nat) : Option Nat :=
  if f ≤ 3 then some 0 else if f = 4 then some 1 else if f = 5 ∨ f = 6 then some 2 else none

def badFormat (e : EngInsn) (q : Nat) : Bool :=
  (pairClass (tFmt (partA e q))).isNone || pairClass (tFmt (partA e q)) != pairClass (tFmt (partB e q)) ||
  (!arrAip e && tFmt (partD e q) != (if arrXwb e then 9 else 8))

def badRows (e : EngInsn) (q : Nat) : Bool :=
  decide (arrSide e < tLen1 (partA e q)) || decide (arrSide e < tLen1 (partB e q))

/-- R169, R223: the K of the two operands differ, or K is not a whole number of scale blocks. -/
def badK (e : EngInsn) (q : Nat) : Bool :=
  !arrEmpty e && (tLen0 (partA e q) != tLen0 (partB e q) || (fmtScaled (tFmt (partA e q)) && tLen0 (partA e q) % 32 != 0))

/-- Bytes of one row of an operand. -/
def rowBytes (t : TileReg) : Nat := (tLen0 t * (fmtBits (tFmt t)).getD 0 + 7) / 8
/-- The place and length of row `r` of an operand, and of its scales (R587). -/
def rowAt (t : TileReg) (r : Nat) : Nat × Nat := (sramBase t + r * tPitch1 t, rowBytes t)
def scalesAt (t : TileReg) (r : Nat) : Nat × Nat :=
  if fmtScaled (tFmt t) then (tScale t * 64 + r * (tLen0 t / 32), tLen0 t / 32) else (0, 0)

def elemBytes (e : EngInsn) : Nat := if arrXwb e then 32 else 4

/-- The SRAM ranges that one tile of the instruction reads, and all that it reads and writes. -/
def partReads (e : EngInsn) (q : Nat) : List (Nat × Nat) :=
  let ops := fun t => ((List.range (tLen1 t)).map (fun r => [rowAt t r, scalesAt t r])).flatten
  if arrEmpty e then [] else ops (partA e q) ++ ops (partB e q)
def partRanges (e : EngInsn) (q : Nat) : List (Nat × Nat) :=
  if arrEmpty e then [] else
    partReads e q ++
    (if arrAip e then [] else (List.range (tLen1 (partA e q))).map (fun r =>
      (sramBase (partD e q) + r * tPitch1 (partD e q), tLen1 (partB e q) * elemBytes e)))

/-- The first check of R586 that fails, over all of the instruction's tiles. -/
def arrayCheck (s : State) (x : UnitCtx) (e : EngInsn) : Option Nat :=
  let ps := arrParts e
  if ps.any (badFormat e) then some 0x30B
  else if ps.any (badRows e) then some 0x30C
  else if ps.any (badK e) then some 0x30A
  else if !statusOk s x e || !((ps.map (partRanges e)).flatten.all (fun r => sramFits s x.slice x.unit r.1 r.2)) then some 0x307
  else none

/-! ### Quadrants -/

def quadKey (eng q : Nat) : Nat := eng * 4 + q
def quadAt (x : UnitCtx) (eng q : Nat) : Quad := Sparse.get {} x.quads (quadKey eng q)
def setQuad (eng q : Nat) (v : Quad) (x : UnitCtx) : UnitCtx := { x with quads := Sparse.set {} x.quads (quadKey eng q) v }

/-- The block-wide number of an array. -/
def arrayIx (u : UnitId) (eng : Nat) : Nat := match u with | .cluster c => c * 4 + (eng - 1) | .port _ => 0

/-- R145: the array, as an engine number, that takes a logical array's instructions. The retired arrays of a cluster are mapped onto
its working ones in ascending order (log 72). -/
def physicalArray (s : State) (u : UnitId) (eng : Nat) : Nat :=
  match u with
  | .port _ => eng
  | .cluster c =>
    let gone := fun (a : Nat) => s.recovery.retiredArrays.getLsbD (c * 4 + (a - 1))
    if !gone eng then eng
    else (([1, 2, 3, 4].filter (fun a => !gone a))[(([1, 2, 3, 4].filter gone).idxOf eng)]?).getD eng

/-- The other logical arrays on the same array. -/
def sharers (s : State) (u : UnitId) (eng : Nat) : List Nat :=
  [1, 2, 3, 4].filter (fun a => a != eng && physicalArray s u a == physicalArray s u eng)

/-- R145: a shared array is free for the instruction, and it is this queue's turn: the other queue has no array instruction at
its head, or was the last to be served. -/
def arrayTurn (s : State) (x : UnitCtx) (e : EngInsn) : Bool :=
  (sharers s x.unit e.eng).all (fun a =>
    (arrQuads e).all (fun q => (quadAt x a q).busy.isNone) &&
    (Sparse.get 0 s.recovery.turns (arrayIx x.unit (physicalArray s x.unit e.eng)) != e.eng ||
      !((headInsn x a).any (fun i => isArray i.word && i.fault.isNone))))

/-- The queue has been served by a shared array. -/
def noteTurn (x : UnitCtx) (e : EngInsn) (s : State) : State :=
  if (sharers s x.unit e.eng).isEmpty then s
  else { s with recovery := { s.recovery with
    turns := Sparse.set 0 s.recovery.turns (arrayIx x.unit (physicalArray s x.unit e.eng)) e.eng } }

/-- How held accumulators differ from an instruction (R144, R179): the bits of `DETAIL`[2:0], or none. -/
def heldDiff (e : EngInsn) (h : Held) : Nat :=
  (if h.whole = arrCarve e then 1 else 0) + (if h.exact ≠ arrExact e then 2 else 0) +
  (if h.exact ∧ arrExact e ∧ h.anchor ≠ arrAnchor e then 4 else 0)

/-- The quadrants whose held state does not match, lowest first. -/
def mismatched (x : UnitCtx) (e : EngInsn) : List (Nat × Held) :=
  (if arrEmpty e then [] else arrQuads e).filterMap (fun q =>
    match (quadAt x e.eng q).held with
    | some h => if heldDiff e h = 0 then none else some (q, h)
    | none => none)

/-- `DETAIL` of `ACC_MISMATCH`, for the lowest quadrant that differs. -/
def mismatchDetail (e : EngInsn) (h : Held) : Nat :=
  heldDiff e h + (if h.exact then (h.anchor % 2 ^ 16).toNat * 2 ^ 16 else 0) +
  (if arrExact e then (arrAnchor e % 2 ^ 16).toNat * 2 ^ 32 else 0)

/-! ### Accumulation -/

/-- One operand row: its element values and, block by block, its scales. -/
structure OpRow where
  elems : List FV
  scales : List Nat

/-- The elements of a row and its scale bytes, decoded. -/
def readRow (s : State) (x : UnitCtx) (t : TileReg) (r : Nat) : OpRow :=
  let p := rowAt t r
  let q := scalesAt t r
  { elems := (unpack ((fmtBits (tFmt t)).getD 0) (tLen0 t) (sramRead s x.slice x.unit p.1 p.2)).map (decodeElem (tFmt t))
    scales := (sramRead s x.slice x.unit q.1 q.2).map BitVec.toNat }

/-- K-steps `k` to `k + n - 1` of a row. `k` is a multiple of 32 where there are scales. -/
def cutRow (k n : Nat) (r : OpRow) : OpRow := { elems := (r.elems.drop k).take n, scales := (r.scales.drop (k / 32)).take (n / 32) }

/-- The products of two runs of elements. -/
def products (as bs : List FV) : List FV := (as.zip bs).map (fun p => p.1.mul p.2)

/-- R172: the sum of one group, times its two block scales. -/
def groupSum (as bs : List FV) (sa sb : Option Nat) : EV :=
  let sum := (products as bs).foldl (fun t p => t.add p.toEV) (.fin { m := 0, e := 0 })
  let scale := fun (c : Option Nat) (v : EV) => match c with
    | none => v
    | some 255 => .nan
    | some c => v.scale ((c : Int) - 127)
  scale sb (scale sa sum)

/-- R172, R173: one FP32 accumulator takes the groups of `g` elements in ascending k order, with one rounding each. -/
def normalDot (g : Nat) : Nat → Word32 → OpRow → OpRow → Word32
  | 0, acc, _, _ => acc
  | n + 1, acc, a, b =>
    let v := groupSum (a.elems.take g) (b.elems.take g) a.scales.head? b.scales.head?
    normalDot g n (fp32OfEV ((fp32 acc).toEV.add v))
      { elems := a.elems.drop g, scales := a.scales.tail } { elems := b.elems.drop g, scales := b.scales.tail }

/-- R177, R178: each product, with its scales, is converted and added. The order, by ascending k, is the model's (log 82). -/
def exactDot (acc : XR) (a b : OpRow) : XR :=
  let scaled := fun (r : OpRow) => ((List.range r.elems.length).zip r.elems).map (fun p => applyScale r.scales[p.1 / 32]? p.2)
  (products (scaled a) (scaled b)).foldl (fun acc p => xrAdd capAcc acc (xrConvert acc.anchor p)) acc

/-- One output element over a range of K. -/
def dot (fmt : Nat) (acc : Acc) (a b : OpRow) : Acc :=
  match acc with
  | .xr v => .xr (exactDot v a b)
  | .fp v =>
    let g := if fmt = 4 then 1 else 32
    .fp (normalDot g ((a.elems.length + g - 1) / g) v a b)

/-- R175 and R439: the segments of a tile's K that ski patrol counts, 256 K-steps each or the whole of a shorter tile,
with the K-steps left over. -/
def segmentsOf (k : Nat) : List (Nat × Nat × Bool) :=
  if k ≤ 256 then (if k = 0 then [] else [(0, k, true)])
  else (List.range (k / 256)).map (fun i => (256 * i, 256, true)) ++ (if k % 256 = 0 then [] else [(k / 256 * 256, k % 256, false)])

/-- One segment of a tile over all of its elements, row by row. -/
def tileSegment (fmt k n : Nat) (as bs : List OpRow) (accs : List Acc) : List Acc :=
  let pairs := (as.map (fun a => bs.map (fun b => (cutRow k n a, cutRow k n b)))).flatten
  (accs.zip pairs).map (fun p => dot fmt p.1 p.2.1 p.2.2)

/-- The accumulators after each segment of a tile. -/
def tileSegments (fmt : Nat) (as bs : List OpRow) : List (Nat × Nat × Bool) → List Acc → List (List Acc)
  | [], _ => []
  | c :: cs, accs =>
    let next := tileSegment fmt c.1 c.2.1 as bs accs
    next :: tileSegments fmt as bs cs next

/-- The grid of a held set: `side` by `side` elements, of which a tile uses the first rows and columns. -/
def gridRows (side rows cols : Nat) (grid : List Acc) : List Acc :=
  ((List.range rows).map (fun r => (grid.drop (r * side)).take cols)).flatten

/-- Put a tile back into its grid. -/
def gridPut (side rows cols : Nat) (tile grid : List Acc) : List Acc :=
  (List.range (side * side)).map (fun i =>
    if i / side < rows ∧ i % side < cols then tile.getD (i / side * cols + i % side) default else grid.getD i default)

/-- An accumulator at its start (R173, R179). -/
def freshAcc (e : EngInsn) : Acc := if arrExact e then .xr { anchor := arrAnchor e } else .fp 0

/-- The grid a tile starts from: held accumulators, or fresh ones (R144, R179). -/
def startGrid (x : UnitCtx) (e : EngInsn) (q : Nat) : List Acc :=
  match (quadAt x e.eng q).held with
  | some h => h.elems
  | none => List.replicate (arrSide e * arrSide e) (freshAcc e)

/-! ### Flags and results -/

/-- R194: the flags of one output element. -/
def accFlags : Acc → Nat
  | .fp w => if isNan32 w then 1 else if w.toNat % 2 ^ 31 = inf32 then 2 else 0
  | .xr v => (if v.range then 4 else 0) + (if v.invalid then 8 else 0) + (if v.uf ≠ 0 then 16 else 0)

/-- The first element of a tile that has flag `bit`, as `ADDR` names it (R195), plus 1; 0 when none has. -/
def firstFlag (e : EngInsn) (q cols bit : Nat) (tile : List Acc) : Nat :=
  match ((List.range tile.length).zip tile).find? (fun p => (accFlags p.2).testBit bit) with
  | some (i, _) => q * 256 + (i / cols * arrSide e + i % cols) + 1
  | none => 0

/-- The bytes of an output element (R182, R185). -/
def accBytes (e : EngInsn) (a : Acc) : List Byte :=
  match a with
  | .fp w => leBytes w.toNat 4
  | .xr v => if arrXwb e then leBytes (xrEncode v) 32 else leBytes (xrToFp32 v).toNat 4

/-- The writes of a tile: row `r` at `r` times `PITCH1`. -/
def tileWrites (e : EngInsn) (q : Nat) (tile : List Acc) : Writes :=
  let cols := tLen1 (partB e q)
  (List.range (tLen1 (partA e q))).map (fun r =>
    (sramBase (partD e q) + r * tPitch1 (partD e q), (((tile.drop (r * cols)).take cols).map (accBytes e)).flatten))

/-! ### Ski-patrol capture (R439, R440) -/

/-- The bytes of a segment's operands and scales. -/
def segmentBytes (s : State) (x : UnitCtx) (t : TileReg) (k n : Nat) : List Byte :=
  let bits := (fmtBits (tFmt t)).getD 0
  ((List.range (tLen1 t)).map (fun r =>
    sramRead s x.slice x.unit (sramBase t + r * tPitch1 t + k * bits / 8) ((n * bits + 7) / 8) ++
    (if fmtScaled (tFmt t) then sramRead s x.slice x.unit ((scalesAt t r).1 + k / 32) (n / 32) else []))).flatten

/-- R439: count one segment of an array; in each run of N, the linear-feedback counter picks the one to capture. -/
def countSegment (a : Nat) (c : Capture) (s : State) : State :=
  let n := 2 ^ s.boot.image.patrolLog2
  let i := Sparse.get 0 s.patrol.segments a
  let l := Sparse.get 1 s.patrol.lfsr a
  let hit := i == l.toNat % n
  let last := i + 1 == n
  { s with patrol := { s.patrol with
    segments := Sparse.set 0 s.patrol.segments a (if last then 0 else i + 1)
    lfsr := if last then Sparse.set 1 s.patrol.lfsr a (Config.patrolNext l) else s.patrol.lfsr
    captures := if hit then s.patrol.captures ++ [c] else s.patrol.captures } }

/-- Count the segments of a tile in order. -/
def countTile (x : UnitCtx) (e : EngInsn) (q : Nat) : List (Nat × Nat × Bool) → List Acc → List (List Acc) → State → State
  | c :: cs, start, fin :: rest, s =>
    let cap : Capture := { unit := x.unit, slice := x.slice, eng := physicalArray s x.unit e.eng, start := start, ending := fin
                           operands := segmentBytes s x (partA e q) c.1 c.2.1 ++ segmentBytes s x (partB e q) c.1 c.2.1 }
    countTile x e q cs fin rest (if c.2.2 then countSegment (arrayIx x.unit (physicalArray s x.unit e.eng)) cap s else s)
  | _, _, _, s => s

/-! ### Start and write-back -/

/-- What an instruction's start leaves of one tile: its elements. -/
structure TileRun where
  quad : Nat
  tile : List Acc
  grid : List Acc

/-- Compute one tile, and count its segments. -/
def runTile (x : UnitCtx) (e : EngInsn) (q : Nat) (s : State) : TileRun × State :=
  let rows := tLen1 (partA e q)
  let cols := tLen1 (partB e q)
  let grid := startGrid x e q
  if arrEmpty e then ({ quad := q, tile := [], grid := grid }, s) else
    let as := (List.range rows).map (readRow s x (partA e q))
    let bs := (List.range cols).map (readRow s x (partB e q))
    let start := gridRows (arrSide e) rows cols grid
    let segs := segmentsOf (tLen0 (partA e q))
    let ends := tileSegments (tFmt (partA e q)) as bs segs start
    let tile := ends.getLastD start
    ({ quad := q, tile := tile, grid := gridPut (arrSide e) rows cols tile grid }, countTile x e q segs start ends s)

def runTiles (x : UnitCtx) (e : EngInsn) : List Nat → State → List TileRun × State
  | [], s => ([], s)
  | q :: qs, s =>
    let r := runTile x e q s
    let rest := runTiles x e qs r.2
    (r.1 :: rest.1, rest.2)

/-- The lowest of two marks, 0 standing for none. -/
def minMark (a b : Nat) : Nat := if a = 0 then b else if b = 0 then a else min a b

/-- A started instruction: `moved` holds its flags (R194), `count` and `written` the first element with `RANGE` and with
`INVALID` (R195). -/
def noteTiles (e : EngInsn) (ts : List TileRun) : EngInsn :=
  ts.foldl (fun e t =>
    let cols := tLen1 (partB e t.quad)
    { e with
      moved := t.tile.foldl (fun f a => f ||| accFlags a) e.moved
      count := minMark e.count (firstFlag e t.quad cols 2 t.tile)
      written := minMark e.written (firstFlag e t.quad cols 3 t.tile) }) { e with started := true }

/-- The held set that a tile leaves: kept with accumulate-in-place, released by a write-back, unchanged where a source is empty. -/
def heldAfter (e : EngInsn) (q : Nat) (t : TileRun) (old : Option Held) : Option Held :=
  if arrEmpty e then old
  else if arrAip e then
    some { whole := !arrCarve e, exact := arrExact e, anchor := if arrExact e then arrAnchor e else 0
           elems := if q = t.quad then t.grid else [] }
  else none

/-- The quadrants of an instruction at its start. -/
def busyQuads (e : EngInsn) (ts : List TileRun) (x : UnitCtx) : UnitCtx :=
  (arrQuads e).foldl (fun x q =>
    match ts.find? (fun t => t.quad == (if arrCarve e then q else 0)) with
    | some t =>
      setQuad e.eng q { busy := some e.id, result := if q = t.quad then t.tile else []
                        held := heldAfter e q t (quadAt x e.eng q).held } x
    | none => x) x

/-- Two lists of SRAM ranges meet. -/
def rangesMeet (as bs : List (Nat × Nat)) : Bool :=
  as.any (fun a => bs.any (fun b => decide (a.1 < b.1 + b.2) && decide (b.1 < a.1 + a.2)))

/-- What an instruction of the queue that has started is still to write: its tiles that are not written, and its status word. -/
def owedWrites (x : UnitCtx) (e : EngInsn) : List (Nat × Nat) :=
  let tile := fun (q : Nat) => (List.range (tLen1 (partA e q))).map (fun r =>
    (sramBase (partD e q) + r * tPitch1 (partD e q), tLen1 (partB e q) * elemBytes e))
  (if arrAip e || arrEmpty e then [] else ((arrParts e).filter (fun q => (quadAt x e.eng q).busy == some e.id)).map tile).flatten ++
  (match statOf e.word, insnRun x e with
   | 0, _ => []
   | n + 1, some r => [(statusAddr r.statusBase (n + 1), 8)]
   | _, none => [])

/-- R126: an earlier instruction of the queue is still to write what this one reads. -/
def awaitsTile (x : UnitCtx) (e : EngInsn) : Bool :=
  rangesMeet ((arrParts e).map (partReads e)).flatten
    ((x.insns.filter (fun i => i.eng == e.eng && isArray i.word && i.started && i.id != e.id)).map (owedWrites x)).flatten

def doArrayStart (x : UnitCtx) (e : EngInsn) (_ : Slice) (s : State) : State :=
  match arrayCheck s x e with
  | some c => insnFault x e c 0 0 s
  | none =>
    if (arrQuads e).any (fun q => (quadAt x e.eng q).busy.isSome) || !arrayTurn s x e || awaitsTile x e then s else
      match mismatched x e with
      | (q, h) :: rest =>
        insnFault x e 0x401 (((q, h) :: rest).foldl (fun m p => m + 2 ^ p.1) 0) (mismatchDetail e h) s
      | [] =>
        readSram x e ((arrParts e).map (partReads e)).flatten (fun s =>
          let r := runTiles x e (arrParts e) s
          noteTurn x e (mapUnit x.unit x.slice (busyQuads e r.1) (mapInsn x e.id (fun y => noteTiles y r.1) r.2))) s

/-- ARRAY_INSTRUCTION_START: the array instruction at a queue head starts on all of its quadrants together, once they are
free (R142) and the queue's earlier tiles that it reads are written (R126). -/
def execArrayInstructionStart (unit : UnitId) (eng : Nat) (s : State) : Result :=
  headStep isArray eng unit false doArrayStart s

/-- The end of an array instruction: status word, then the fault of R195 when its bit is set; otherwise it is finished. -/
def endArray (x : UnitCtx) (e : EngInsn) (s : State) : State :=
  let s1 := writeStatus x e e.moved s
  if flgOf e.word 3 && e.written != 0 then insnFault x e 0x403 (e.written - 1) e.moved s1
  else if flgOf e.word 2 && e.count != 0 then insnFault x e 0x402 (e.count - 1) e.moved s1
  else mapInsn x e.id (fun y => { y with issued := true }) s1

/-- One tile's busy time ends: its quadrants are free, and it is written unless it accumulates in place (R143, R144). -/
def writeTile (x : UnitCtx) (e : EngInsn) (q : Nat) (s : State) : State :=
  let quads := if arrCarve e then [q] else [0, 1, 2, 3]
  let part := if arrCarve e then q else 0
  let tile := (quadAt x e.eng part).result
  let s1 := mapUnit x.unit x.slice (fun y => quads.foldl (fun y k => setQuad e.eng k { quadAt y e.eng k with busy := none, result := [] } y) y) s
  if arrAip e || arrEmpty e then s1 else putWrites x (tileWrites e part tile) s1

/-- ARRAY_WRITEBACK: a quadrant's busy time ends and its tile is written; with the last of the instruction's tiles the
instruction writes its status word and ends (R143, R194, R195). A whole-mode instruction ends on all four together. -/
def execArrayWriteback (unit : UnitId) (eng quad : Nat) (s : State) : Result :=
  match currentUnit s unit with
  | none => .next s
  | some x =>
    match (quadAt x eng quad).busy with
    | none => .next s
    | some id =>
      match x.insns.find? (fun e => e.id == id) with
      | none => .next s
      | some e =>
        if !contextRuns s x.slice || x.stopping then .next s else
          let s1 := writeTile x e quad s
          match findUnit s1 unit x.slice with
          | none => .next s1
          | some y =>
            if (arrQuads e).any (fun q => (quadAt y eng q).busy == some id) then .next s1
            else .next (endArray y e s1)

/-- MMA (R140, R172). -/
def execMma (unit : UnitId) (s : State) : Result := issueStep (isOp 0x50) unit doIssue s
/-- MMA_C (R140). -/
def execMmaC (unit : UnitId) (s : State) : Result := issueStep (isOp 0x51) unit doIssue s
/-- MMA_X (R140, R177). -/
def execMmaX (unit : UnitId) (s : State) : Result := issueStep (isOp 0x52) unit doIssue s
/-- MMA_CX (R140, R177). -/
def execMmaCx (unit : UnitId) (s : State) : Result := issueStep (isOp 0x53) unit doIssue s

end Sys2Proof.Machine
end

