-- ==== Sys2Proof/Machine/Channel.lean ====
section
/-! DEFINITION. Mailboxes and locks (spec/12), the replies of the host channel in its three kinds (R397 to R408), the form of command
packets and their replies (R357, R360 to R364, R576). -/

namespace Sys2Proof.Machine

/-! ### Who reaches what (R386, R387, R546) -/

/-- The host port serves writes: the lead, once `READY` is set (R546, R574). -/
def hostOpen (s : State) : Bool := s.boot.ready && s.boot.isLead

def isHost : Agent → Bool
  | .host _ => true
  | _ => false
def isSideband : Agent → Bool
  | .sideband _ => true
  | _ => false
def isCore : Agent → Bool
  | .core _ => true
  | _ => false

/-- The agent reaches the mailbox: the host reaches mailboxes 0 and 1 of a lead that is ready; a member's mailboxes 0 to
3 carry no traffic (R32, R387). -/
def reaches (s : State) (who : Agent) (m : Nat) : Bool :=
  (s.boot.isLead || decide (4 ≤ m)) && (!isHost who || (hostOpen s && decide (m < 2)))

/-- The sender side and the receiver side of a mailbox (R386). -/
def senderSide (who : Agent) (m : Nat) : Bool := if m = 0 then isHost who else if m = 2 then isSideband who else isCore who
def receiverSide (who : Agent) (m : Nat) : Bool := if m = 1 then isHost who else if m = 3 then isSideband who else isCore who

def holdsLock (s : State) (who : Agent) (m : Nat) : Bool := ((mailbox s m).lock.map Prod.snd) == some who

/-- The identity that a message or a core interrupt of the management processor carries. -/
def manager0 : Agent := .core Config.managementCore

/-- The holder of the channel lock has used the channel (R396). -/
def noteHolder (who : Agent) (s : State) : State :=
  if holdsLock s who 0 then { s with chan := { s.chan with lastHostWrite := now s } } else s

/-! ### Replies on the host channel (R399 to R401, R405 to R408) -/

/-- The bytes of a reply (R360). -/
def replyBytes (r : Reply) : List Byte :=
  leBytes r.opcode 2 ++ leBytes 5 1 ++ leBytes r.status 1 ++ leBytes r.seq.toNat 4 ++ leBytes r.detail.length 2 ++
  leBytes r.sliceField.toNat 2 ++ leBytes r.detail0.toNat 4 ++ r.detail

/-- Fill a mailbox with words and set `GO`. -/
def putMessage (m : Nat) (ws : List Word32) (who : Agent) (s : State) : State :=
  let b := mailbox s m
  setMailbox m { b with data := Sparse.setList 0 [] 0 ws, go := true, sender := some who } s

/-- Bytes as 32-bit words, the last one filled with zeros. -/
def wordsOf (bs : List Byte) : List Word32 :=
  (List.range ((bs.length + 3) / 4)).map (fun i => BitVec.ofNat 32 (leNat ((bs.drop (4 * i)).take 4)))

/-- Word 0 of a format 2 segment (R400). -/
def segmentWord (index n : Nat) (last : Bool) : Nat :=
  2 + (if index = 0 then 256 else 0) + (if last then 512 else 0) + (index % 64) * 1024 + n * 65536

/-- Send the reply segment that comes next in mailbox 1 (R400). -/
def sendSegment (s : State) : State :=
  let c := s.chan
  let rest := c.sending.drop (60 * c.sendIndex)
  let seg := rest.take 60
  let w0 := segmentWord c.sendIndex seg.length (decide (rest.length ≤ 60))
  putMessage 1 (BitVec.ofNat 32 w0 :: wordsOf seg) manager0 { s with chan := { c with replySince := some (now s) } }

/-- The message of R399 that announces a reply in its buffer. -/
def bufferMessage (bytes : List Byte) (buffer : Nat) (seq : Word32) : List Word32 :=
  [BitVec.ofNat 32 (1 + 256 + bytes.length * 65536), BitVec.ofNat 32 buffer, BitVec.ofNat 32 (buffer / 2 ^ 32), seq]

/-- Ring entries that a packet of `b` bytes fills, and those skipped before it so that it does not wrap (R405). -/
def ringEntries (b : Nat) : Nat := (b + 255) / 256
def ringSkip (at' n : Nat) : Nat := if 256 < at' + n then 256 - at' else 0

/-- Write one reply into the reply ring when it has room (R405, R407). -/
def writeRing (bytes : List Byte) (s : State) : Option State :=
  let c := s.chan
  let i := c.rplTail.toNat % 256
  let n := ringEntries bytes.length
  let skip := ringSkip i n
  if 256 < (c.rplTail - c.rplHead).toNat + skip + n then none else
    let base := c.ringBase + 0x10000
    let s1 := if skip = 0 then s else memWrite (base + 256 * i) 0 (leBytes 0 2) s
    some { memWrite (base + 256 * (if skip = 0 then i else 0)) 0 bytes s1 with
      chan := { c with rplTail := c.rplTail + BitVec.ofNat 32 (skip + n) } }

/-- Send waiting replies to the host, in completion order, as far as the channel takes them (R399, R400, R407). -/
def pumpList : List (List Byte × Nat × Word32) → State → State
  | [], s => { s with chan := { s.chan with replyQueue := [] } }
  | r :: rs, s =>
    if s.chan.kind = 0 then
      match writeRing r.1 s with
      | some s1 => pumpList rs s1
      | none => { s with chan := { s.chan with replyQueue := r :: rs } }
    else if (mailbox s 1).go || !s.chan.sending.isEmpty then { s with chan := { s.chan with replyQueue := r :: rs } }
    else if s.chan.kind = 1 then
      { putMessage 1 (bufferMessage r.1 r.2.1 r.2.2) manager0 (memWrite (paLocal r.2.1) 0 r.1 s) with
        chan := { s.chan with replyQueue := rs, replySince := some (now s) } }
    else sendSegment { s with chan := { s.chan with replyQueue := rs, sending := r.1, sendIndex := 0 } }

def pumpReplies (s : State) : State := refreshLevels (pumpList s.chan.replyQueue s)

/-- A reply goes to the sender of its command: by the host channel, by the sideband, or to the log alone. -/
def deliver (who : Agent) (buffer : Nat) (r : Reply) (s : State) : State :=
  match who with
  | .host _ => pumpReplies { s with chan := { s.chan with replyQueue := s.chan.replyQueue ++ [(replyBytes r, buffer, r.seq)] } }
  | .sideband _ => emit (.sideband (replyBytes r)) s
  | .core _ => s

/-! ### Command packets (R357, R360 to R364, R576) -/

def stBusy : Nat := 1
def stBadOpcode : Nat := 2
def stBadParam : Nat := 3
def stNotQuiesced : Nat := 4
def stNoResource : Nat := 5
def stDenied : Nat := 6
def stVersion : Nat := 7
def stTimedOut : Nat := 8
def stInFailover : Nat := 9
def stNotManager : Nat := 10
def stShadow : Nat := 11
def stIntegrity : Nat := 12

/-- `BUSY`, `VERSION_MISMATCH` and `NOT_MANAGER` say that a command was not accepted: they are not logged (log 27). -/
def statusLogged (st : Nat) : Bool := st != stBusy && st != stVersion && st != stNotManager

/-- The log keeps the last 1,024 replies (R363). -/
def logReply (r : Reply) (log : List (Word32 × Reply)) : List (Word32 × Reply) :=
  let l := log.filter (fun e => e.1 != r.seq) ++ [(r.seq, r)]
  l.drop (l.length - 1024)

/-- The reply to a command. -/
def makeReply (c : CmdReq) (status detail0 : Nat) (detail : List Byte) : Reply :=
  { opcode := c.opcode, status := status, seq := c.seq, sliceField := c.sliceField, detail0 := BitVec.ofNat 32 detail0, detail := detail }

/-- End a command: it leaves the commands in progress, its reply is logged and sent (R363, R578). One that ends `BUSY` was not accepted
(log 27). -/
def finish (c : CmdReq) (status detail0 : Nat) (detail : List Byte) (s : State) : State :=
  let r := makeReply c status detail0 detail
  deliver c.sender c.buffer r { s with mgr := { s.mgr with
    accepted := s.mgr.accepted.filter (fun x => !(x.seq == c.seq && x.opcode == c.opcode))
    log := if status = stBusy then s.mgr.log else logReply r s.mgr.log } }

/-- A command that ends `OK`, and one that fails with no detail (R578). -/
def finishOk (c : CmdReq) (detail0 : Nat) (detail : List Byte) (s : State) : State := finish c 0 detail0 detail s
def failCmd (c : CmdReq) (status : Nat) (s : State) : State := finish c status 0 [] s

/-- The opcodes whose header names a slice, and those that carry `NOSLICE` (R576). -/
def sliceOps : List Nat :=
  [0x0101, 0x0102, 0x0103, 0x0104, 0x0105, 0x0106, 0x0201, 0x0202, 0x0203, 0x0204, 0x0301, 0x0302, 0x0303, 0x0304, 0x0305,
   0x0306, 0x0307, 0x0308, 0x0401, 0x0402, 0x0504, 0x0603, 0x0604, 0x0605]
def noSliceOps : List Nat :=
  [0x0505, 0x0501, 0x0502, 0x0503, 0x0701, 0x0702, 0x0703, 0x0704, 0x0801, 0x0802, 0x0803, 0x0804, 0x0806, 0x0807, 0x0808, 0x0809]
def eitherOps : List Nat := [0x0601, 0x0602, 0x0805]
/-- The set commands (spec/11 "Configuration sets"). -/
def setOps : List Nat := [0x0101, 0x0102, 0x0106, 0x0204, 0x0307, 0x0308, 0x0701]

/-- The fields of an opcode's parameters as (first byte, bytes, bits), with the length that the parameters have: every
other byte and bit is reserved (R360, R370, R374, R578 and the opcode tables). -/
def paramLayout (op : Nat) (ps : List Byte) : Nat × List (Nat × Nat × Nat) :=
  let n1 := byteField ps 1 1
  let n2 := byteField ps 2 1
  let n0 := byteField ps 0 1
  match op with
  | 0x0101 => (17, [(0, 2, 16), (4, 4, 20), (8, 8, 64), (16, 1, 8)])
  | 0x0103 => (28, [(0, 8, 64), (8, 1, 1), (16, 8, 64), (24, 4, 32)])
  | 0x0105 => (28, [(0, 8, 64), (8, 1, 1), (16, 8, 64), (24, 4, 32)])
  | 0x0104 => (8, [(0, 1, 8), (4, 4, 32)])
  | 0x0106 => (24 + 4 * n1, [(0, 8, 64), (8, 2, 16), (16, 8 + 4 * n1, 64 + 32 * n1)])
  | 0x0201 => (16, [(0, 3, 24), (8, 8, 64)])
  | 0x0202 => (1, [(0, 1, 8)])
  | 0x0203 => (16, [(0, 1, 8), (8, 8, 64)])
  | 0x0204 => (8 + 8 * n2, (0, 3, 24) :: ((List.range n2).map (fun i => [(8 + 8 * i, 1, 8), (12 + 8 * i, 4, 32)])).flatten)
  | 0x0301 => (40, [(0, 1, 8), (8, 32, 256)])
  | 0x0302 => (1, [(0, 1, 8)])
  | 0x0303 => (4, [(0, 4, 32)])
  | 0x0304 => (24, [(0, 1, 8), (8, 16, 128)])
  | 0x0305 => (1, [(0, 1, 8)])
  | 0x0306 => (1, [(0, 1, 8)])
  | 0x0307 => (40, [(0, 1, 8), (2, 2, 16), (8, 32, 256)])
  | 0x0308 => (4, [(0, 1, 8), (2, 2, 16)])
  | 0x0401 => (12, [(0, 12, 96)])
  | 0x0402 => (16, [(0, 3, 24), (8, 8, 48)])
  | 0x0501 => (3, [(0, 3, 24)])
  | 0x0503 => (2, [(0, 2, 16)])
  | 0x0504 => (20, [(0, 1, 8), (8, 12, 96)])
  | 0x0505 => (16, [(0, 4, 32), (8, 8, 64)])
  | 0x0601 => (44, [(0, 44, 352)])
  | 0x0602 => (16, [(0, 1, 8), (8, 8, 64)])
  | 0x0603 => (20, [(0, 4, 32), (8, 12, 96)])
  | 0x0604 => (32, [(0, 4, 32), (8, 24, 192)])
  | 0x0701 => (4, [(0, 4, 32)])
  | 0x0702 => (1, [(0, 1, 1)])
  | 0x0703 => (8 + 8 * n0, (0, 1, 8) :: (List.range n0).map (fun i => (8 + 8 * i, 5, 40)))
  | 0x0704 => (2, [(0, 2, 16)])
  | 0x0802 => (4, [(0, 4, 32)])
  | 0x0803 => (20, [(0, 4, 32), (8, 12, 96)])
  | 0x0805 => (20, [(0, 2, 16), (8, 12, 96)])
  | 0x0806 => (1, [(0, 1, 1)])
  | 0x0808 => (max 16 ps.length, [(0, 8, 64), (16, ps.length - 16, 8 * (ps.length - 16))])
  | 0x0809 => (8, [(0, 1, 1), (4, 4, 32)])
  | _ => (0, [])

/-- The reserved bits of a parameter block read 0: what is left when the fields are taken out. -/
def reservedClear (ps : List Byte) (fs : List (Nat × Nat × Nat)) : Bool :=
  fs.all (fun f => decide (byteField ps f.1 f.2.1 < 2 ^ f.2.2)) &&
  (List.range ps.length).all (fun i => fs.any (fun f => decide (f.1 ≤ i) && decide (i < f.1 + f.2.1)) || byteField ps i 1 == 0)

/-- `LENGTH` suits the opcode and no reserved byte is non-zero (R361). -/
def paramsOk (op : Nat) (ps : List Byte) : Bool :=
  ps.length == (paramLayout op ps).1 && reservedClear ps (paramLayout op ps).2

/-- The slice that a header's `SLICE` field names; `none` with `NOSLICE`. -/
def fieldSlice (f : Word16) : Option Nat := if f.getLsbD 15 then none else some (f.toNat % 1024)

/-- A slice of the set in force exists (R18, R361). -/
def sliceExists (s : State) (id : Nat) : Bool := s.cfg.active.slices.any (fun c => c.id == id)

/-- A slice ID is free for `CREATE_SLICE`: no set holds it, and no resurfacing of it runs (R383). -/
def sliceFree (s : State) (id : Nat) : Bool := !sliceExists s id && (findSlice s id).isNone

/-- The header's `SLICE` field has the form of R576 for its opcode; `missing` says how a slice that does not exist is
found. -/
def sliceForm (op : Nat) (f : Word16) : Bool :=
  bitsOf 14 10 f.toNat == 0 &&
  (if sliceOps.contains op then !f.getLsbD 15 else if noSliceOps.contains op then f.getLsbD 15 && f.toNat % 1024 == 0 else true)

/-- R576 for an opcode, its `SLICE` field and the parameters that decide its meaning. -/
def sliceOk (s : State) (op : Nat) (f : Word16) (ps : List Byte) : Bool :=
  sliceForm op f &&
  (match fieldSlice f with
   | some id => if op = 0x0101 then sliceFree s id else sliceExists s id
   | none => true) &&
  (if op = 0x0602 then (byteField ps 0 1 == 0) == (fieldSlice f).isSome
   else if op = 0x0805 then (byteField ps 0 2 == 0x10) == (fieldSlice f).isSome else true)

/-- The sender may issue the command (R357). -/
def roleOk (s : State) (who : Agent) (op : Nat) : Bool :=
  if isSideband who then op == 0x0801 || op == 0x0805
  else op == 0x0801 || op == 0x0806 || decide (s.mgr.holder = some who)

/-- The management processor runs: the lead is ready and no lockstep restart is going on (R436). -/
def managerRuns (s : State) : Bool := hostOpen s && s.recovery.restartSince.isNone

/-! ### Mailbox and lock writes (R388 to R396) -/

/-- The data registers of mailboxes 0 and 1 are not in use with shared rings, and ignore writes (R397). -/
def mbxUnused (s : State) (m : Nat) : Bool := s.chan.kind == 0 && m < 2

/-- A write of one data word: accepted from the sender side while `GO` is 0; mailbox 0 needs its lock as well (R389). -/
def writeMbxData (who : Agent) (m i : Nat) (v : Word32) (s : State) : State :=
  let b := mailbox s m
  if reaches s who m && senderSide who m && !b.go && (m != 0 || holdsLock s who 0) && !mbxUnused s m then
    let s1 := setMailbox m { b with data := Sparse.set 0 b.data i v } s
    if m = 0 then noteHolder who s1 else s1
  else s

/-- MBX_DATA_WRITE (R389). -/
def execMbxDataWrite (who : Agent) (mbx index : Nat) (value : Word32) (s : State) : Result :=
  if 16 ≤ mbx ∨ 16 ≤ index then .fault .noSuchPlace else .next (writeMbxData who mbx index value s)

/-- A request's first segment opens the exchange of R396. -/
def openExchange (who : Agent) (s : State) : State :=
  { s with chan := { s.chan with exchange := true, requester := some who } }

/-- A `SEND`: sets `GO` from the sender side, with the sender's identity (R388, R390, R396). -/
def sendMessage (who : Agent) (m : Nat) (s : State) : State :=
  let b := mailbox s m
  if reaches s who m && senderSide who m && !b.go && (m != 0 || holdsLock s who 0) then
    let s1 := setMailbox m { b with go := true, sender := some who } s
    refreshLevels (if m = 0 then openExchange who (noteHolder who s1) else s1)
  else s

/-- MBX_SEND (R390). -/
def execMbxSend (who : Agent) (mbx : Nat) (s : State) : Result :=
  if 16 ≤ mbx then .fault .noSuchPlace else .next (sendMessage who mbx s)

/-- The host has acknowledged a message of mailbox 1: the next segment or reply goes (R396, R400, R401). -/
def replyTaken (s : State) : State :=
  let c := s.chan
  if 60 * (c.sendIndex + 1) < c.sending.length then
    sendSegment { s with chan := { c with sendIndex := c.sendIndex + 1 } }
  else pumpReplies { s with chan := { c with sending := [], sendIndex := 0, exchange := false, replySince := none } }

/-- An `ACK`: clears `GO` from the receiver side (R390). -/
def takeAck (who : Agent) (m : Nat) (s : State) : State :=
  let b := mailbox s m
  if reaches s who m && receiverSide who m && b.go then
    let s1 := setMailbox m { b with go := false } s
    refreshLevels (if m = 1 then replyTaken s1 else s1)
  else s

/-- MBX_ACK (R390). -/
def execMbxAck (who : Agent) (mbx : Nat) (s : State) : Result :=
  if 16 ≤ mbx then .fault .noSuchPlace else .next (takeAck who mbx s)

/-- A claim takes a free lock (R393, R395). -/
def claimLock (who : Agent) (m : Nat) (num : Word16) (s : State) : State :=
  let b := mailbox s m
  if reaches s who m && num != 0 && num != 0xFFFF && b.lock.isNone then
    let s1 := setMailbox m { b with lock := some (num, who) } s
    if m = 0 then noteHolder who s1 else s1
  else s

/-- MBX_LOCK_CLAIM (R393). -/
def execMbxLockClaim (who : Agent) (mbx : Nat) (num : Word16) (s : State) : Result :=
  if 16 ≤ mbx then .fault .noSuchPlace else .next (claimLock who mbx num s)

/-- A release frees a lock when number and identity match the holder's (R393). -/
def releaseLock (who : Agent) (m : Nat) (num : Word16) (s : State) : State :=
  let b := mailbox s m
  if reaches s who m && b.lock == some (num, who) then setMailbox m { b with lock := none } s else s

/-- MBX_LOCK_RELEASE (R393). -/
def execMbxLockRelease (who : Agent) (mbx : Nat) (num : Word16) (s : State) : Result :=
  if 16 ≤ mbx then .fault .noSuchPlace else .next (releaseLock who mbx num s)

/-- R391: the mailbox and its lock return to their reset values; what the firmware had under way there is dropped. -/
def resetMailbox (m : Nat) (s : State) : State :=
  let s1 := setMailbox m {} s
  let s2 := if m = 0 then { s1 with chan := { s1.chan with partRecv := [], partIndex := 0, exchange := false } }
    else if m = 1 then pumpReplies { s1 with chan := { s1.chan with sending := [], sendIndex := 0, exchange := false, replySince := none } }
    else s1
  refreshLevels s2

/-- RESET_MAILBOX (R391). -/
def execResetMailbox (mbx : Nat) (s : State) : Result :=
  if 16 ≤ mbx then .fault .noSuchPlace else .next (resetMailbox mbx s)

/-- 5 s in ticks. -/
def fiveSeconds : Nat := 78125000

/-- MBX_REPLY_TIMEOUT: a reply has waited 5 s and its requester does not hold the role (R392). -/
def execMbxReplyTimeout (s : State) : Result :=
  match s.chan.replySince with
  | some t =>
    if (mailbox s 1).go && decide (t + fiveSeconds ≤ now s) && (s.mgr.holder.isNone || s.chan.requester != s.mgr.holder) then
      .next (resetMailbox 1 (resetMailbox 0 s))
    else .next s
  | none => .next s

/-- CHANNEL_LOCK_IDLE: the channel lock's holder has been idle for 5 s with no exchange open (R396). -/
def execChannelLockIdle (s : State) : Result :=
  let b := mailbox s 0
  if b.lock.isSome && !s.chan.exchange && decide (s.chan.lastHostWrite + fiveSeconds ≤ now s) then
    .next (setMailbox 0 { b with lock := none } s)
  else .next s

/-- The host's new `REQ_TAIL`, or `BADWRITE` (R397, R406). -/
def writeReqTail (who : Agent) (value : Word32) (s : State) : State :=
  if !isHost who || !hostOpen s || s.chan.kind != 0 then s else
    let c := s.chan
    let d := (value - c.reqTail).toNat
    if 1 ≤ d ∧ d ≤ 256 - (c.reqTail - c.reqHead).toNat then
      refreshLevels (noteHolder who { s with chan := { c with
        reqTail := value, badWrite := false, writers := c.writers ++ [(value.toNat, who)] } })
    else { s with chan := { c with badWrite := true } }

/-- REQ_TAIL_WRITE (R406). -/
def execReqTailWrite (who : Agent) (value : Word32) (s : State) : Result := .next (writeReqTail who value s)

/-- The host's new `RPL_HEAD`, or `BADWRITE`; replies that waited for room go (R397, R406 to R408). -/
def writeRplHead (who : Agent) (value : Word32) (s : State) : State :=
  if !isHost who || !hostOpen s || s.chan.kind != 0 then s else
    let c := s.chan
    let d := (value - c.rplHead).toNat
    if 1 ≤ d ∧ d ≤ (c.rplTail - c.rplHead).toNat then
      pumpReplies (noteHolder who { s with chan := { c with rplHead := value, badWrite := false } })
    else { s with chan := { c with badWrite := true } }

/-- RPL_HEAD_WRITE (R406). -/
def execRplHeadWrite (who : Agent) (value : Word32) (s : State) : Result := .next (writeRplHead who value s)

end Sys2Proof.Machine
end

