-- ==== Sys2Proof/Machine/Icu.lean ====
section
/-! DEFINITION. The interrupt unit and the wake watcher (R409 to R418, R501), the fault queue's status register (R426,
R573), and writes of region 0 (R569, R570, R575). -/

namespace Sys2Proof.Machine

/-! ### Events -/

/-- INTERRUPT_EVENT: an event of a source; a level source follows its condition (R410, R411). -/
def execInterruptEvent (source : Nat) (s : State) : Result :=
  if 256 ≤ source then .fault .noSuchPlace
  else if sourceLevel source then .next (refreshLevels s)
  else .next (raiseSource source s)

/-- INTERRUPT_FORWARD: a member's event reaches the lead (R409). -/
def execInterruptForward (source : Nat) (s : State) : Result :=
  if 256 ≤ source then .fault .noSuchPlace
  else if s.boot.isLead && !sourceLevel source then .next (raiseSource source s)
  else .next s

/-- The sources of pending register `i` that a write of ones clears: edge sources only (R411). -/
def pendMask (i : Nat) (value : Word32) : BitVec 256 :=
  (value.setWidth 256 <<< (32 * i)) &&& ~~~(setBit256 6 (setBit256 16 (setBit256 17 0)))

/-- A write of 1 clears an edge source and cancels its message (R411). -/
def clearPend (i : Nat) (value : Word32) (s : State) : State :=
  { s with icu := { s.icu with pend := s.icu.pend &&& ~~~(pendMask i value), owed := s.icu.owed &&& ~~~(pendMask i value) } }

/-- ICU_PEND_WRITE (R411, R546). -/
def execIcuPendWrite (index : Nat) (value : Word32) (s : State) : Result :=
  if 8 ≤ index then .fault .noSuchPlace
  else if hostOpen s then .next (clearPend index value s) else .next s

/-- `ICU_CTL.GDIS` (R414). -/
def setGdis (g : Bool) (s : State) : State := { s with icu := { s.icu with gdis := g } }

/-- ICU_GDIS_WRITE (R414, R546). -/
def execIcuGdisWrite (gdis : Bool) (s : State) : Result := if hostOpen s then .next (setGdis gdis s) else .next s

/-! ### Messages (R412 to R415, R501) -/

/-- A group may send: its hold-off has passed (R413). -/
def groupFree (s : State) (g : Nat) : Bool :=
  match Sparse.get? s.icu.holdUntil g with
  | some t => decide (t ≤ now s)
  | none => true

/-- The source may send a message now. -/
def sourceEligible (s : State) (n : Nat) : Bool := s.icu.owed.getLsbD n && s.icu.pend.getLsbD n && groupFree s (n / 16)

/-- The vector presented for a source (R412, R501). -/
def messageVector (s : State) (n : Nat) : Nat :=
  let v := (Sparse.get 0 s.icu.vec n).toNat
  if s.pins.nvec ≤ v then 0 else v

/-- Group `g` begins its hold-off (R413). -/
def beginHold (g : Nat) (s : State) : State :=
  let h := (Sparse.get 0 s.icu.hold g).toNat
  { s with icu := { s.icu with holdUntil := if h = 0 then Sparse.del s.icu.holdUntil g else Sparse.put s.icu.holdUntil g (now s + h) } }

/-- INTERRUPT_MESSAGE: the lowest-numbered eligible source sends its message (R412 to R415). -/
def execInterruptMessage (s : State) : Result :=
  if !hostOpen s || s.icu.gdis || !s.icu.powered || s.pins.nvec == 0 then .next s else
    match (List.range 128).find? (sourceEligible s) with
    | none => .next s
    | some n =>
      .next (emit (.msi (messageVector s n)) (beginHold (n / 16)
        { s with icu := { s.icu with owed := clearBit256 n s.icu.owed } }))

/-- ICU_HOLDOFF_EXPIRY: a group's hold-off has passed (R413). -/
def execIcuHoldoffExpiry (group : Nat) (s : State) : Result :=
  if 16 ≤ group then .fault .noSuchPlace
  else if groupFree s group then .next { s with icu := { s.icu with holdUntil := Sparse.del s.icu.holdUntil group } }
  else .next s

/-- The source whose handler a core runs; the handler counts as ended once its source is no longer pending (log 30). -/
def handlerOf (s : State) (core : Nat) : Option Nat :=
  (Sparse.get? s.icu.coreTaken core).bind (fun n => if s.icu.pend.getLsbD n then some n else none)

/-- CORE_INTERRUPT_TAKE: a core takes the lowest-numbered pending source that is enabled for it (R416). -/
def execCoreInterruptTake (core : Nat) (s : State) : Result :=
  if (handlerOf s core).isSome then .next s else
    let ready := s.icu.pend &&& Sparse.get 0 s.icu.coreEn core
    match (List.range 256).find? (fun n => ready.getLsbD n) with
    | none => .next { s with icu := { s.icu with coreTaken := Sparse.del s.icu.coreTaken core } }
    | some n => .next { s with icu := { s.icu with coreTaken := Sparse.put s.icu.coreTaken core n } }

/-- An entry of `WAKE_SEL` names the source with `EN` set (R417). -/
def wakeSelected (icu : Icu) (n : Nat) : Bool :=
  (List.range 32).any (fun j => let e := Sparse.get 0 icu.wakeSel j; e.getLsbD 8 && e.toNat % 256 == n)

/-- WAKE_LATCH: while the interrupt unit is off, the watcher latches the event of a selected source (R417). -/
def execWakeLatch (source : Nat) (s : State) : Result :=
  if 256 ≤ source then .fault .noSuchPlace
  else if s.icu.powered || !wakeSelected s.icu source || s.icu.latched.contains source then .next s
  else .next { s with icu := { s.icu with latched := s.icu.latched ++ [source] } }

/-- The interrupt unit is on again: every latched source becomes pending, before any other event (R417, R409). -/
def deliverLatched (s : State) : State :=
  s.icu.latched.foldl (fun s n => raiseSource n s) { s with icu := { s.icu with powered := true, latched := [] } }

/-! ### Writes of region 0 (R569, R570, R573, R575) -/

/-- `FQ_STATUS`: writing 1 to `OVERFLOW` clears it and every drop counter (R426). -/
def writeFqStatus (value : Word32) (s : State) : State :=
  if value.getLsbD 31 then { s with fq := { s.fq with overflow := false, drop := [] } } else s

/-- FQ_STATUS_WRITE (R426, R573, R546). -/
def execFqStatusWrite (value : Word32) (s : State) : Result := if hostOpen s then .next (writeFqStatus value s) else .next s

/-- The four sources of `ICU_VEC` register `n`. -/
def writeVec (n : Nat) (value : Word32) (s : State) : State :=
  { s with icu := { s.icu with vec := (List.range 4).foldl (fun v k =>
      Sparse.set 0 v (4 * n + k) (BitVec.ofNat 6 (value.toNat / 2 ^ (8 * k)))) s.icu.vec } }

/-- `ICU_EN` register `i`: a source that becomes enabled while pending is owed a message, one that is disabled is not (R410,
R411). -/
def writeEn (i : Nat) (value : Word32) (s : State) : State :=
  if 4 ≤ i then s else
    let mask : BitVec 128 := (0xFFFFFFFF#32).setWidth 128 <<< (32 * i)
    let en := (s.icu.en &&& ~~~mask) ||| (value.setWidth 128 <<< (32 * i))
    let fresh := (en &&& ~~~s.icu.en).setWidth 256
    { s with icu := { s.icu with en := en, owed := (s.icu.owed &&& en.setWidth 256) ||| (fresh &&& s.icu.pend) } }

/-- A write to a mailbox register (R387 to R393). -/
def writeMbxReg (who : Agent) (m off : Nat) (v : Word32) (s : State) : State :=
  if off < 0x40 then writeMbxData who m (off / 4) v s
  else if off = 0x40 then
    let s1 := if v.getLsbD 2 then takeAck who m s else s
    if v.getLsbD 1 then sendMessage who m s1 else s1
  else if off = 0x50 then
    if v.getLsbD 31 then claimLock who m (v.setWidth 16) s else releaseLock who m (v.setWidth 16) s
  else s

/-- A 32-bit write at an offset of region 0 (R569). -/
def writeReg32 (who : Agent) (off : Nat) (v : Word32) (s : State) : State :=
  if 0x2000 ≤ off ∧ off < 0x2800 then writeMbxReg who ((off - 0x2000) / 0x80) ((off - 0x2000) % 0x80) v s
  else if off = 0x1010 then writeReqTail who v s
  else if off = 0x101C then writeRplHead who v s
  else if off = 0x4000 then setGdis (v.getLsbD 0) s
  else if 0x4040 ≤ off ∧ off < 0x4080 then
    { s with icu := { s.icu with hold := Sparse.set 0 s.icu.hold ((off - 0x4040) / 4) (v.setWidth 16) } }
  else if 0x4100 ≤ off ∧ off < 0x4120 then clearPend ((off - 0x4100) / 4) v s
  else if 0x4140 ≤ off ∧ off < 0x4160 then writeEn ((off - 0x4140) / 4) v s
  else if 0x4200 ≤ off ∧ off < 0x4300 then writeVec ((off - 0x4200) / 4) v s
  else if 0x4300 ≤ off ∧ off < 0x4380 then
    { s with icu := { s.icu with wakeSel := Sparse.set 0 s.icu.wakeSel ((off - 0x4300) / 4) (v.setWidth 9) } }
  else if off = 0x20000 then writeFqStatus v s
  else s

/-- REGISTER_WRITE: aligned 32-bit and 64-bit writes act; a 64-bit write acts on both registers that it covers, the lower
offset in [31:0]; any other is ignored (R570). Before `READY`, and on a member, every write is ignored (R546, R574). -/
def execRegisterWrite (who : Agent) (offset size : Nat) (value : Word64) (s : State) : Result :=
  if !hostOpen s || !isHost who then .next s
  else if size = 4 ∧ offset % 4 = 0 then .next (writeReg32 who offset (value.setWidth 32) s)
  else if size = 8 ∧ offset % 8 = 0 then
    .next (writeReg32 who (offset + 4) ((value >>> 32).setWidth 32) (writeReg32 who offset (value.setWidth 32) s))
  else .next s

end Sys2Proof.Machine
end

