-- ==== Sys2Proof/Machine/Flags.lean ====
section
/-! DEFINITION. Register images: every register of the Register Index and of the doorbell pages as the state gives it
(spec/18, R41, R419, R542, R546, R567), and the words that replies and records share with them. -/

namespace Sys2Proof.Machine

def flag (b : Bool) (n : Nat) : Nat := if b then 2 ^ n else 0

/-- `VERSION` and `AQI_VERSION` (spec/00, spec/18). -/
def versionReg : Nat := 0x00030002
def aqiVersionReg : Nat := 0x00020001

/-- A cluster or an array of the block is retired (R531). -/
def anyRetired (s : State) : Bool := s.recovery.retiredClusters != 0 || s.recovery.retiredArrays != 0

/-- `BLK_STATUS` (R542). -/
def blkStatus (s : State) : Nat :=
  let b := s.boot
  b.calFail * 2 ^ 24 + b.leadId * 2 ^ 16 + b.phase * 2 ^ 12 + flag b.elected 7 + flag b.isLead 6 + b.slot * 32 +
  flag b.fallback 4 + flag (anyRetired s) 3 + flag b.standalone 2 + flag b.ready 0

/-- `LIFT_STATUS` (03 `LIFT_STATUS`). -/
def liftStatus (s : State) : Nat :=
  s.lift.error.toNat * 256 + flag (s.lift.slewNs != 0) 4 + flag s.lift.adrift 3 + flag s.lift.holdover 2 + s.lift.src.toNat

/-- The schuss chairs among the last 256 (R562). -/
def schussWindow (s : State) : Nat := (s.power.history.filter (fun c => decide (chairOf s < c + 256))).length
/-- The wear count: schuss chairs among the last 3,433,228 (R564). -/
def wearCount (s : State) : Nat := (s.power.history.filter (fun c => decide (chairOf s < c + 3433228))).length

/-- `PWR_STATUS` (R567). -/
def pwrStatus (s : State) : Nat :=
  let p := s.power
  schussWindow s * 2 ^ 20 + p.elevel * 2 ^ 16 + p.clevel * 2 ^ 12 + flag p.overBudget 7 + flag p.deep 6 + flag p.trip 5 +
  flag p.clamp 4 + flag p.wear 3 + flag p.schuss 2 + flag p.permit 1

/-- `FPG_STAT` (spec/09). -/
def fpgStat (s : State) (g : Nat) : Nat :=
  let x := groupAt s g
  x.lanes.toNat * 2 ^ 16 + x.ls * 2 ^ 10 + flag (groupTesting s g) 9 + flag x.enc 8 + flag x.retrain 3 + flag (groupCarries s g) 2 + x.rate

/-- `LANE_STAT` (spec/09). -/
def laneStat (x : Lane) : Nat :=
  x.pat * 2 ^ 12 + x.mode * 2 ^ 10 + flag x.inj 9 + flag x.loss 8 + flag x.lock 7 + flag x.sigdet 6

/-- A 48-bit counter register (spec/09 "Counters"). -/
def counter48 (n : Nat) : Nat := min n (2 ^ 48 - 1)

/-- `FQ_STATUS` (spec/13). -/
def fqStatus (s : State) : Nat := flag s.fq.overflow 31 + s.fq.ring.length

/-- The layout of `MBX_SENDER` (R388, R355). -/
def senderWord (a : Option Agent) : Nat :=
  match a with
  | none => 0
  | some (.host r) => 2 ^ 62 + r.func.toNat * 2 ^ 36 + (match r.pasid with | some p => 2 ^ 20 + p.toNat | none => 0)
  | some (.core id) => 2 * 2 ^ 62 + id.toNat
  | some (.sideband e) => 3 * 2 ^ 62 + e.toNat

/-- `MBX_CTL`: `ERR` reads 0 in mailboxes 1 and 3 (spec/12). -/
def mbxCtl (s : State) (m : Nat) : Nat := flag ((mailbox s m).err && m != 1 && m != 3) 7 + flag (mailbox s m).go 0

/-- `MBX_LOCK` as an agent reads it (R394). -/
def lockRead (s : State) (who : Agent) (m : Nat) : Nat :=
  match (mailbox s m).lock with
  | none => 0xFFFF
  | some (n, a) => if a = who then 0 else n.toNat

/-- The bytes of a fault record (R419). -/
def recordBytes (r : FaultRecord) : List Byte :=
  leBytes (seqWord r).toNat 4 ++ leBytes (causeClass r.cause * 2 ^ 12 + r.cause % 2 ^ 12) 2 ++
  leBytes (flag r.guilty 0 + flag r.victim 1 + flag r.noQueue 2 + flag r.noSlice 3 + flag r.resumable 4) 1 ++ leBytes r.block 1 ++
  leBytes r.tick 8 ++ leBytes r.slice 2 ++ leBytes r.queue 1 ++ leBytes r.context 1 ++ leBytes r.engine 2 ++ leBytes r.ports 1 ++
  leBytes r.dstatus 1 ++ leBytes r.addr 8 ++ leBytes (r.pc * 2 ^ 44 + r.desc) 8 ++ leBytes r.tag 4 ++ leBytes r.sharers 12 ++
  leBytes r.detail 8

/-- The last-fault slot of a slice, 64 zero bytes where it is empty (R427). -/
def lastFaultBytes (s : State) (slice : Nat) : List Byte :=
  match Sparse.get? s.fq.last slice with
  | some r => recordBytes r
  | none => List.replicate 64 0

/-- A tally word (R237). -/
def tallyWord (t : Tally) : Nat :=
  t.owner.toNat * 2 ^ 56 + flag t.paired 50 + flag t.poison 49 + flag t.sat 48 + t.value.toNat

/-! ### The doorbell pages (R41 to R43) -/

/-- `QSTATUS.STATE` (R41). -/
def qStateCode : QState → Nat
  | .idle => 1
  | .active => 2
  | .stopped => 3
  | .quiesced => 4

/-- `QSTATUS` (R41, R115): `RESIDENT` is the owning block's. -/
def qStatus (s : State) (x : Queue) : Nat :=
  let shown := if x.owner = s.boot.blkId then ((findContext s x.slice).map Context.shown).getD false else x.ownerResident
  x.ringLog2 % 32 * 2 ^ 16 + flag shown 15 + flag x.rt 14 + flag x.stale 13 + flag x.victim 12 + flag x.guilty 11 +
  qStateCode x.state * 256 + (if x.state = .stopped then x.dstatus else 0)

/-- `FAULT_SEQ` (R41, R44). -/
def faultSeqReg (x : Queue) : Nat := match x.faultSeq with | some n => 2 ^ 32 + n.toNat | none => 0

/-- An aligned 64-bit read of a doorbell page; every other read returns 0, and so does every read before `READY` (R42, R43,
R546). -/
def readDoorbellPage (s : State) (offset size : Nat) : Nat :=
  if !hostOpen s || size != 8 then 0 else
    match findQueue s (offset / 4096) (offset % 4096 / 64) with
    | none => 0
    | some x => if offset % 64 = 8 then x.completed else if offset % 64 = 16 then qStatus s x else if offset % 64 = 24 then faultSeqReg x else 0

/-! ### Region 0 (R569 to R575) -/

/-- The 64-bit register at an offset, as its value, or a 32-bit one; `none` where no register lies. -/
def readFabric (s : State) (off : Nat) : Nat :=
  let g := off / 0x200
  let o := off % 0x200
  let x := groupAt s g
  if 8 ≤ g then 0
  else if o = 0 then fpgStat s g
  else if o = 0x08 then counter48 x.fecSym
  else if o = 0x10 then counter48 x.fecUnc
  else if o = 0x18 then counter48 x.crc
  else if o = 0x20 then counter48 x.replay
  else if 0x40 ≤ o ∧ o < 0x100 then
    let l := laneAt s (6 * g + (o - 0x40) / 0x20)
    match (o - 0x40) % 0x20 with
    | 0x00 => laneStat l
    | 0x08 => counter48 l.errs
    | 0x10 => counter48 l.bits
    | 0x18 => counter48 l.injected
    | _ => 0
  else 0

/-- The registers of mailboxes 0 and 1 as the host reads them (R387, R397). -/
def readMbx (s : State) (who : Agent) (off : Nat) : Nat :=
  let m := off / 0x80
  let o := off % 0x80
  if 2 ≤ m then 0
  else if o < 0x40 ∧ o % 4 = 0 then (Sparse.get 0 (mailbox s m).data (o / 4)).toNat
  else if o = 0x40 then mbxCtl s m
  else if o = 0x48 then senderWord (mailbox s m).sender
  else if o = 0x50 then lockRead s who m
  else 0

/-- The interrupt unit's registers (spec/12). -/
def readIcu (s : State) (off : Nat) : Nat :=
  if off = 0 then flag s.icu.gdis 0
  else if 0x40 ≤ off ∧ off < 0x80 then (Sparse.get 0 s.icu.hold ((off - 0x40) / 4)).toNat
  else if 0x100 ≤ off ∧ off < 0x120 then (s.icu.pend >>> (32 * ((off - 0x100) / 4))).toNat % 2 ^ 32
  else if 0x140 ≤ off ∧ off < 0x160 then (s.icu.en >>> (32 * ((off - 0x140) / 4))).toNat % 2 ^ 32
  else if 0x200 ≤ off ∧ off < 0x300 then
    leNat ((List.range 4).map (fun k => (Sparse.get 0 s.icu.vec (off - 0x200 + k)).setWidth 8))
  else if 0x300 ≤ off ∧ off < 0x380 then (Sparse.get 0 s.icu.wakeSel ((off - 0x300) / 4)).toNat
  else 0

/-- The channel registers; those of the kind not in use read 0 (R397, R405, R406). -/
def readChannel (s : State) (off : Nat) : Nat :=
  let c := s.chan
  if off = 0 then c.kind % 4
  else if c.kind ≠ 0 then 0
  else if off = 0x08 then ownNode s * 2 ^ 52 + c.ringBase
  else if off = 0x10 then c.reqTail.toNat
  else if off = 0x14 then c.reqHead.toNat
  else if off = 0x18 then c.rplTail.toNat
  else if off = 0x1C then c.rplHead.toNat
  else if off = 0x20 then flag c.badWrite 0
  else 0

/-- The fault region (spec/13). -/
def readFaultRegion (s : State) (off : Nat) : Nat :=
  if off = 0 then fqStatus s
  else if off = 8 then s.fq.lastSeq.toNat
  else if 0x40 ≤ off ∧ off < 0x64 then Sparse.get 0 s.fq.drop ((off - 0x40) / 4 + 1)
  else if 0x10000 ≤ off then leNat (((lastFaultBytes s ((off - 0x10000) / 64)).drop (off % 64)).take 8)
  else 0

/-- The register that begins at an offset of region 0, whatever its width (spec/18). -/
def registerAt (s : State) (who : Agent) (off : Nat) : Nat :=
  if off = 0 then versionReg
  else if off = 4 then aqiVersionReg
  else if off = 8 then blkStatus s
  else if off = 0x0C then pwrStatus s
  else if off = 0x10 then s.lift.count.toNat
  else if off = 0x18 then liftStatus s
  else if 0x1000 ≤ off ∧ off < 0x1040 then readChannel s (off - 0x1000)
  else if 0x2000 ≤ off ∧ off < 0x2800 then readMbx s who (off - 0x2000)
  else if 0x4000 ≤ off ∧ off < 0x4400 then readIcu s (off - 0x4000)
  else if 0x10000 ≤ off ∧ off < 0x11000 then readFabric s (off - 0x10000)
  else if 0x20000 ≤ off ∧ off < 0x40000 then readFaultRegion s (off - 0x20000)
  else 0

/-- The 64-bit registers begin at multiples of 8 in these places. -/
def wideRegister (off : Nat) : Bool :=
  off == 0x10 || off == 0x1008 || (decide (0x2000 ≤ off) && decide (off < 0x2800) && off % 0x80 == 0x48) ||
  (decide (0x10000 ≤ off) && decide (off < 0x11000) && (off % 0x20 != 0 || off % 0x200 == 0x20)) || decide (0x30000 ≤ off)

/-- The 32 bits at an aligned offset. -/
def read32 (s : State) (who : Agent) (off : Nat) : Nat :=
  if off % 8 = 4 ∧ wideRegister (off - 4) then registerAt s who (off - 4) / 2 ^ 32 % 2 ^ 32 else registerAt s who off % 2 ^ 32

/-- The offsets that read their value before `READY` (R546). -/
def readsEarly (off : Nat) : Bool := off < 0x0C || (decide (0x10 ≤ off) && decide (off < 0x1C))

/-- A read of region 0 (R546, R570): 0 for any other size or alignment, and before `READY` for every register but five. -/
def readRegister (s : State) (who : Agent) (off size : Nat) : Nat :=
  let word := fun o => if s.boot.ready || readsEarly o then read32 s who o else 0
  if size = 4 ∧ off % 4 = 0 then word off
  else if size = 8 ∧ off % 8 = 0 then word off + 2 ^ 32 * word (off + 4)
  else 0

end Sys2Proof.Machine
end

