-- ==== Sys2Proof/Machine/Manage.lean ====
section
/-! DEFINITION. Manager commands (spec/11): how an accepted command takes its step (R362, R364), the manager role (R355 to
R359), configuration sets, their commands and commits (R365 to R371, R108, R309), and the commands that report. -/

namespace Sys2Proof.Machine

/-! ### The step of a command -/

/-- The accepted command with a sequence number and an opcode. -/
def cmdAt (s : State) (seq : Word32) (op : Nat) : Option CmdReq :=
  s.mgr.accepted.find? (fun c => c.seq == seq && c.opcode == op)

/-- A command that the blocks have been asked about. -/
def cmdAsked (c : CmdReq) : Bool := match c.phase with | .asked _ _ _ _ => true | _ => false

/-- The commands whose reports name only the slice: two of one kind never wait at once. -/
def oneAtATime (op : Nat) : Bool := [0x0104, 0x0202, 0x0401, 0x0402, 0x0504].contains op

/-- R364: a command accepted earlier that names the same slice and has not begun, or that has the same opcode and waits for reports
of the blocks. -/
def heldBack (s : State) (c : CmdReq) : Bool :=
  (fieldSlice c.sliceField).isSome && decide (c.phase = .fresh) &&
  (s.mgr.accepted.takeWhile (fun x => x.seq != c.seq)).any (fun x =>
    (decide (x.phase = .fresh) || (cmdAsked x && oneAtATime x.opcode && x.opcode == c.opcode)) && fieldSlice x.sliceField == fieldSlice c.sliceField)

/-- An accepted command takes its step: the management processor runs, and no earlier command of its slice is still to
begin (R364, R436). -/
def cmdStep (op : Nat) (seq : Word32) (act : CmdReq → State → State) (s : State) : Result :=
  match cmdAt s seq op with
  | none => .next s
  | some c => if !managerRuns s || heldBack s c then .next s else .next (act c s)

/-- The slice that a command names. -/
def cmdSlice (c : CmdReq) : Nat := (fieldSlice c.sliceField).getD 0

def setPhase (seq : Word32) (p : CmdPhase) (s : State) : State :=
  { s with mgr := { s.mgr with accepted := s.mgr.accepted.map (fun c => if c.seq = seq then { c with phase := p } else c) } }

/-- A field of a command's parameters. -/
def par (c : CmdReq) (a n : Nat) : Nat := byteField c.params a n

/-- A failover of this block's pair is between detection and step 6 of R453. -/
def failingOver (s : State) : Bool := decide (s.twin.state = .failedOver) && (s.twin.remapWanted || !s.twin.awaiting.isEmpty)

/-! ### Buffers of the manager -/

/-- The range lies in the memory of a block of the part. -/
def bufferOk (s : State) (pa len : Nat) : Bool :=
  (partBlocks s).any (fun b => nodeOf s b == paNode pa) && decide (paLocal pa + len ≤ nodeBytes s)

/-- Write a manager's buffer: here under key slot 0 (R588), or by packets to the block that holds it. -/
def bufferWrite (pa : Nat) (bs : List Byte) (s : State) : State :=
  if paNode pa = ownNode s then memWrite (paLocal pa) 0 bs s
  else (chunks 256 bs.length pa bs.length).foldl (fun s c =>
    postRequest 0 (dataPacket 1 2 (paNode pa) c.1 0 c.2 ((bs.drop (c.1 - pa)).take c.2)) .none .discard s) s

/-- Read a manager's buffer; another block's bytes are free (log 15). -/
def bufferRead (s : State) (pa len : Nat) : Option (List Byte) :=
  if paNode pa = ownNode s then memRead s 0 (paLocal pa) len else Config.remoteBytes s.free pa len

/-- A buffer whose bytes cannot be corrected: the record of R508, and the command fails its check (log 31). -/
def bufferBad (c : CmdReq) (pa : Nat) (s : State) : State := failCmd c stIntegrity (writeRecord (plainRecord 0x502 pa 0) s)

/-! ### The manager role (R355 to R359) -/

/-- The highest sequence number in the log; 0 while it is empty. -/
def highestSeq (s : State) : Nat := (s.mgr.log.map (fun e => e.1.toNat)).foldl max 0

/-- The detail of a `CLAIM_MANAGER` reply (R355, R578). -/
def claimDetail (s : State) : List Byte :=
  leBytes (senderWord s.mgr.holder) 8 ++ leBytes (if s.mgr.holder.isSome then s.mgr.expiry else 0) 8 ++ leBytes (highestSeq s) 4

/-- Grant or renew the lease: it runs from the tick at which the command was accepted (R356). -/
def grantLease (who : Agent) (tick : Nat) (s : State) : State :=
  { s with mgr := { s.mgr with holder := some who, expiry := tick + Config.leaseTicks, warned := false, lapsed := false } }

def freeRole (s : State) : State := { s with mgr := { s.mgr with holder := none, expiry := 0, warned := false } }

def doClaim (c : CmdReq) (s : State) : State :=
  let mine := decide (s.mgr.holder = some c.sender)
  if par c 0 1 = 1 then
    if mine then let t := freeRole s; finishOk c 0 (claimDetail t) t
    else finish c stDenied 0 (claimDetail s) s
  else if s.mgr.holder.isNone || mine then let t := grantLease c.sender c.tick s; finishOk c 0 (claimDetail t) t
  else finish c stDenied 0 (claimDetail s) s

/-- CLAIM_MANAGER: takes or frees the role (R355, R356, R358). -/
def execClaimManager (seq : Word32) (s : State) : Result := cmdStep 0x0806 seq doClaim s

/-- A renewal took effect at its acceptance (R356); its step replies with the tick at which the lease expires. -/
def doRenew (c : CmdReq) (s : State) : State := finishOk c 0 (leBytes (c.tick + Config.leaseTicks) 8) s

/-- LEASE_RENEW: the lease runs for its full length from the acceptance (R356, R359). -/
def execLeaseRenew (seq : Word32) (s : State) : Result := cmdStep 0x0807 seq doRenew s

/-- LEASE_WARNING: 4 s have passed without a renewal (R356). -/
def execLeaseWarning (s : State) : Result :=
  if s.mgr.holder.isSome && !s.mgr.warned && decide (s.mgr.expiry + Config.leaseWarnTicks ≤ now s + Config.leaseTicks) then
    .next (raiseSource 3 { s with mgr := { s.mgr with warned := true } })
  else .next s

/-- The management plane is stalled: a lockstep restart, an expired lease, or a firmware hand-off (R25). -/
def managerStalled (s : State) : Bool :=
  s.recovery.restartSince.isSome || s.mgr.lapsed || (s.fw.handoff.map (fun h => h.2.isSome)).getD false

/-- A stall begins: the go of a pending commit is taken back on every block, so that no set swaps during it (R25); the commit is staged
again once the stall is over (log 76). -/
def holdCommit (s : State) : State :=
  let s1 := match s.cfg.commit with
    | some k => if k.confirms.isEmpty then s else emitD2d (otherBlocks s) (.mgmt (.abort k.next.serial.toNat)) s
    | none => s
  { s1 with cfg := { s.cfg with commit := s.cfg.commit.map (fun k => { k with go := none, confirms := [] }) } }

/-- LEASE_EXPIRY: the lease has run out: the role is free, edits are discarded, the shadow returns to the rollback copy, and
the channel's mailboxes are reset when the holder held its lock (R25, R356, R359, R392). -/
def execLeaseExpiry (s : State) : Result :=
  if s.mgr.holder.isSome && decide (s.mgr.expiry ≤ now s) then
    let lost := decide ((mailbox s 0).lock.map Prod.snd = s.mgr.holder)
    let s0 := holdCommit (freeRole s)
    let s1 := raiseSource 4 ({ s0 with
      mgr := { s0.mgr with lapsed := true }
      cfg := { s0.cfg with shadow := s.cfg.rollback.getD s.cfg.active, edited := false } })
    .next (if lost then resetMailbox 1 (resetMailbox 0 s1) else s1)
  else .next s

/-! ### Set commands: parameters (R370, R107, R108, R309) -/

def newCfg (slice : Nat) (ps : List Byte) : SliceCfg :=
  { id := slice, identity := { func := BitVec.ofNat 16 (byteField ps 0 2), pasid := some (BitVec.ofNat 20 (byteField ps 4 4)) },
    table := byteField ps 8 8, tableLog2 := byteField ps 16 1 }

/-- Share entry `i` of an `ASSIGN_POOL` (R370). -/
def shareOf (ps : List Byte) (i : Nat) : Share :=
  let b := byteField ps (24 + 4 * i) 1
  { port := b.testBit 7, unit := if b.testBit 7 then b % 8 else b % 32, units := byteField ps (25 + 4 * i) 1,
    firstBank := byteField ps (26 + 4 * i) 1, banks := byteField ps (27 + 4 * i) 1 }

def poolOf (slice : Nat) (ps : List Byte) : Pool :=
  { slice := slice, block := byteField ps 0 1, qlimit := byteField ps 2 1, epmask := BitVec.ofNat 8 (byteField ps 3 1),
    clmask := BitVec.ofNat 32 (byteField ps 4 4), windows := byteField ps 8 2, save := byteField ps 16 8,
    shares := (List.range (byteField ps 1 1)).map (shareOf ps) }

/-- R370: an assignment that removes the slice's pool. -/
def poolEmpty (p : Pool) : Bool := p.clmask == 0 && p.epmask == 0 && p.shares.isEmpty

def rtOf (slice : Nat) (ps : List Byte) : RtShare :=
  { slice := slice, queue := byteField ps 0 1, units := byteField ps 1 1,
    clusters := (List.range (byteField ps 2 1)).map (fun i => (byteField ps (8 + 8 * i) 1, BitVec.ofNat 32 (byteField ps (12 + 8 * i) 4))) }

/-- The window entry at bytes 8 to 39 of a `SET_WINDOW` (R309). -/
def windowOf (ps : List Byte) : Window :=
  let w := byteField ps 16 8
  { block := byteField ps 0 1, id := byteField ps 2 2, tbase := byteField ps 8 8, length := w % 2 ^ 40, owner := bitsOf 49 40 w,
    v := w.testBit 50, rd := w.testBit 51, wr := w.testBit 52, at' := w.testBit 53, red := w.testBit 54,
    allow := BitVec.ofNat 22 (byteField ps 24 4), amask := BitVec.ofNat 22 (byteField ps 28 4) }

def inPart (s : State) (b : Nat) : Bool := (partBlocks s).contains b

/-- A share entry in range (R370): partitions of 4 to 32 banks in steps of 4 that lie within the 32. -/
def shareOk (ps : List Byte) (i : Nat) : Bool :=
  let b := byteField ps (24 + 4 * i) 1
  let h := shareOf ps i
  decide (1 ≤ h.units) && decide (h.units ≤ 63) &&
  (if h.port then bitsOf 6 3 b == 0 && h.firstBank == 0 && h.banks == 0
   else bitsOf 6 5 b == 0 && h.firstBank % 4 == 0 && h.banks % 4 == 0 && decide (4 ≤ h.banks) && decide (h.firstBank + h.banks ≤ 32))

/-- Two shares on one cluster whose partitions meet (R131). -/
def sharesMeet (a b : Share) : Bool :=
  !a.port && !b.port && a.unit == b.unit && decide (a.firstBank < b.firstBank + b.banks) && decide (b.firstBank < a.firstBank + a.banks)

/-- The shares of a list each name a unit of their own. -/
def sharesApart : List Share → Bool
  | [] => true
  | h :: hs => hs.all (fun g => !(g.port == h.port && g.unit == h.unit)) && sharesApart hs

/-- The pool holds a unit exclusively. -/
def poolHolds (p : Pool) (port : Bool) (u : Nat) : Bool := if port then p.epmask.getLsbD u else p.clmask.getLsbD u

/-- The other pools of a block. -/
def otherPools (set : CfgSet) (p : Pool) : List Pool := set.pools.filter (fun q => q.block == p.block && q.slice != p.slice)

/-- The clusters of the slice's real-time reservations on a block (R371). -/
def rtClusters (set : CfgSet) (slice block : Nat) : BitVec 32 :=
  ((set.rts.filter (fun r => r.slice == slice)).map (fun r => (r.clusters.filter (fun b => b.1 == block)).map Prod.snd)).flatten.foldl
    (fun a b => a ||| b) 0

def poolParamsOk (s : State) (set : CfgSet) (slice : Nat) (ps : List Byte) : Bool :=
  let p := poolOf slice ps
  inPart s p.block && decide (p.shares.length ≤ 32) && decide (1 ≤ p.qlimit) && decide (p.qlimit ≤ 64) && decide (p.windows ≤ 1024) &&
  (List.range p.shares.length).all (shareOk ps) && sharesApart p.shares &&
  p.shares.all (fun h => !poolHolds p h.port h.unit) &&
  (otherPools set p).all (fun q => q.shares.all (fun g => p.shares.all (fun h => !sharesMeet g h))) &&
  (p.block != s.boot.blkId || ((p.epmask &&& ~~~s.boot.epPresent) == 0 && p.shares.all (fun h => !h.port || s.boot.epPresent.getLsbD h.unit))) &&
  (rtClusters set slice p.block &&& ~~~p.clmask) == 0

/-- The units that a pool takes of a cluster or port: all 64 of one held exclusively. -/
def unitsTaken (p : Pool) (port : Bool) (u : Nat) : Nat :=
  if poolHolds p port u then 64 else ((p.shares.filter (fun h => h.port == port && h.unit == u)).map Share.units).sum

def ownedWindows (set : CfgSet) (slice block : Nat) : Nat :=
  (set.windows.filter (fun w => w.owner == slice && w.block == block && w.v)).length

/-- R371 and the limits of the assignment. -/
def poolResources (s : State) (set : CfgSet) (slice : Nat) (ps : List Byte) : Bool :=
  let p := poolOf slice ps
  let others := otherPools set p
  poolEmpty p ||
  ((List.range 40).all (fun i =>
      let port := decide (32 ≤ i)
      let u := if port then i - 32 else i
      unitsTaken p port u == 0 || decide (unitsTaken p port u + (others.map (fun q => unitsTaken q port u)).sum ≤ 64)) &&
    decide (others.length < 1024) && decide (ownedWindows set slice p.block ≤ p.windows) &&
    decide ((s.queues.filter (fun q => q.slice == slice && q.owner == p.block)).length ≤ p.qlimit))

/-- The number of bits set in a mask. -/
def popCount (m : BitVec 32) : Nat := ((List.range 32).filter (fun i => m.getLsbD i)).length

/-- R108: each entry names a block of the part once, and exactly ⌈u/2⌉ clusters that the slice holds there exclusively. -/
def rtParamsOk (s : State) (set : CfgSet) (slice : Nat) (ps : List Byte) : Bool :=
  let r := rtOf slice ps
  (findQueue s slice r.queue).isSome && decide (r.units ≤ 32) && decide ((r.clusters.map Prod.fst).Nodup) &&
  r.clusters.all (fun b => inPart s b.1 && popCount b.2 == (r.units + 1) / 2 &&
    (match set.pools.find? (fun p => p.slice == slice && p.block == b.1) with
     | some p => (b.2 &&& ~~~p.clmask) == 0
     | none => false))

def otherRts (set : CfgSet) (r : RtShare) : List RtShare := set.rts.filter (fun x => !(x.slice == r.slice && x.queue == r.queue))

/-- R108: at most 64 real-time queues in the part and 32 units on each block. -/
def rtResources (set : CfgSet) (slice : Nat) (ps : List Byte) : Bool :=
  let r := rtOf slice ps
  r.units == 0 || (decide ((otherRts set r).length < 64) && r.clusters.all (fun b =>
    decide (r.units + (((otherRts set r).filter (fun x => x.clusters.any (fun c => c.1 == b.1))).map RtShare.units).sum ≤ 32)))

def windowParamsOk (s : State) (slice : Nat) (ps : List Byte) : Bool :=
  let w := windowOf ps
  inPart s w.block && decide (w.id < 1024) && decide (w.tbase < 2 ^ 56) && byteField ps 16 8 / 2 ^ 55 == 0 &&
  decide (byteField ps 24 4 < 2 ^ 22) && decide (byteField ps 28 4 < 2 ^ 22) && byteField ps 32 8 == 0 && w.owner == slice

/-- The pool's window limit is kept, and the table entry is not another slice's (log 32). -/
def windowResources (set : CfgSet) (slice : Nat) (ps : List Byte) : Bool :=
  let w := windowOf ps
  let others := set.windows.filter (fun x => x.owner == slice && x.block == w.block && x.id != w.id && x.v)
  (match windowAt set w.block w.id with | some x => x.owner == slice || !x.v | none => true) &&
  (match set.pools.find? (fun p => p.slice == slice && p.block == w.block) with
   | some p => !w.v || decide (others.length < p.windows)
   | none => false)

def setHolds (set : CfgSet) (slice : Nat) : Bool := set.slices.any (fun c => c.id == slice)

/-- The parameters of a set command are in range for a set. -/
def setParamsOk (s : State) (set : CfgSet) (op slice : Nat) (ps : List Byte) : Bool :=
  if op = 0x0101 then !setHolds set slice && sliceFree s slice && decide (10 ≤ byteField ps 16 1) && decide (byteField ps 16 1 ≤ 24)
  else if op = 0x0701 then decide (200 ≤ byteField ps 0 4) && decide (byteField ps 0 4 ≤ 2400)
  else setHolds set slice &&
    (if op = 0x0106 then poolParamsOk s set slice ps
     else if op = 0x0204 then rtParamsOk s set slice ps
     else if op = 0x0307 then windowParamsOk s slice ps
     else if op = 0x0308 then
       (match windowAt set (byteField ps 0 1) (byteField ps 2 2) with | some w => w.owner == slice | none => false)
     else true)

/-- The resources that a set command needs are there. -/
def setResources (s : State) (set : CfgSet) (op slice : Nat) (ps : List Byte) : Bool :=
  if op = 0x0106 then poolResources s set slice ps
  else if op = 0x0204 then rtResources set slice ps
  else if op = 0x0307 then windowResources set slice ps
  else true

/-- What a set command makes of a set. -/
def setApply (set : CfgSet) (op slice : Nat) (ps : List Byte) : CfgSet :=
  if op = 0x0101 then { set with slices := set.slices ++ [newCfg slice ps] }
  else if op = 0x0102 then
    { set with
      slices := set.slices.filter (fun c => c.id != slice), pools := set.pools.filter (fun p => p.slice != slice)
      rts := set.rts.filter (fun r => r.slice != slice), windows := set.windows.filter (fun w => w.owner != slice) }
  else if op = 0x0106 then
    let p := poolOf slice ps
    let rest := set.pools.filter (fun q => !(q.slice == slice && q.block == p.block))
    { set with pools := if poolEmpty p then rest else rest ++ [p] }
  else if op = 0x0204 then
    let r := rtOf slice ps
    { set with rts := if r.units = 0 then otherRts set r else otherRts set r ++ [r] }
  else if op = 0x0307 then
    let w := windowOf ps
    { set with windows := set.windows.filter (fun x => !(x.block == w.block && x.id == w.id)) ++ [w] }
  else if op = 0x0308 then
    { set with windows := set.windows.filter (fun x => !(x.block == byteField ps 0 1 && x.id == byteField ps 2 2)) }
  else { set with envelope := byteField ps 0 4 }

/-! ### Commits (R365 to R369) -/

/-- A slice's resources: its pools and the windows it owns (R368). -/
def resourcesOf (set : CfgSet) (slice : Nat) : List Pool × List Window :=
  (set.pools.filter (fun p => p.slice == slice), set.windows.filter (fun w => w.owner == slice))

/-- The slices of a set whose resources another set changes, or which it no longer has. -/
def changedSlices (a b : CfgSet) : List Nat :=
  (a.slices.map SliceCfg.id).filter (fun i => decide (resourcesOf a i ≠ resourcesOf b i) || !setHolds b i)

def queueAtRest (x : Queue) : Bool := decide (x.state = .quiesced) || decide (x.state = .stopped)

/-- The lowest queue of a slice that is neither `QUIESCED` nor `STOPPED` (R368). -/
def unquiesced (s : State) (slice : Nat) : Option Nat :=
  (List.range 64).find? (fun q => match findQueue s slice q with | some x => !queueAtRest x | none => false)

/-- `DETAIL0` of `NOT_QUIESCED` for the first slice that a commit changes and that is not quiesced (R361, R368). -/
def notQuiesced (s : State) (slices : List Nat) : Option Nat :=
  slices.findSome? (fun i => (unquiesced s i).map (fun q => i + q * 2 ^ 16))

/-- R367: stage a commit in this chair's relay zone, or in the next when the zone is open already. -/
def stageCommit (c : CmdReq) (next : CfgSet) (s : State) : State :=
  let chair := if tickOf s < Config.relayTick then chairOf s else chairOf s + 1
  setPhase c.seq .waiting { s with cfg := { s.cfg with commit := some { seq := c.seq, chair := chair, next := next, confirms := [], go := none } } }

/-- A set command issued directly (R365): it edits and commits in one step. -/
def doSetDirect (c : CmdReq) (s : State) : State :=
  let op := c.opcode
  let slice := cmdSlice c
  if c.phase ≠ .fresh then s
  else if !setParamsOk s s.cfg.active op slice c.params then failCmd c stBadParam s
  else if s.cfg.commit.isSome then failCmd c stBusy s
  else if s.cfg.edited then failCmd c stShadow s
  else
    let next := setApply s.cfg.active op slice c.params
    match notQuiesced s (changedSlices s.cfg.active next) with
    | some d => finish c stNotQuiesced d [] s
    | none => if setResources s s.cfg.active op slice c.params then stageCommit c next s else failCmd c stNoResource s

/-- CREATE_SLICE (R365, R383, R576). -/
def execCreateSlice (seq : Word32) (s : State) : Result := cmdStep 0x0101 seq doSetDirect s

/-- DESTROY_SLICE (R365, R368, R383). -/
def execDestroySlice (seq : Word32) (s : State) : Result := cmdStep 0x0102 seq (fun c s => doSetDirect c s) s

/-- ASSIGN_POOL (R370, R371). -/
def execAssignPool (seq : Word32) (s : State) : Result := cmdStep 0x0106 seq (fun c s => doSetDirect c s) s

/-- SET_RT_SHARE (R107, R108). -/
def execSetRtShare (seq : Word32) (s : State) : Result := cmdStep 0x0204 seq (fun c s => doSetDirect c s) s

/-- SET_WINDOW (R309). -/
def execSetWindow (seq : Word32) (s : State) : Result := cmdStep 0x0307 seq (fun c s => doSetDirect c s) s

/-- CLEAR_WINDOW. -/
def execClearWindow (seq : Word32) (s : State) : Result := cmdStep 0x0308 seq (fun c s => doSetDirect c s) s

/-- SET_ENVELOPE (R554). -/
def execSetEnvelope (seq : Word32) (s : State) : Result := cmdStep 0x0701 seq (fun c s => doSetDirect c s) s

/-- The carried command of an `EDIT_SHADOW`. -/
def carriedOp (c : CmdReq) : Nat := par c 0 2
def carriedField (c : CmdReq) : Word16 := BitVec.ofNat 16 (par c 2 2)
def carriedParams (c : CmdReq) : List Byte := c.params.drop 16

def doEdit (c : CmdReq) (s : State) : State :=
  let op := carriedOp c
  let slice := ((fieldSlice (carriedField c)).getD 0)
  let set := if s.cfg.edited then s.cfg.shadow else s.cfg.active
  if !setOps.contains op || !paramsOk op (carriedParams c) || !sliceForm op (carriedField c) ||
      !setParamsOk s set op slice (carriedParams c) then failCmd c stBadParam s
  else if s.cfg.commit.isSome then failCmd c stBusy s
  else if par c 4 4 ≠ s.cfg.active.serial.toNat then failCmd c stShadow s
  else if !setResources s set op slice (carriedParams c) then failCmd c stNoResource s
  else finishOk c set.serial.toNat []
    { s with cfg := { s.cfg with shadow := setApply set op slice (carriedParams c), edited := true } }

/-- EDIT_SHADOW: applies one set command to the shadow (R365, R366). -/
def execEditShadow (seq : Word32) (s : State) : Result := cmdStep 0x0808 seq doEdit s

def doCommit (c : CmdReq) (s : State) : State :=
  let revert := par c 0 1 == 1
  if c.phase ≠ .fresh then s
  else if revert && (s.cfg.edited || s.cfg.rollback.isNone) then failCmd c stBadParam s
  else if s.cfg.commit.isSome then failCmd c stBusy s
  else if par c 4 4 ≠ s.cfg.active.serial.toNat then failCmd c stShadow s
  else
    let next := if revert then s.cfg.rollback.getD s.cfg.active else if s.cfg.edited then s.cfg.shadow else s.cfg.active
    match notQuiesced s (changedSlices s.cfg.active next) with
    | some d => finish c stNotQuiesced d [] s
    | none => stageCommit c next s

/-- COMMIT_SHADOW: commits every edit made since the last swap, or the rollback copy (R365 to R369). -/
def execCommitShadow (seq : Word32) (s : State) : Result := cmdStep 0x0809 seq doCommit s

/-! ### Commands that report (R375, R425, R566) -/

/-- A 32-bit figure of another block: it lies outside this block's state (log 33). -/
def blockFigure (s : State) (b own : Nat) : Nat :=
  if b = s.boot.blkId then own else if inPart s b then Config.freeNat (s.free + b) % 2 ^ 32 else 0

/-- The clusters that have a retired array. -/
def arrayClusters (s : State) : Nat :=
  ((List.range 32).map (fun c => if (List.range 4).any (fun a => s.recovery.retiredArrays.getLsbD (4 * c + a)) then 2 ^ c else 0)).sum

/-- The detail of `QUERY_CAPS` (R375). -/
def capsDetail (s : State) : List Byte :=
  leBytes 5 1 ++ leBytes s.chan.kind 1 ++ leBytes s.boot.admitted.toNat 1 ++ leBytes s.boot.leadId 1 ++ leBytes versionReg 4 ++
  leBytes aqiVersionReg 4 ++ leBytes s.fw.revision.toNat 4 ++ leBytes s.cfg.active.serial.toNat 4 ++
  ((List.range 8).map (fun b => leBytes (nodeOf s b) 2)).flatten ++
  ((List.range 8).map (fun b => leBytes (blockFigure s b s.recovery.retiredClusters.toNat) 4)).flatten ++
  ((List.range 8).map (fun b => leBytes (blockFigure s b (arrayClusters s)) 4)).flatten

def doCaps (c : CmdReq) (s : State) : State := finishOk c 0 (capsDetail s) { s with free := s.free + 8 }

/-- QUERY_CAPS (R375). -/
def execQueryCaps (seq : Word32) (s : State) : Result := cmdStep 0x0801 seq doCaps s

def doReadFaults (c : CmdReq) (s : State) : State :=
  let n := min (par c 0 4) s.fq.ring.length
  let pa := par c 8 8
  if !bufferOk s pa (64 * n) then failCmd c stBadParam s else
    let moved := s.fq.ring.take n
    let s1 := bufferWrite pa ((moved.map recordBytes).flatten) { s with fq := { s.fq with ring := s.fq.ring.drop n } }
    let s2 := refreshLevels s1
    finishOk c 0 (leBytes n 4 ++ leBytes ((moved.head?.map (fun r => (seqWord r).toNat)).getD 0) 4 ++ leBytes (fqStatus s2) 4) s2

/-- READ_FAULTS: moves the oldest records of the fault ring into the manager's buffer (R425). -/
def execReadFaults (seq : Word32) (s : State) : Result := cmdStep 0x0505 seq doReadFaults s

/-- One entry of a slice's chair report (R566). -/
def chairEntry (e : Nat × Nat × Nat × Bool) : List Byte :=
  leBytes e.1 8 ++ leBytes e.2.1 2 ++ leBytes e.2.2.1 2 ++ leBytes (flag e.2.2.2 0) 1 ++ leBytes 0 3

/-- The bytes of a telemetry report; only selector 0x0010 has a layout (R566, log 12). -/
def telemetryReport (s : State) (selector slice : Nat) : List Byte :=
  if selector = 0x10 then
    let h := ((findSlice s slice).map Slice.history).getD []
    ((h.drop (h.length - 64)).map chairEntry).flatten
  else Config.telemetryBytes s.free selector

def doTelemetry (c : CmdReq) (s : State) : State :=
  let pa := par c 8 8
  let bs := (telemetryReport s (par c 0 2) (cmdSlice c)).take (par c 16 4)
  if !bufferOk s pa (par c 16 4) then failCmd c stBadParam s
  else finishOk c 0 (leBytes bs.length 4) (bufferWrite pa bs (stepFree s))

/-- READ_TELEMETRY (R566). -/
def execReadTelemetry (seq : Word32) (s : State) : Result := cmdStep 0x0805 seq doTelemetry s

end Sys2Proof.Machine
end

