-- ==== Sys2Proof/Machine/Slices.lean ====
section
/-! DEFINITION. Commands on slices and queues (spec/11 "Quiesce, reset and destroy"), segments and dirty logs (spec/08),
the sync dump and `SET_TALLY` (spec/07), snapshots (R384), and how a member answers the lead (R33, R376). -/

namespace Sys2Proof.Machine

/-! ### Other blocks -/

/-- The other blocks that hold a pool of the slice or a window that it owns (R298). -/
def sliceBlocks (s : State) (slice : Nat) : List Nat :=
  (otherBlocks s).filter (fun b => s.cfg.active.pools.any (fun p => p.slice == slice && p.block == b) ||
    s.cfg.active.windows.any (fun w => w.owner == slice && w.block == b))

/-- Pass a command on to other blocks, with the tick that it is about. -/
def passOnAt (blks : List Nat) (c : CmdReq) (tick : Nat) (s : State) : State :=
  emitD2d blks (.mgmt (.command c.opcode (cmdSlice c) c.params tick)) s

/-- Pass a command on to other blocks. -/
def passOn (blks : List Nat) (c : CmdReq) (s : State) : State := passOnAt blks c (now s) s

/-- A member reports what it has done. -/
def reportBlock (op slice : Nat) (ok : Bool) (entries : List (List Byte)) (queues : List (Nat × Nat × Nat)) (s : State) : State :=
  sendD2d s.boot.leadId (.mgmt (.blockReport
    { block := s.boot.blkId, opcode := op, slice := slice, ok := ok, entries := entries, queues := queues })) s

/-- An access of an earlier era of the slice: one translated under an earlier generation, or before a log swap. -/
def earlier (s : State) (slice : Nat) (work : Option Nat) (era : Nat) : Bool := work == some slice && decide (era < sliceEra s slice)

/-- An access of the slice that an earlier generation translated is outstanding, at a memory port or in the fabric (R301 step 5). -/
def eraBusy (s : State) (slice : Nat) : Bool :=
  s.mp.out.any (fun r => earlier s slice r.slice r.era) || s.mp.queue.any (fun r => earlier s slice r.slice r.era) ||
  s.fab.txns.any (fun t => earlier s slice t.work t.era)

/-- The request's bytes are to be written on. -/
def writesOn : OnRead → Bool
  | .writeOn _ _ _ _ => true
  | _ => false

/-- A write logged in the old bitmap is outstanding (R308). -/
def logBusyEra (s : State) (slice : Nat) : Bool :=
  let old := fun (r : MemReq) => (r.write || writesOn r.onRead) && earlier s slice r.slice r.era
  s.mp.out.any old || s.mp.queue.any old ||
  s.fab.txns.any (fun t => (decide (2 ≤ t.packet.type) || writesOn t.onRead) && earlier s slice t.work t.era)

/-- A pending commit changes the slice's resources (R368). -/
def commitChanges (s : State) (slice : Nat) : Bool :=
  match s.cfg.commit with
  | some k => (changedSlices s.cfg.active k.next).contains slice
  | none => false

/-! ### Stopping queues (R376 to R380) -/

/-- `RESET_SLICE` names every queue of the slice; `QUIESCE` those of its mask. -/
def namedQueues (s : State) (op slice : Nat) (ps : List Byte) : List Nat :=
  (List.range 64).filter (fun q => (findQueue s slice q).isSome && (op == 0x0105 || (byteField ps 0 8).testBit q))

/-- The stop is forced: every `RESET_SLICE`, and a `QUIESCE` with `FORCE`. -/
def stopForced (op : Nat) (ps : List Byte) : Bool := op == 0x0105 || byteField ps 8 1 == 1

/-- One entry of the engine list (R379). -/
def engineEntry (s : State) (u : UnitId) (eng q how pc dropped : Nat) : List Byte :=
  leBytes (engineId s u eng) 2 ++ leBytes q 1 ++ leBytes how 1 ++ leBytes (pc % 2 ^ 20 + min dropped 4095 * 2 ^ 20) 4

/-- Requests of an owner that have not been issued (R377 step 2). -/
def unissued (s : State) (o : Owner) : Nat :=
  (s.mp.queue.filter (fun r => decide (r.owner = o))).length + (s.fab.txns.filter (fun t => decide (t.owner = o) && !t.sent)).length

/-- How an engine stops: `SORT` is abandoned, an `EPCALL` handed off runs on, every other stops at a restart point (R229,
R377, R379). -/
def stopHow (e : EngInsn) : Nat := if handedOff e then 3 else if opOf e.word = 0x40 ∧ e.started then 2 else 1

/-- The engines of a unit that run work of the named queues (R379). -/
def unitEntries (s : State) (qs : List Nat) (x : UnitCtx) : List (List Byte) :=
  let front := match x.seq with
    | some z => if qs.contains z.run.queue then [engineEntry s x.unit 0 z.run.queue 1 z.pc 0] else []
    | none => []
  let moving := if decide (moverOf s x.slice = x.unit) then qs.find? (fun q => s.mp.out.any (fun r => match r.owner with | .desc sl k _ => sl == x.slice && k == q | _ => false) ||
      s.mp.queue.any (fun r => match r.owner with | .desc sl k _ => sl == x.slice && k == q | _ => false)) else none
  front ++ ((List.range 10).map (fun eng =>
    match x.insns.find? (fun e => e.eng == eng) with
    | some e => if qs.contains e.queue then [engineEntry s x.unit eng e.queue (stopHow e) e.pc (unissued s (.insn x.unit x.slice e.id))] else []
    | none => match moving with | some q => if eng = 8 then [engineEntry s x.unit 8 q 1 0 0] else [] | none => [])).flatten

/-- R24: the engines that a fault has stopped in this tick, in work of a named queue: the fault abandoned what they did (log 80). -/
def faultEntries (s : State) (slice : Nat) (qs : List Nat) : List (List Byte) :=
  (s.tick.faults.filter (fun f => f.1 == slice && qs.contains f.2.1)).map (fun f =>
    leBytes f.2.2.1 2 ++ leBytes f.2.1 1 ++ leBytes 2 1 ++ leBytes (f.2.2.2 % 2 ^ 20) 4)

/-- What a stop finds on each engine of this block (R24, R379). -/
def engineEntries (s : State) (slice : Nat) (qs : List Nat) : List (List Byte) :=
  ((s.units.filter (fun x => x.slice == slice)).map (unitEntries s qs)).flatten ++ faultEntries s slice qs

/-- A queue has a run, an instruction or a request of its own on this block. -/
def queueWorks (s : State) (slice q : Nat) : Bool :=
  s.units.any (fun x => x.slice == slice && (!(runsOfQueue x q).isEmpty || (allInsns x).any (fun e => e.queue == q))) ||
  ((findSlice s slice).map (fun x => x.runs.any (fun r => r.queue == q))).getD false ||
  s.mp.out.any (fun r => ownerOf s slice q r.owner) || s.mp.queue.any (fun r => ownerOf s slice q r.owner) ||
  s.fab.txns.any (fun t => ownerOf s slice q t.owner)

/-! ### The run-control word (R16, R17) -/

def controlOf (s : State) (slice : Nat) : RunControl := ((findSlice s slice).map Slice.ctl).getD {}

/-- The management plane writes a request into a slice's run-control word (R16). -/
def writeControl (slice : Nat) (f : RunControl → RunControl) (s : State) : State := mapSlice slice (fun x => { x with ctl := f x.ctl }) s

/-- The control plane writes the acknowledge field, and nothing else of the word (R17). -/
def writeAck (slice : Nat) (entries : List (List Byte)) (s : State) : State := writeControl slice (fun k => { k with ack := some entries }) s

/-- What the control plane has acknowledged. -/
def ackOf (s : State) (slice : Nat) : List (List Byte) := (controlOf s slice).ack.getD []

/-- A queue whose `COMPLETED` has counted every descriptor of the done prefix (R83 step 3). -/
def countedQueue (s : State) (x : Queue) : Queue := advanceQueue (now s) (countLimit s x) x

/-- Step 5 of R377, and R380: counts frozen and made equal, no mark. -/
def haltedQueue (reset : Bool) (seq : Word32) (x : Queue) : Queue :=
  { x with
    state := if reset then .stopped else .quiesced
    dstatus := if reset then 0x0F else 0
    guilty := false, victim := false, descs := [], posted := x.completed, fetched := x.completed, armed := false, rung := false
    timer := 0, quiescing := false, faultSeq := some seq }

/-- Halt one queue of this block with its `MANAGER_STOP` record (R377, R380). -/
def haltQueue (slice : Nat) (reset : Bool) (s : State) (q : Nat) : State :=
  match findQueue s slice q with
  | none => s
  | some x =>
    if x.owner ≠ s.boot.blkId then s else
      let seq := nextSeq s
      let r : FaultRecord := {
        cause := 0x30D, slice := slice, queue := q, context := contextSlot s slice
        dstatus := if reset then 0x0F else 0, desc := headIndex x % 2 ^ 44, tag := descTag s slice q (headIndex x) }
      reportQueue slice q (mapQueue slice q (fun y => haltedQueue reset seq (countedQueue s y)) (writeRecord r s))

/-- R269: `COUNT` and the list of every gate that the slice holds here are cleared; `GEN` stays. -/
def clearGates (slice : Nat) (s : State) : State :=
  { s with gates := s.gates.map (fun e =>
      if !e.2.free ∧ e.2.tag = sliceTag s slice then (e.1, { e.2 with count := 0, list := [] }) else e) }

/-- Drop every cached translation of a slice (R377 step 4). -/
def dropXlat (slice : Nat) (s : State) : State :=
  { s with xlat := { s.xlat with cache := s.xlat.cache.filter (fun x => x.slice != slice) } }

/-- R377 and R380 on this block: the queues' work stops, the contexts involved are poisoned, the queues halt, and the acknowledge field
lists what was stopped on each engine. -/
def forceStop (slice : Nat) (qs : List Nat) (to' : Owner) (reset : Bool) (s : State) : State :=
  let entries := engineEntries s slice qs
  let s1 := qs.foldl (fun s q => stopQueueWork slice q to' false true s) s
  let s2 := dropXlat slice (if reset || qs.any (queueWorks s slice) then poisonContext slice s1 else s1)
  let s3 := qs.foldl (haltQueue slice reset) s2
  writeAck slice entries (if reset then clearGates slice s3 else s3)

/-- R376 on this block: fetch stops on each named queue; one whose fetched descriptors are complete is `QUIESCED`. -/
def beginQuiesce (slice : Nat) (qs : List Nat) (s : State) : State :=
  qs.foldl (fun s q =>
    match findQueue s slice q with
    | none => s
    | some x => if x.owner = s.boot.blkId && queueOpen x then
        reportQueue slice q (mapQueue slice q (fun y => settleQuiesce { y with quiescing := true }) s)
      else s) s

/-- The management plane asks for a stop (R16, R376, R377, R380). -/
def askStop (slice : Nat) (qs : List Nat) (force reset : Bool) (s : State) : State :=
  writeControl slice (fun k => { k with stop := qs, force := force, reset := reset, ack := none }) s

/-- The control plane carries out the stop that the run-control word asks for; the answers of writes under way go to `to'`. -/
def obeyStop (slice : Nat) (to' : Owner) (s : State) : State :=
  let k := controlOf s slice
  if k.force then forceStop slice k.stop to' k.reset s
  else beginQuiesce slice k.stop (writeAck slice (faultEntries s slice k.stop) s)

/-- The queues of this block among those named, with posted count and `COMPLETED` as they stand. -/
def foundCounts (s : State) (slice : Nat) (qs : List Nat) : List (Nat × Nat × Nat) :=
  qs.filterMap (fun q => (findQueue s slice q).bind (fun x => if x.owner = s.boot.blkId then some (q, x.posted, (countedQueue s x).completed) else none))

/-- An `EPCALL` of a named queue, handed off and not complete (R378). -/
def callsLeft (s : State) (slice : Nat) (qs : List Nat) : Bool :=
  s.units.any (fun x => x.slice == slice && x.insns.any (fun e => handedOff e && qs.contains e.queue))

/-- Every write that a forced stop left outstanding has been acknowledged (R377 step 2). -/
def stopDrained (s : State) (c : CmdReq) : Bool :=
  !outstanding s (.manager c.seq) && !callsLeft s (cmdSlice c) (namedQueues s c.opcode (cmdSlice c) c.params)

/-- Posted count and `COMPLETED` of a queue as they were found, in 16 bytes (R578). -/
def countBytes (e : Nat × Nat × Nat) : List Byte := leBytes e.2.1 8 ++ leBytes e.2.2 8

/-- Put queue counts in ascending queue number. -/
def orderCounts (qs : List (Nat × Nat × Nat)) : List (Nat × Nat × Nat) :=
  (List.range 64).filterMap (fun q => qs.find? (fun e => e.1 == q))

/-- The engine list in its buffer, as many entries as fit, and the reply (R378, R379, R578). -/
def replyStop (c : CmdReq) (entries : List (List Byte)) (queues : List (Nat × Nat × Nat)) (s : State) : State :=
  let fit := (entries.take (par c 24 4 / 8)).flatten
  finishOk c entries.length ((orderCounts queues).map countBytes).flatten (if fit.isEmpty then s else bufferWrite (par c 16 8) fit s)

/-! ### Dirty logs (R306 to R308) -/

def findLog (sl : Slice) (seg : Nat) : Option DirtyLog := sl.dirty.find? (fun d => d.segment == seg)

/-- Swap a log's bitmaps, or stop it; the returned bitmap is the one that was active. What is logged from here on is of a new era. -/
def swapLog (slice seg : Nat) (stop : Bool) (s : State) : State :=
  let f := fun (d : DirtyLog) => if d.segment = seg then { d with active := d.shadow, shadow := d.active } else d
  mapSlice slice (fun x => { x with
    dirty := if stop then x.dirty.filter (fun d => d.segment != seg) else x.dirty.map f
    era := x.era + 1, logSwap := none }) s

/-- The log swaps whose tick has come (R308). -/
def dueLogSwaps (s : State) : State :=
  s.slices.foldl (fun s x =>
    match x.logSwap with
    | some w => if (w.swapTick.map (fun t => decide (t ≤ now s))).getD false then swapLog x.id w.segment w.stop s else s
    | none => s) s

/-- A log swap of the slice is under way, or a write logged in the old bitmap is outstanding (R308). -/
def swapRuns (s : State) (slice : Nat) : Bool :=
  ((findSlice s slice).map (fun x => x.logSwap.isSome)).getD false || logBusyEra s slice

/-- The generation reply of R304: `DETAIL0`, and whether a sync of the slice is open. -/
def genOf (s : State) (slice : Nat) : Nat := ((findSlice s slice).map Slice.gen).getD 0
def syncOpen (s : State) (slice : Nat) : Bool := ((findSlice s slice).map (fun x => x.sync.isSome)).getD false
def genReply (c : CmdReq) (s : State) : State := finishOk c (genOf s (cmdSlice c)) (leBytes (flag (syncOpen s (cmdSlice c)) 0) 4) s

/-! ### Waiting commands that an event ends (R376, R377, R308) -/

/-- The bitmap and swap tick of a `READ_DIRTY_LOG` or `STOP_DIRTY_LOG` that waits, kept with it. -/
def logReplyBytes (s : State) (c : CmdReq) (queues : List (Nat × Nat × Nat)) : List Byte :=
  let e := queues.headD (0, 0, 0)
  leBytes (flag (syncOpen s (cmdSlice c)) 0) 4 ++ leBytes 0 4 ++ leBytes e.2.1 8 ++ leBytes e.2.2 8

/-- The lead ends a waiting command whose blocks have all reported and whose own work has drained. -/
def settleLead (s : State) (c : CmdReq) : State :=
  let slice := cmdSlice c
  match c.phase with
  | .stopping [] entries queues =>
    if stopForced c.opcode c.params then (if stopDrained s c then replyStop c entries queues s else s)
    else
      let qs := namedQueues s c.opcode slice c.params
      if qs.all (fun q => ((findQueue s slice q).map queueAtRest).getD true) then
        replyStop c [] (qs.filterMap (fun q => (findQueue s slice q).map (fun x => (q, x.posted, x.completed)))) s
      else s
  | .asked [] _ _ queues =>
    if c.opcode = 0x0305 ∨ c.opcode = 0x0306 then
      (if queues.isEmpty || swapRuns s slice then s else finishOk c (genOf s slice) (logReplyBytes s c queues) s)
    else s
  | _ => s

/-- A member ends a command of the lead and reports. -/
def settleMember (s : State) (c : CmdReq) : State :=
  let slice := cmdSlice c
  let drop := fun (s : State) => { s with mgr := { s.mgr with accepted := s.mgr.accepted.filter (fun x => !(x.seq == c.seq && x.opcode == c.opcode)) } }
  match c.phase with
  | .stopping [] entries queues => if stopDrained s c then reportBlock c.opcode slice true entries queues (drop s) else s
  | .asked [] _ _ _ => if swapRuns s slice then s else reportBlock c.opcode slice true [] [] (drop s)
  | _ => s

/-- End every waiting command that can end now. -/
def settleCommands (s : State) : State :=
  s.mgr.accepted.foldl (fun s c => if s.boot.isLead then settleLead s c else settleMember s c) s

/-! ### QUIESCE and RESET_SLICE -/

/-- Another stopping command of the slice is in progress. -/
def stopBusy (s : State) (c : CmdReq) : Bool :=
  s.mgr.accepted.any (fun x => x.seq != c.seq && (x.opcode == 0x0103 || x.opcode == 0x0105) && decide (x.phase ≠ .fresh) &&
    cmdSlice x == cmdSlice c)

/-- The mask names no queue that does not exist, and the engine-list buffer is the part's (R361). -/
def stopParamsOk (s : State) (c : CmdReq) : Bool :=
  (c.opcode == 0x0105 || (List.range 64).all (fun q => !(par c 0 8).testBit q || (findQueue s (cmdSlice c) q).isSome)) &&
  (!stopForced c.opcode c.params || par c 24 4 == 0 || bufferOk s (par c 16 8) (par c 24 4))

def doStop (c : CmdReq) (s : State) : State :=
  let slice := cmdSlice c
  if c.phase ≠ .fresh then settleCommands s
  else if !stopParamsOk s c then failCmd c stBadParam s
  else if stopBusy s c then failCmd c stBusy s
  else
    let qs := namedQueues s c.opcode slice c.params
    let others := sliceBlocks s slice
    let force := stopForced c.opcode c.params
    let s1 := obeyStop slice (.manager c.seq) (askStop slice qs force (c.opcode == 0x0105) s)
    settleCommands (setPhase c.seq (.stopping (if force then others else []) (ackOf s1 slice) (if force then foundCounts s slice qs else []))
      (passOn others c s1))

/-- QUIESCE (R376 to R379). -/
def execQuiesce (seq : Word32) (s : State) : Result := cmdStep 0x0103 seq doStop s

/-- RESET_SLICE (R380). -/
def execResetSlice (seq : Word32) (s : State) : Result := cmdStep 0x0105 seq (fun c s => doStop c s) s

/-! ### RESUME (R381, R86, R254, R295) -/

/-- A queue that `RESUME` restarts: one quiesced without `FORCE` keeps its posted count; any other takes `COMPLETED` (R86,
R381). -/
def resumedQueue (x : Queue) : Queue :=
  if x.state = .quiesced then { x with state := .idle, armed := false, rung := false }
  else { x with state := .idle, posted := x.completed, fetched := x.completed, guilty := false, victim := false, dstatus := 0 }

/-- Restart one queue, if it is at rest. -/
def resumeQueue (slice : Nat) (s : State) (q : Nat) : State :=
  reportQueue slice q (mapQueue slice q (fun x => if queueAtRest x then resumedQueue x else x) s)

/-- A tally after R254. -/
def clearedTally (t : Tally) : Tally := { t with poison := false, sat := false, paired := false, value := 0 }

/-- R254 over every tally of the slice's context on this block, its saved image included. -/
def clearContextTallies (slice : Nat) (s : State) : State :=
  let s1 := ((s.units.filter (fun x => x.slice == slice)).map UnitCtx.unit).foldl (fun s u =>
    (List.range (tallyCount s slice u)).foldl (fun s i =>
      match tallyKey s slice u i with
      | some k => setTallyAt k (clearedTally (tallyAt s k)) s
      | none => s) s) s
  mapContext slice (fun c => { c with saved := c.saved.map (fun v => { v with
      tallies := v.tallies.filterMap (fun e => if clearedTally e.2 = {} then none else some (e.1, clearedTally e.2)) }) })
    { s1 with units := s1.units.map (fun x => if x.slice = slice then { x with expect := [], pairs := [] } else x) }

/-- The open-fault entry of a record. -/
def openOf (s : State) (slice : Nat) (seq : Word32) : Option OpenFault :=
  s.xlat.opens.find? (fun o => o.slice == slice && o.seq == seq)

/-- The engines of an entry, 2 bytes each (R295, R379). -/
def openEngines (s : State) (o : OpenFault) : List (List Byte) :=
  ((o.engines.map (fun e => engineId s e.1 e.2.1)).insertionSort (· ≤ ·)).map (fun i => leBytes i 2)

/-- R295: the entry closes, and its engines try again when they next run. -/
def closeOpen (o : OpenFault) (s : State) : State :=
  admitWaiting { s with xlat := { s.xlat with opens := s.xlat.opens.filter (fun x => decide (x ≠ o)) } }

/-- The queues of a slice that are at rest. -/
def restingQueues (s : State) (slice : Nat) : List Nat :=
  (List.range 64).filter (fun q => ((findQueue s slice q).map queueAtRest).getD false)

def resumeReply (c : CmdReq) (engines : List (List Byte)) (s : State) : State := finishOk c engines.length engines.flatten s

/-- The management plane writes a resume request into the run-control word, and the control plane acts on it (R16, R17). -/
def obeyResume (slice sel n : Nat) (s : State) : State :=
  let s1 := writeControl slice (fun k => { k with resume := some (sel, n), ack := none }) s
  match sel with
  | 0 => writeAck slice [] (resumeQueue slice s1 n)
  | 1 =>
    match openOf s1 slice (BitVec.ofNat 32 n) with
    | some o => writeAck slice (openEngines s1 o) (closeOpen o s1)
    | none => s1
  | _ => writeAck slice [] ((restingQueues s1 slice).foldl (resumeQueue slice) (clearContextTallies slice s1))

def doResume (c : CmdReq) (s : State) : State :=
  let slice := cmdSlice c
  let n := par c 4 4
  let busy := commitChanges s slice || stopBusy s c
  if c.phase ≠ .fresh then s
  else match par c 0 1 with
    | 0 =>
      match findQueue s slice n with
      | some x =>
        if !queueAtRest x then failCmd c stBadParam s else if busy then failCmd c stBusy s
        else finishOk c 0 [] (passOn (if x.owner = s.boot.blkId then [] else [x.owner]) c (obeyResume slice 0 n s))
      | none => failCmd c stBadParam s
    | 1 =>
      let b := n / 2 ^ 29
      if b ≠ s.boot.blkId ∧ (sliceBlocks s slice).contains b then setPhase c.seq (.asked [b] true [] []) (passOn [b] c s)
      else match openOf s slice (BitVec.ofNat 32 n) with
        | some _ => let t := obeyResume slice 1 n s; resumeReply c (ackOf t slice) t
        | none => failCmd c stBadParam s
    | 2 =>
      let others := sliceBlocks s slice
      if (restingQueues s slice).isEmpty && (findContext s slice).isNone && others.isEmpty then failCmd c stBadParam s
      else if busy then failCmd c stBusy s
      else finishOk c 0 [] (passOn others c (obeyResume slice 2 n s))
    | _ => failCmd c stBadParam s

/-- RESUME (R381). -/
def execResume (seq : Word32) (s : State) : Result := cmdStep 0x0104 seq doResume s

/-! ### Queues (R372, R373, R382, R45) -/

def newQueue (slice : Nat) (ps : List Byte) : Queue :=
  { slice := slice, id := byteField ps 0 1, owner := byteField ps 1 1, ring := byteField ps 8 8, ringLog2 := byteField ps 2 1 }

/-- R45: the ring's alignment, and a segment in force that grants read holds it. -/
def ringOk (s : State) (slice : Nat) (x : Queue) : Bool :=
  let bytes := 64 * ringSize x
  x.ring % max 4096 bytes == 0 &&
  (match findSlice s slice with
   | some sl => (match bindSegment sl.inForce x.ring with
     | some g => segHoldsRange (segmentAt sl.inForce g) x.ring bytes && (segmentAt sl.inForce g).rd
     | none => false)
   | none => false)

def poolOn (s : State) (slice block : Nat) : Option Pool := s.cfg.active.pools.find? (fun p => p.slice == slice && p.block == block)

def addQueue (x : Queue) (s : State) : State :=
  { s with queues := s.queues.filter (fun y => !(y.slice == x.slice && y.id == x.id)) ++ [x] }

def doCreateQueue (c : CmdReq) (s : State) : State :=
  let slice := cmdSlice c
  let x := newQueue slice c.params
  match poolOn s slice x.owner with
  | none => failCmd c stBadParam s
  | some p =>
    if 64 ≤ x.id ∨ x.ringLog2 < 4 ∨ 16 < x.ringLog2 ∨ (findQueue s slice x.id).isSome ∨ !ringOk s slice x then failCmd c stBadParam s
    else if p.qlimit ≤ (s.queues.filter (fun q => q.slice == slice && q.owner == x.owner)).length then failCmd c stNoResource s
    else finishOk c 0 [] (passOn (sliceBlocks s slice) c (addQueue x s))

/-- CREATE_QUEUE (R372). -/
def execCreateQueue (seq : Word32) (s : State) : Result := cmdStep 0x0201 seq doCreateQueue s

/-- R382: the queue may be destroyed. -/
def mayDestroy (x : Queue) : Bool := queueAtRest x || (decide (x.state = .idle) && x.posted == x.completed)

/-- Take a queue away: its registers read 0 (R43), and no graph remembers a launch from it. -/
def removeQueue (slice q : Nat) (s : State) : State :=
  mapSlice slice (fun x => { x with graphs := x.graphs.map (fun g => { g with queues := g.queues.filter (fun k => k != q) }) })
    { s with queues := s.queues.filter (fun y => !(y.slice == slice && y.id == q)) }

def notQuiescedReply (c : CmdReq) (q : Nat) (s : State) : State := finish c stNotQuiesced (cmdSlice c + q * 2 ^ 16) [] s

def doDestroyQueue (c : CmdReq) (s : State) : State :=
  let q := par c 0 1
  match findQueue s (cmdSlice c) q with
  | none => failCmd c stBadParam s
  | some x =>
    if c.phase ≠ .fresh then s
    else if x.owner ≠ s.boot.blkId then setPhase c.seq (.asked [x.owner] true [] []) (passOn [x.owner] c s)
    else if mayDestroy x then finishOk c 0 [] (passOn (sliceBlocks s (cmdSlice c)) c (removeQueue (cmdSlice c) q s))
    else notQuiescedReply c q s

/-- DESTROY_QUEUE (R382). -/
def execDestroyQueue (seq : Word32) (s : State) : Result := cmdStep 0x0202 seq doDestroyQueue s

/-- A timeout in ticks, rounded up (R80). -/
def ticksOfNs (ns : Nat) : Nat := (ns + 63) / 64

def doSetTimeout (c : CmdReq) (s : State) : State :=
  let q := par c 0 1
  let ns := par c 8 8
  match findQueue s (cmdSlice c) q with
  | none => failCmd c stBadParam s
  | some x =>
    if ns < 1000 ∨ 10 ^ 12 < ns then failCmd c stBadParam s
    else finishOk c 0 (leBytes (ticksOfNs ns) 8) (passOn (if x.owner = s.boot.blkId then [] else [x.owner]) c
      (mapQueue (cmdSlice c) q (fun y => { y with newTimeout := some (ticksOfNs ns) }) s))

/-- SET_TIMEOUT: takes effect at the next lift tick (R373). -/
def execSetTimeout (seq : Word32) (s : State) : Result := cmdStep 0x0203 seq doSetTimeout s

/-! ### Segments (R275, R276, R298, R467, R581) -/

/-- A segment descriptor (R275). -/
def segmentOf (bs : List Byte) : Segment :=
  let w := byteField bs 8 4
  { vbase := byteField bs 0 8, npages := w % 2 ^ 24, psize := bitsOf 25 24 w, rd := w.testBit 26, wr := w.testBit 27,
    at' := w.testBit 28, red := w.testBit 29, v := w.testBit 30, key := byteField bs 12 2, table := byteField bs 16 8 }

/-- Two segments overlap. -/
def segmentsMeet (a b : Segment) : Bool :=
  a.v && b.v && decide (a.vbase < b.vbase + segLimit b) && decide (b.vbase < a.vbase + segLimit a)

/-- R276 and R467, and no change of a logged segment's shape (R308). -/
def mapOk (s : State) (sl : Slice) (n : Nat) (bs : List Byte) : Bool :=
  let g := segmentOf bs
  let pages := if g.npages = 0 then 2 ^ 24 else g.npages
  let old := segmentAt sl.staged n
  decide (n < 16) && decide (g.vbase < 2 ^ 56) && !(byteField bs 8 4).testBit 31 && decide (g.key < 4096) && byteField bs 14 2 == 0 &&
  byteField bs 24 8 == 0 && g.psize != 3 && g.vbase % segPage g == 0 && decide (g.vbase + segLimit g ≤ 2 ^ 56) &&
  (List.range 16).all (fun i => i == n || !segmentsMeet g (segmentAt sl.staged i)) &&
  g.table % 4096 == 0 && bufferOk s g.table (8 * pages) && g.key != 0 &&
  (match Sparse.get? s.keys.bound g.key with | some o => o == sl.id | none => true) &&
  ((findLog sl n).isNone || (g.vbase == old.vbase && g.npages == old.npages && g.psize == old.psize))

/-- A twin holds mirrored keys (R465). -/
def keysMirrored (s : State) : Bool := mirroring s && s.keys.twinChannel

/-- Bind a key slot to a slice; a new binding goes to the twin (R465, R467). -/
def bindKey (slot slice : Nat) (s : State) : State :=
  let fresh := (Sparse.get? s.keys.bound slot).isNone
  let s1 := { s with keys := { s.keys with bound := Sparse.put s.keys.bound slot slice } }
  if fresh && keysMirrored s && (findContext s slice).isSome then emit (.tether (.key slot (keyNumber s slot))) s1 else s1

/-- Put a segment into the staged bank. -/
def stageSegment (slice n : Nat) (g : Segment) (s : State) : State := mapSlice slice (fun x => { x with staged := x.staged.set n g }) s

def doMap (c : CmdReq) (s : State) : State :=
  let slice := cmdSlice c
  let n := par c 0 1
  let g := segmentOf (c.params.drop 8)
  match findSlice s slice with
  | none => failCmd c stBadParam s
  | some sl =>
    if !mapOk s sl n (c.params.drop 8) then failCmd c stBadParam s
    else if sl.sync.isSome then failCmd c stBusy s
    else genReply c (passOn (otherBlocks s) c (bindKey g.key slice (stageSegment slice n g s)))

/-- MAP_SEGMENT (R276, R298, R467). -/
def execMapSegment (seq : Word32) (s : State) : Result := cmdStep 0x0301 seq doMap s

/-- R581: the staged segment is cleared, and its log stops (R308). -/
def unmapSegment (slice n : Nat) (s : State) : State :=
  mapSlice slice (fun x => { x with staged := x.staged.set n { segmentAt x.staged n with v := false }, dirty := x.dirty.filter (fun d => d.segment != n) }) s

def doUnmap (c : CmdReq) (s : State) : State :=
  let slice := cmdSlice c
  match findSlice s slice with
  | none => failCmd c stBadParam s
  | some sl =>
    if 16 ≤ par c 0 1 then failCmd c stBadParam s
    else if sl.sync.isSome then failCmd c stBusy s
    else genReply c (passOn (sliceBlocks s slice) c (unmapSegment slice (par c 0 1) s))

/-- UNMAP_SEGMENT (R581). -/
def execUnmapSegment (seq : Word32) (s : State) : Result := cmdStep 0x0302 seq doUnmap s

/-! ### Dirty-log commands -/

/-- The bytes of a bitmap (R306). -/
def bitmapBytes (g : Segment) : Nat := ((if g.npages = 0 then 2 ^ 24 else g.npages) + 63) / 64 * 8

/-- Start a log. -/
def startLog (slice : Nat) (ps : List Byte) (s : State) : State :=
  mapSlice slice (fun x => { x with dirty := x.dirty ++
    [{ segment := byteField ps 0 1, active := byteField ps 8 8, shadow := byteField ps 16 8}] }) s

def doStartLog (c : CmdReq) (s : State) : State :=
  let slice := cmdSlice c
  let n := par c 0 1
  match findSlice s slice with
  | none => failCmd c stBadParam s
  | some sl =>
    let g := segmentAt sl.staged n
    if 16 ≤ n ∨ !g.v ∨ !bufferOk s (par c 8 8) (bitmapBytes g) ∨ !bufferOk s (par c 16 8) (bitmapBytes g) then failCmd c stBadParam s
    else if (findLog sl n).isSome then failCmd c stBusy s
    else genReply c (passOn (sliceBlocks s slice) c (startLog slice c.params s))

/-- START_DIRTY_LOG (R306). -/
def execStartDirtyLog (seq : Word32) (s : State) : Result := cmdStep 0x0304 seq doStartLog s

/-- Another log command of the slice waits. -/
def logBusy (s : State) (c : CmdReq) : Bool :=
  s.mgr.accepted.any (fun x => x.seq != c.seq && (x.opcode == 0x0305 || x.opcode == 0x0306) && decide (x.phase ≠ .fresh) && cmdSlice x == cmdSlice c)

/-- The `READ_DIRTY_LOG` or `STOP_DIRTY_LOG` whose swap of a slice is under way. -/
def swapCmd (s : State) (slice : Nat) : Option CmdReq :=
  s.mgr.accepted.find? (fun x => (x.opcode == 0x0305 || x.opcode == 0x0306) && cmdAsked x && cmdSlice x == slice)

/-- R308: every block is ready, and the lead fixes the swap tick, as R301 does for a switch. -/
def fixLogSwap (slice : Nat) (s : State) : State :=
  match (findSlice s slice).bind Slice.logSwap, swapCmd s slice with
  | some w, some c =>
    let t := now s + 16
    let pa := (((findSlice s slice).bind (fun x => findLog x w.segment)).map DirtyLog.active).getD 0
    emitD2d (sliceBlocks s slice) (.mgmt (.logSwitch slice w.segment w.stop t))
      (setPhase c.seq (.asked (sliceBlocks s slice) true [] [(w.segment, pa, t)])
        (mapSlice slice (fun x => { x with logSwap := some { w with swapTick := some t } }) s))
  | _, _ => s

/-- Begin a log swap: the other blocks of R298 make ready. -/
def beginLogSwap (c : CmdReq) (s : State) : State :=
  let slice := cmdSlice c
  let w : LogSwap := { segment := par c 0 1, stop := c.opcode == 0x0306, since := now s, acks := [], swapTick := none }
  let s1 := setPhase c.seq (.asked (sliceBlocks s slice) true [] []) (mapSlice slice (fun x => { x with logSwap := some w }) s)
  if (sliceBlocks s slice).isEmpty then fixLogSwap slice s1 else emitD2d (sliceBlocks s slice) (.mgmt (.logPrepare slice (par c 0 1))) s1

/-- A block is ready for a log swap. -/
def takeLogReady (slice segment block : Nat) (s : State) : State :=
  match (findSlice s slice).bind Slice.logSwap with
  | none => s
  | some w =>
    if !s.boot.isLead || w.segment != segment || w.swapTick.isSome then s else
      let acks := if w.acks.contains block then w.acks else w.acks ++ [block]
      let s1 := mapSlice slice (fun x => { x with logSwap := some { w with acks := acks } }) s
      if (sliceBlocks s slice).all acks.contains then fixLogSwap slice s1 else s1

/-- A member makes ready for a log swap, and answers. -/
def takeLogPrepare (slice segment : Nat) (s : State) : State :=
  sendD2d s.boot.leadId (.mgmt (.logReady slice segment s.boot.blkId)) (mapSlice slice (fun x => { x with
    logSwap := some { segment := segment, stop := false, since := now s, acks := [], swapTick := none } }) s)

/-- `READ_DIRTY_LOG` and `STOP_DIRTY_LOG`: the swap waits for an open sync (spec/08); its tick is fixed as in R301; the reply waits for
the writes logged in the old bitmap (R308). -/
def doSwapLog (c : CmdReq) (s : State) : State :=
  if cmdAsked c then settleCommands s
  else match (findSlice s (cmdSlice c)).bind (fun sl => findLog sl (par c 0 1)) with
    | none => failCmd c stBadParam s
    | some _ =>
      if logBusy s c then failCmd c stBusy s
      else if syncOpen s (cmdSlice c) then setPhase c.seq .waiting s
      else beginLogSwap c s

/-- READ_DIRTY_LOG (R308). -/
def execReadDirtyLog (seq : Word32) (s : State) : Result := cmdStep 0x0305 seq doSwapLog s

/-- STOP_DIRTY_LOG (R308). -/
def execStopDirtyLog (seq : Word32) (s : State) : Result := cmdStep 0x0306 seq (fun c s => doSwapLog c s) s

/-! ### DUMP_SYNC and SET_TALLY (R271 to R274) -/

/-- A tally of a context, resident or saved, with the increments held for it added when it is saved (R273). -/
def dumpTally (s : State) (slice : Nat) (u : UnitId) (i : Nat) : Tally :=
  (s.heldIncs.filter (fun h => h.slice == slice && decide (h.unit = u) && h.tally == i)).foldl
    (fun t h => if t.poison then t else bumpTally h.amount t) (placedTally s slice u i)

/-- Change a context's tally by hand, in hardware or in its saved image; a licensee's waits see it. -/
def setContextTally (slice : Nat) (u : UnitId) (i : Nat) (f : Tally → Tally) (s : State) : State :=
  wakeEngineWaits u (mapPlaced slice u i f s)

/-- The unit bytes of R274: unit number, and proxy with block. -/
def dumpUnit (u : UnitId) : Nat := match u with | .cluster c => c | .port p => p
def dumpWhere (s : State) (u : UnitId) : Nat := (match u with | .cluster _ => 0 | .port _ => 128) + s.boot.blkId * 16

def tallyEntry (s : State) (x : UnitCtx) (i : Nat) : List Byte :=
  leBytes (tallyWord (dumpTally s x.slice x.unit i) + dumpUnit x.unit * 2 ^ 51) 8 ++ leBytes (expectOf x i).toNat 6 ++
  leBytes (dumpWhere s x.unit) 1 ++ leBytes i 1

def gateEntry (s : State) (n : Nat) (g : Gate) : List Byte :=
  leBytes (n + s.boot.blkId * 2 ^ 12) 2 ++ leBytes g.gen.toNat 2 ++ leBytes g.count 2 ++ leBytes g.expected 2 ++ leBytes 0 8

/-- What a write counter has counted. -/
def landedCount (s : State) (source epoch : Nat) : Nat :=
  ((s.counters.find? (fun w => w.source == source && w.epoch == epoch)).map WriteCounter.landed).getD 0

def heldEntry (s : State) (source epoch need landed : Nat) (u : UnitId) (i amount : Nat) : List Byte :=
  leBytes source 2 ++ leBytes epoch 2 ++ leBytes need 4 ++ leBytes landed 3 ++ leBytes (dumpUnit u) 1 ++ leBytes (dumpWhere s u) 1 ++
  leBytes i 1 ++ leBytes amount 2

/-- This block's entries of a dump, each after a byte that names its part: 0 tally, 1 gate, 2 held signal (R274). -/
def dumpEntries (s : State) (slice : Nat) : List (List Byte) :=
  ((s.units.filter (fun x => x.slice == slice)).map (fun x => (List.range (tallyCount s slice x.unit)).map (fun i => 0 :: tallyEntry s x i))).flatten ++
  (s.gates.filter (fun e => !e.2.free && e.2.tag == sliceTag s slice)).map (fun e => 1 :: gateEntry s e.1 e.2) ++
  (s.held.filter (fun h => h.slice == slice)).map (fun h => 2 :: heldEntry s h.source h.epoch h.need (landedCount s h.source h.epoch) h.unit h.tally h.amount) ++
  (s.heldIncs.filter (fun h => h.slice == slice)).map (fun h => 2 :: heldEntry s 0 0 0 0 h.unit h.tally h.amount)

/-- The image (R274). -/
def dumpImage (slice t : Nat) (es : List (List Byte)) : List Byte :=
  let part := fun (k : Byte) => (es.filter (fun e => e.headD 0 == k)).map (fun e => e.drop 1)
  leBytes slice 2 ++ leBytes 0 6 ++ leBytes t 8 ++ leBytes (part 0).length 4 ++ leBytes (part 1).length 4 ++ leBytes (part 2).length 4 ++
  leBytes 0 36 ++ (part 0).flatten ++ (part 1).flatten ++ (part 2).flatten

/-- Write the image, or give the length needed (R578). -/
def finishDump (c : CmdReq) (t : Nat) (es : List (List Byte)) (s : State) : State :=
  let img := dumpImage (cmdSlice c) t es
  if par c 8 4 < img.length then finish c stBadParam img.length [] s
  else finishOk c 0 (leBytes img.length 4 ++ leBytes 0 4 ++ leBytes t 8) (bufferWrite (par c 0 8) img s)

/-- R273: the tick of an image: this tick for a slice of one block, otherwise one that the other blocks hear of in time. -/
def dumpTick (s : State) (slice : Nat) : Nat := if (sliceBlocks s slice).isEmpty then now s else now s + 16

/-- Take this block's entries at the end of tick `t` (R24, R273). -/
def planDump (slice t : Nat) (s : State) : State := { s with tick := { s.tick with dumps := s.tick.dumps ++ [(slice, t)] } }

def doDump (c : CmdReq) (s : State) : State :=
  let slice := cmdSlice c
  let t := dumpTick s slice
  if c.phase ≠ .fresh then s
  else if !bufferOk s (par c 0 8) (par c 8 4) then failCmd c stBadParam s
  else setPhase c.seq (.asked (s.boot.blkId :: sliceBlocks s slice) true [] [(0, t, 0)]) (passOnAt (sliceBlocks s slice) c t (planDump slice t s))

/-- DUMP_SYNC (R273, R274). -/
def execDumpSync (seq : Word32) (s : State) : Result := cmdStep 0x0401 seq doDump s

/-- The unit that a `SET_TALLY` names, when its reserved bits are 0. -/
def tallyUnit (b : Nat) : Option UnitId :=
  if b.testBit 7 then (if bitsOf 6 3 b = 0 then some (.port (b % 8)) else none)
  else if bitsOf 6 5 b = 0 then some (.cluster (b % 32)) else none

/-- R271: a tally set by hand. -/
def handSet (v : Nat) (t : Tally) : Tally := { t with value := BitVec.ofNat 48 v, sat := decide (v % 2 ^ 48 = tallyMax) }

/-- R271 and R272 on this block: the new value and the record's `SEQ` in 12 bytes. The value is written before the increments that this
tick has brought to the tally, which are added to it (R24, R270). -/
def setTally (slice : Nat) (u : UnitId) (i v : Nat) (s : State) : State × List Byte :=
  let k := tallyKey s slice u i
  let inc := (k.map (Sparse.get 0 s.tick.incs)).getD 0
  let old := ((k.bind (Sparse.get? s.tick.olds)).getD (placedTally s slice u i).value.toNat)
  let seq := nextSeq s
  let r : FaultRecord := { cause := 0x20E, slice := slice, noQueue := true, context := contextSlot s slice, addr := syncAddr s u i 0, detail := old }
  let set := fun (t : Tally) => if inc = 0 ∨ t.poison then handSet v t else bumpTally inc (handSet v t)
  let s1 := writeRecord r (setContextTally slice u i set s)
  (if inc = 0 then s1 else checkPairs {} u slice i s1, leBytes (v % 2 ^ 48) 8 ++ leBytes seq.toNat 4)

/-- A `SET_TALLY` on this block; `none` where the context has no such tally. -/
def trySetTally (slice : Nat) (ps : List Byte) (s : State) : Option (State × List Byte) :=
  match tallyUnit (byteField ps 1 1) with
  | none => none
  | some u =>
    if (findUnit s u slice).isSome ∧ byteField ps 2 1 < tallyCount s slice u then some (setTally slice u (byteField ps 2 1) (byteField ps 8 8) s)
    else none

def doSetTally (c : CmdReq) (s : State) : State :=
  let b := par c 0 1
  if c.phase ≠ .fresh then s
  else if b = s.boot.blkId then
    match trySetTally (cmdSlice c) c.params s with
    | some r => finishOk c 0 r.2 r.1
    | none => failCmd c stBadParam s
  else if (sliceBlocks s (cmdSlice c)).contains b then setPhase c.seq (.asked [b] true [] []) (passOn [b] c s)
  else failCmd c stBadParam s

/-- SET_TALLY (R271, R272). -/
def execSetTally (seq : Word32) (s : State) : Result := cmdStep 0x0402 seq doSetTally s

/-! ### SNAPSHOT (R384, R385) -/

/-- This block's tallies of a slice, with `E`. -/
def ownTallies (s : State) (slice : Nat) : List TallyEntry :=
  ((s.units.filter (fun x => x.slice == slice)).map (fun x => (List.range (tallyCount s slice x.unit)).map (fun i =>
    ({ unit := unitIdx x.unit, index := i, word := tallyWord (dumpTally s slice x.unit i), expected := (expectOf x i).toNat
       block := s.boot.blkId } : TallyEntry)))).flatten

/-- An entry as a block reports it, and read back. -/
def entryBytes (e : TallyEntry) : List Byte := leBytes e.unit 1 ++ leBytes e.index 1 ++ leBytes e.word 8 ++ leBytes e.expected 6 ++ leBytes e.block 1
def entryOfBytes (bs : List Byte) : TallyEntry :=
  { unit := byteField bs 0 1, index := byteField bs 1 1, word := byteField bs 2 8, expected := byteField bs 10 6, block := byteField bs 16 1 }

/-- A captured slice, with the tallies that the other blocks have reported. -/
def captureSlice (s : State) (slice : Nat) (others : List TallyEntry) : Snapshot :=
  let c := sliceCfg s slice
  { queues := (s.queues.filter (fun x => x.slice == slice)).map (fun x =>
      { queue := x.id, ring := x.ring, ringLog2 := x.ringLog2, owner := x.owner, posted := x.posted, fetched := x.fetched,
        completed := x.completed, timeout := x.timeout })
    tallies := ownTallies s slice ++ others
    table := (c.map SliceCfg.table).getD 0, tableLog2 := (c.map SliceCfg.tableLog2).getD 0
    graphs := ((findSlice s slice).map (fun x => x.graphs.map snapGraph)).getD [] }

/-- A tally from its word (R237). -/
def tallyOfWord (w : Nat) : Tally :=
  { owner := BitVec.ofNat 8 (w / 2 ^ 56), paired := w.testBit 50, poison := w.testBit 49, sat := w.testBit 48, value := BitVec.ofNat 48 w }

def unitOfIdx (n : Nat) : UnitId := if n < 32 then .cluster n else .port (n - 32)

/-- Install one tally with its `E`. -/
def installTally (slice : Nat) (s : State) (e : TallyEntry) : State :=
  let u := unitOfIdx e.unit
  let s1 := mapUnit u slice (setExpect e.index (BitVec.ofNat 48 e.expected)) s
  setContextTally slice u e.index (fun _ => tallyOfWord e.word) s1

/-- A handle's parameter state as it comes back; its image is checked at its next launch (R236). -/
def graphOfSnap (g : SnapGraph) : Graph :=
  { handle := g.handle, base := g.base, len := g.len, gen := g.gen, step := g.step, nodes := [], edges := [], even := g.even,
    odd := g.odd, next := g.next, lastStart := 0, queues := [], launches := [] }

/-- Install a captured image on this block: queues continue their counts once `RESUME` restarts them (R384, R385), and the handle table
is the captured one; the configuration set stays as it is (R18). -/
def installSlice (slice : Nat) (im : Snapshot) (s : State) : State :=
  let s1 := im.queues.foldl (fun s q => mapQueue slice q.queue (fun x => { x with
    ring := q.ring, ringLog2 := q.ringLog2, posted := q.posted, fetched := q.fetched, completed := q.completed, timeout := q.timeout
    state := .quiesced }) s) s
  let s2 := (im.tallies.filter (fun e => e.block == s.boot.blkId)).foldl (installTally slice) s1
  mapSlice slice (fun x => { x with graphs := im.graphs.map graphOfSnap, table := some (im.table, im.tableLog2) }) s2

/-- The image is one that this slice can take: its queues exist and their rings have a legal size (R45, R384). -/
def snapshotOk (s : State) (slice : Nat) (im : Snapshot) : Bool :=
  im.queues.all (fun q => (findQueue s slice q.queue).isSome && decide (4 ≤ q.ringLog2) && decide (q.ringLog2 ≤ 16))

/-- A slice that an image may be installed on: every queue `IDLE` at 0, contexts that have never run. -/
def installable (s : State) (slice : Nat) : Bool :=
  (s.queues.filter (fun x => x.slice == slice)).all (fun x => decide (x.state = .idle) && x.posted == 0 && x.completed == 0) &&
  ((findSlice s slice).map (fun x => x.nextRun == 0)).getD true

/-- The first queue of a slice that does not satisfy a condition. -/
def firstQueue (s : State) (slice : Nat) (ok : Queue → Bool) : Nat :=
  ((List.range 64).find? (fun q => match findQueue s slice q with | some x => !ok x | none => false)).getD 0

/-- Write a captured slice into the buffer, where it fits. -/
def finishCapture (c : CmdReq) (others : List TallyEntry) (s : State) : State :=
  let bs := Config.snapshotBytes (captureSlice s (cmdSlice c) others)
  if par c 16 4 < bs.length then failCmd c stBadParam s else finishOk c 0 (leBytes bs.length 4) (bufferWrite (par c 8 8) bs s)

def doSnapshot (c : CmdReq) (s : State) : State :=
  let slice := cmdSlice c
  let pa := par c 8 8
  let n := par c 16 4
  if c.phase ≠ .fresh then s
  else if 1 < par c 0 1 ∨ !bufferOk s pa n then failCmd c stBadParam s
  else if par c 0 1 = 0 then
    if !(s.queues.filter (fun x => x.slice == slice)).all (fun x => decide (x.state = .quiesced)) then
      notQuiescedReply c (firstQueue s slice (fun x => decide (x.state = .quiesced))) s
    else if (sliceBlocks s slice).isEmpty then finishCapture c [] s
    else setPhase c.seq (.asked (sliceBlocks s slice) true [] []) (passOn (sliceBlocks s slice) c s)
  else if !installable s slice then
    notQuiescedReply c (firstQueue s slice (fun x => decide (x.state = .idle) && x.posted == 0 && x.completed == 0)) s
  else
    match (bufferRead s pa n).bind Config.snapshotImage with
    | none => failCmd c stIntegrity (stepFree s)
    | some im =>
      if !snapshotOk s slice im then failCmd c stIntegrity (stepFree s)
      else finishOk c 0 (leBytes n 4) (emitD2d (sliceBlocks s slice) (.mgmt (.install slice im)) (installSlice slice im (stepFree s)))

/-- SNAPSHOT (R384, R385). -/
def execSnapshot (seq : Word32) (s : State) : Result := cmdStep 0x0504 seq doSnapshot s

/-! ### Step boundaries and the twin (R446, R448, R459) -/

/-- Some slice is within a step. -/
def stepRunning (s : State) : Bool := s.slices.any (fun x => x.graphs.any (fun g => g.step && !g.launches.isEmpty))

/-- A pairing state is entered, with its record and source 5 (R445). -/
def setTwinState (st : TwinState) (s : State) : State :=
  raiseSource 5 (writeRecord (plainRecord 0x907 0 0) { s with twin := { s.twin with state := st } })

def twinMode (m : Nat) : TwinState := if m = 0 then .tight else .loose

def ledgerOf (s : State) (slice : Nat) : List LedgerEntry :=
  (s.queues.filter (fun x => x.slice == slice && x.owner == s.boot.blkId)).map (fun x =>
    { slice := slice, queue := x.id, posted := x.posted, fetched := x.fetched, completed := x.completed + donePrefix x.descs, state := x.state
      ring := x.ring, ringLog2 := x.ringLog2, timeout := x.timeout })

/-- The tallies of a context, with their `E` (R448). -/
def talliesOf (s : State) (slice : Nat) : List TallyEntry :=
  ((s.units.filter (fun x => x.slice == slice)).map (fun x => (List.range (tallyCount s slice x.unit)).map (fun i =>
    ({ unit := unitIdx x.unit, index := i, word := tallyWord (dumpTally s slice x.unit i), expected := (expectOf x i).toNat } : TallyEntry)))).flatten

/-- The byte ranges of this node that the pages written since the last image lie at (R448). -/
def dirtyRanges (s : State) (sl : Slice) : List (Nat × Nat) :=
  sl.dirtyPages.filterMap (fun e =>
    let g := segmentAt sl.inForce e.1
    match readEntry s g e.2 with
    | some w => if pteValid w ∧ paNode (pteFrame w * 2 ^ 21) = ownNode s then some (paLocal (pteFrame w * 2 ^ 21), segPage g) else none
    | none => none)

def inRanges (rs : List (Nat × Nat)) (a : Nat) : Bool := rs.any (fun r => decide (r.1 ≤ a) && decide (a < r.1 + r.2))

/-- The image of a slice: ledger, tallies with `E`, gates, parameter buffers and pages (R448). -/
def sliceImage (s : State) (sl : Slice) (step : Nat) (isStep : Bool) (rs : List (Nat × Nat)) : MirrorImage :=
  { slice := sl.id, step := step, isStep := isStep, ledger := ledgerOf s sl.id, tallies := talliesOf s sl.id
    params := (sl.graphs.filter (fun g => g.step)).map snapGraph, peers := sl.peers
    pages := s.mem.filter (fun e => inRanges rs e.1), lines := s.memKeys.filter (fun e => inRanges rs (e.1 * 64))
    gates := s.gates.filter (fun e => !e.2.free && e.2.tag == sliceTag s sl.id) }

/-- Send an image to the twin, which acknowledges it (R448, R449). -/
def sendImage (m : MirrorImage) (s : State) : State :=
  emit (.tether (.image m true)) { s with twin := { s.twin with outstanding := s.twin.outstanding ++ [m] } }

/-- The slices that the tether mirrors: those with a context on this block (R448). -/
def mirrored (s : State) : List Slice := s.slices.filter (fun x => (findContext s x.id).isSome && decide (x.id < 1024))

/-- A planned handover: the steps are complete; final images go out and the block stops serving (R459). -/
def leaveNode (s : State) : State :=
  let s1 := (mirrored s).foldl (fun s x => sendImage (sliceImage s x x.step false (dirtyRanges s x)) s) s
  setTwinState .failedOver (emit (.tether .finalDone) { s1 with twin := { s1.twin with leaving := false, serving := false } })

/-- At a step boundary of every slice a wanted mode takes effect (R446), or a planned handover goes ahead (R459). -/
def settleTwin (s : State) : State :=
  if stepRunning s then s
  else if s.twin.leaving then leaveNode s
  else match s.twin.modeWanted with
    | some m => setTwinState (twinMode m) { s with twin := { s.twin with mode := m, modeWanted := none } }
    | none => s

/-- DESCRIPTOR_COMPLETE: counts completed descriptors (R77); a `QUIESCE` that waited for the queue goes on (R376). -/
def execDescriptorComplete (slice queue index : Nat) (s : State) : Result :=
  .next (settleTwin (settleCommands (completeDescriptor slice queue index s)))

/-! ### RESURFACE (R483) -/

/-- The units of a slice on this block: its clusters and its ports. -/
def sliceClusters (s : State) (slice : Nat) : List Nat :=
  (s.units.filter (fun x => x.slice == slice)).filterMap (fun x => match x.unit with | .cluster c => some c | .port _ => none)
def slicePorts (s : State) (slice : Nat) : List Nat :=
  (s.units.filter (fun x => x.slice == slice)).filterMap (fun x => match x.unit with | .port p => some p | .cluster _ => none)

/-- The first chair whose preceding relay zone opens after now. -/
def nextZoneChair (s : State) : Nat := if tickOf s < Config.relayTick then chairOf s + 1 else chairOf s + 2

/-- Set a slice's resurfacing for a chair. -/
def planResurface (slice : Nat) (seq : Option Word32) (s : State) : State :=
  let r : Resurf := { chair := nextZoneChair s, clusters := sliceClusters s slice, zeroed := [], ports := slicePorts s slice, seq := seq, destroy := false, command := true }
  mapSlice slice (fun x => { x with resurf := some r }) s

def doResurface (c : CmdReq) (s : State) : State :=
  let slice := cmdSlice c
  if c.phase ≠ .fresh then s
  else
    match unquiesced s slice with
    | some q => notQuiescedReply c q s
    | none =>
      if s.mgr.accepted.any (fun x => x.opcode == 0x0604 && cmdSlice x == slice && decide (x.phase ≠ .fresh)) then notQuiescedReply c 0 s
      else if ((findSlice s slice).map (fun x => x.resurf.isSome)).getD true then failCmd c stBusy s
      else setPhase c.seq .waiting (passOn (sliceBlocks s slice) c (planResurface slice (some c.seq) s))

/-- RESURFACE (R483). -/
def execResurface (seq : Word32) (s : State) : Result := cmdStep 0x0605 seq doResurface s

/-! ### The member's side -/

/-- This block holds a pool of the slice, or a window that it owns (R298). -/
def holdsSlice (s : State) (slice : Nat) : Bool :=
  s.cfg.active.pools.any (fun p => p.slice == slice && p.block == s.boot.blkId) ||
  s.cfg.active.windows.any (fun w => w.owner == slice && w.block == s.boot.blkId)

/-- A member takes on a command that ends later: it waits among its accepted commands. -/
def acceptMember (c : CmdReq) (p : CmdPhase) (s : State) : State :=
  settleCommands { s with mgr := { s.mgr with
    accepted := s.mgr.accepted.filter (fun x => !(x.seq == c.seq && x.opcode == c.opcode)) ++ [{ c with phase := p }] } }

/-- A command of the lead as a member holds it: it has no sequence number of its own. -/
def memberReq (op slice : Nat) (ps : List Byte) (tick : Nat) : CmdReq :=
  { seq := BitVec.ofNat 32 slice, opcode := op, sliceField := BitVec.ofNat 16 slice, params := ps, sender := manager0, buffer := 0, tick := tick }

/-- A member's run-control word takes a stop, and its control plane carries it out. -/
def memberStop (c : CmdReq) (s : State) : State :=
  let slice := cmdSlice c
  let qs := namedQueues s c.opcode slice c.params
  let force := stopForced c.opcode c.params
  let s1 := obeyStop slice (.manager c.seq) (askStop slice qs force (c.opcode == 0x0105) s)
  if force then acceptMember c (.stopping [] (ackOf s1 slice) (foundCounts s slice qs)) s1 else s1

/-- A member's run-control word takes a resume. -/
def memberResume (c : CmdReq) (s : State) : State :=
  let slice := cmdSlice c
  if par c 0 1 = 1 then
    let ok := (openOf s slice (BitVec.ofNat 32 (par c 4 4))).isSome
    let t := obeyResume slice 1 (par c 4 4) s
    reportBlock c.opcode slice ok (if ok then ackOf t slice else []) [] t
  else obeyResume slice (par c 0 1) (par c 4 4) s

/-- A member gives up a queue: its owner says whether it may, the other blocks follow the lead. -/
def memberDestroy (slice q : Nat) (s : State) : State :=
  match findQueue s slice q with
  | none => s
  | some x =>
    if x.owner ≠ s.boot.blkId then removeQueue slice q s
    else if mayDestroy x then reportBlock 0x0202 slice true [] [] (removeQueue slice q s)
    else reportBlock 0x0202 slice false [] [] s

/-- What a member does for a command of the lead, which is about tick `tick`. -/
def memberCommand (op slice : Nat) (ps : List Byte) (tick : Nat) (s : State) : State :=
  let c := memberReq op slice ps tick
  match op with
  | 0x0103 => memberStop c s
  | 0x0105 => memberStop c s
  | 0x0104 => memberResume c s
  | 0x0201 => addQueue (newQueue slice ps) s
  | 0x0202 => memberDestroy slice (par c 0 1) s
  | 0x0203 => mapQueue slice (par c 0 1) (fun y => { y with newTimeout := some (ticksOfNs (par c 8 8)) }) s
  | 0x0301 =>
    let g := segmentOf (ps.drop 8)
    bindKey g.key slice (if holdsSlice s slice then stageSegment slice (par c 0 1) g s else s)
  | 0x0302 => unmapSegment slice (par c 0 1) s
  | 0x0304 => startLog slice ps s
  | 0x0401 => planDump slice tick s
  | 0x0402 =>
    match trySetTally slice ps s with
    | some r => reportBlock op slice true [r.2] [] r.1
    | none => reportBlock op slice false [] [] s
  | 0x0504 => reportBlock op slice true ((ownTallies s slice).map entryBytes) [] s
  | 0x0605 => planResurface slice none s
  | _ => s

/-- A member's swap tick of a dirty log is fixed (R308). -/
def takeLogSwitch (slice segment : Nat) (stop : Bool) (tick : Nat) (s : State) : State :=
  acceptMember (memberReq 0x0305 slice [] tick) (.asked [] true [] []) (mapSlice slice (fun x => { x with
    logSwap := some { segment := segment, stop := stop, since := now s, acks := [], swapTick := some tick } }) s)

/-- A block that joins a slice takes its banks and generation, its logs and its queues (R34, R298, R307). -/
def takeJoin (slice gen : Nat) (inForce staged : List Segment) (queues : List QueueSeed) (logs : List (Nat × Nat × Nat)) (s : State) : State :=
  let fresh := queues.filter (fun q => (findQueue s slice q.queue).isNone)
  mapSlice slice (fun x => { x with
    inForce := inForce, staged := staged, gen := gen
    dirty := logs.map (fun d => { segment := d.1, active := d.2.1, shadow := d.2.2 }) })
    { s with queues := s.queues ++ fresh.map (fun q =>
        { slice := slice, id := q.queue, owner := q.owner, ring := q.ring, ringLog2 := q.ringLog2 }) }

/-- What the lead tells a block that joins a slice. -/
def joinMsg (s : State) (x : Slice) : MgmtMsg :=
  .joinSlice x.id x.gen x.inForce x.staged ((s.queues.filter (fun q => q.slice == x.id)).map (fun q =>
    { queue := q.id, owner := q.owner, ring := q.ring, ringLog2 := q.ringLog2 })) (x.dirty.map (fun d => (d.segment, d.active, d.shadow)))

/-! ### The lead's side -/

/-- A block's report joins the command that waits for it. -/
def joinReport (r : BlockReport) (c : CmdReq) : CmdReq :=
  match c.phase with
  | .asked left ok es qs => { c with phase := .asked (left.filter (fun b => b != r.block)) (ok && r.ok) (es ++ r.entries) qs }
  | .stopping left es qs => { c with phase := .stopping (left.filter (fun b => b != r.block)) (es ++ r.entries) (qs ++ r.queues) }
  | _ => c

/-- End a command that asked one block, or every block, once all have reported. -/
def settleAsked (s : State) (c : CmdReq) : State :=
  match c.phase with
  | .asked [] ok es qs =>
    if c.opcode = 0x0104 then (if ok then resumeReply c (es.insertionSort (fun a b => leNat a ≤ leNat b)) s else failCmd c stBadParam s)
    else if c.opcode = 0x0202 then
      (if ok then
        let away := (sliceBlocks s (cmdSlice c)).filter (fun b => b != queueOwner s (cmdSlice c) (par c 0 1))
        finishOk c 0 [] (passOn away c (removeQueue (cmdSlice c) (par c 0 1) s))
      else notQuiescedReply c (par c 0 1) s)
    else if c.opcode = 0x0402 then (if ok then finishOk c 0 es.flatten s else failCmd c stBadParam s)
    else if c.opcode = 0x0401 then finishDump c (qs.headD (0, 0, 0)).2.1 es s
    else if c.opcode = 0x0504 then finishCapture c (es.map entryOfBytes) s
    else s
  | _ => s

/-- The lead takes a member's report (R376, R377). -/
def takeBlockReport (r : BlockReport) (s : State) : State :=
  let s1 := { s with mgr := { s.mgr with accepted := s.mgr.accepted.map (fun (c : CmdReq) =>
    if c.opcode = r.opcode ∧ cmdSlice c = r.slice then joinReport r c else c) } }
  settleCommands (s1.mgr.accepted.foldl settleAsked s1)

/-- The lead's copy of a member's queue (R34). -/
def takeQueueReport (r : QueueReport) (s : State) : State :=
  settleCommands (match r.state with
  | none => removeQueue r.slice r.queue s
  | some st => mapQueue r.slice r.queue (fun x => { x with
      state := st, posted := r.posted, fetched := r.fetched, completed := r.completed, dstatus := r.dstatus, guilty := r.guilty
      victim := r.victim, stale := r.stale, faultSeq := r.faultSeq, ownerResident := r.resident }) s)

/-- The dumps whose tick ends now: this block's entries join the lead's command, or go to the lead (R24, R273). -/
def takeDumps (s : State) : State :=
  (s.tick.dumps.filter (fun d => decide (d.2 ≤ now s))).foldl (fun s d =>
    let r : BlockReport := { block := s.boot.blkId, opcode := 0x0401, slice := d.1, ok := true, entries := dumpEntries s d.1, queues := [] }
    if s.boot.isLead then takeBlockReport r s else sendD2d s.boot.leadId (.mgmt (.blockReport r)) s)
    { s with tick := { s.tick with dumps := s.tick.dumps.filter (fun d => !decide (d.2 ≤ now s)) } }

end Sys2Proof.Machine
end

