-- ==== Sys2Proof/Machine/MemPorts.lean ====
section
/-! DEFINITION. Answers: the memory ports' responses (R503 to R508), the responses of the fabric (R322 to R324, R335), and
what they do for the instruction, descriptor, packet, host read or licensee's engine that waits. -/

namespace Sys2Proof.Machine

/-! ### Answers in the making -/

def mapGather (o : Owner) (f : Gather → Gather) (s : State) : State :=
  { s with mp := { s.mp with gather := s.mp.gather.map (fun g => if g.owner = o then f g else g) } }

/-- Open an answer for a request from outside. -/
def openGather (o : Owner) (s : State) : State := { s with mp := { s.mp with gather := s.mp.gather ++ [{ owner := o }] } }

def addBytes (o : Owner) (place : Nat) (bs : List Byte) (s : State) : State :=
  mapGather o (fun g => { g with bytes := Sparse.putList g.bytes place bs }) s

def markBad (o : Owner) (s : State) : State := mapGather o (fun g => { g with bad := true }) s

/-- The mismatch mask of a part of a reduction joins the answer's (R335). -/
def addMismatch (o : Owner) (shift : Nat) (payload : List Byte) (s : State) : State :=
  mapGather o (fun g =>
    let m := byteField payload 0 1 * 2 ^ shift
    { g with mismatch := if g.mismatch.isEmpty then leBytes m 1 ++ payload.drop 1 else leBytes (byteField g.mismatch 0 1 + m) 1 ++ g.mismatch.drop 1 }) s

def gatherBytes (g : Gather) : List Byte := g.bytes.map Prod.snd

/-- R259: the signals whose write count has come are applied, and their counters are freed. -/
def releaseHeld (source epoch : Nat) (s : State) : State :=
  let n := landedCount s source epoch
  let ready := fun (h : HeldSignal) => h.source == source && h.epoch == epoch && decide (h.need ≤ n)
  let hs := s.held.filter ready
  if hs.isEmpty then s else
    hs.foldl (fun s h => respond h.request 0 0 [] (mailboxAdd h.unit h.slice h.tally h.amount s))
      { s with held := s.held.filter (fun h => !ready h), counters := s.counters.filter (fun w => !(w.source == source && w.epoch == epoch)) }

/-- R258: a write that carries an epoch has landed. -/
def landWrite (p : Packet) (s : State) : State :=
  if p.type ≠ 2 ∨ p.epoch = 0 then s else
    releaseHeld p.snode p.epoch { s with counters := s.counters.map (fun w =>
      if w.source = p.snode ∧ w.epoch = p.epoch then { w with landed := w.landed + 1 } else w) }

/-- A licensee's engine no longer has the request outstanding. -/
def dropDma (port tag : Nat) (s : State) : State :=
  setEnginePort port { enginePort s port with dma := (enginePort s port).dma.filter (fun d => d.1 != tag) } s

/-- The elements of an XR192 reduction whose anchors did not match are counted at the receiving block (R335). -/
def countMismatch (s : State) : State := { s with telemetry := { s.telemetry with anchorMismatches := s.telemetry.anchorMismatches + 1 } }

/-- Give an answer that is complete. A host read with tag `t` is owned as `t + 1`; a host write, as 0, is answered by nothing. -/
def giveAnswer (g : Gather) (s : State) : State :=
  match g.owner with
  | .remote p =>
    if g.bad ∧ p.type ≤ 4 then respond p 3 0 [] s
    else if !g.mismatch.isEmpty ∧ p.type = 4 then respond p 4 0 g.mismatch s
    else landWrite p (respond p 0 0 (if p.type = 1 ∨ p.type = 3 then gatherBytes g else []) s)
  | .host id tag => if tag = 0 then s else emit (if g.bad then .completerAbort id (tag - 1) else .completion id (tag - 1) (gatherBytes g)) s
  | .engine port _ tag =>
    let wr := (enginePort s port).dma.any (fun d => d.1 == tag && d.2.2)
    dropDma port tag (emit (.dmaResponse port tag (if g.bad then 2 else if wr then 1 else 0) (if g.bad || wr then [] else gatherBytes g)) s)
  | _ => s

/-- An earlier answer of the same host requester has not gone yet (R500). -/
def hostEarlier (o : Owner) (left : List Gather) : Bool :=
  match o with
  | .host id _ => left.any (fun g => match g.owner with | .host other _ => decide (other = id) | _ => false)
  | _ => false

/-- Give every complete answer, in order, keeping the ones that are not. -/
def giveAnswers (left : List Gather) : List Gather → State → State
  | [], s => { s with mp := { s.mp with gather := left } }
  | g :: gs, s =>
    if outstanding s g.owner || hostEarlier g.owner left then giveAnswers (left ++ [g]) gs s
    else giveAnswers left gs (giveAnswer g s)

def settleGather (s : State) : State := giveAnswers [] s.mp.gather s

/-! ### Engine ports: what an acknowledgement ends (R232, R512, R513) -/

/-- Writes that the engine issued under a call and that are not acknowledged. -/
def callWrites (ep : EnginePort) (call : Nat) : List Nat := (ep.dma.filter (fun d => d.2.1 == call && d.2.2)).map (fun d => d.1)

/-- The instruction of a call, with its unit. -/
def callInsn (s : State) (port : Nat) (k : Call) : Option (UnitCtx × EngInsn) :=
  (findUnit s (.port port) k.slice).bind (fun x => (x.insns.find? (fun e => e.id == k.insn)).map (fun e => (x, e)))

/-- Apply the held signals whose writes are acknowledged, in order (R513). -/
def releaseSignals (port : Nat) (s : State) : State :=
  let ep := enginePort s port
  let ready := fun (h : HeldEngineSignal) => h.writes.all (fun t => !ep.dma.any (fun d => d.1 == t && d.2.2))
  (ep.signals.filter ready).foldl (fun s h => mailboxAdd (.port port) h.slice h.tally h.amount s)
    (setEnginePort port { ep with signals := ep.signals.filter (fun h => !ready h) } s)

/-- End the calls that are done and whose writes are acknowledged (R232, R509). -/
def endCalls (port : Nat) (s : State) : State :=
  let ep := enginePort s port
  let ended := fun (k : Call) => k.done && (callWrites ep k.id).isEmpty && !ep.signals.any (fun h => h.call == k.id)
  (ep.calls.filter ended).foldl (fun s k => match callInsn s port k with | some (x, e) => retire x e.id s | none => s)
    (setEnginePort port { ep with calls := ep.calls.filter (fun k => !ended k) } s)

def settlePort (port : Nat) (s : State) : State := endCalls port (releaseSignals port s)

/-- A fault of a call's work: the record names the context and the port, and the queue stops (R511). -/
def portFault (port call cause addr detail : Nat) (s : State) : State :=
  match ((enginePort s port).calls.find? (fun k => k.id == call)).bind (callInsn s port) with
  | none => s
  | some (x, e) =>
    let d := runDesc x e.run
    stopQueue x.slice e.queue stExecFault
      { cause := cause, engine := engineId s x.unit e.eng, ports := 2 ^ port, addr := addr, pc := e.pc, desc := d % 2 ^ 44,
        tag := descTag s x.slice e.queue d, detail := detail } s

/-- Everything that an answer for an owner can end. -/
def afterAnswer (o : Owner) (s : State) : State :=
  let s1 := match o with
    | .insn u sl i => settleInsn u sl i s
    | _ => s
  let s2 := settleGather s1
  let s3 := match o with
    | .engine p _ _ => settlePort p s2
    | _ => s2
  settleCommands (releaseWaiting (drainPorts s3))

/-! ### What comes back -/

/-- A fault of an owner: an instruction holds it until its other requests are answered (R324); a descriptor's queue stops;
an answer for the outside turns bad. -/
def ownerFault (o : Owner) (cause addr detail : Nat) (s : State) : State :=
  match o with
  | .insn u sl i =>
    match findUnit s u sl with
    | none => s
    | some x =>
      match x.insns.find? (fun e => e.id == i) with
      | some e => holdFault x i (insnRecord s x e cause addr detail) s
      | none => s
  | .desc sl q k =>
    if (findQueue s sl q).any (fun x => queueOpen x && x.descs.any (fun d => d.index == k)) then
      stopQueue sl q stExecFault { cause := cause, engine := engineId s (moverOf s sl) 8, addr := addr, desc := k % 2 ^ 44, tag := descTag s sl q k, detail := detail } s
    else s
  | .engine p call _ => markBad o (portFault p call cause addr detail s)
  | .host _ _ => writeRecord (plainRecord cause addr detail) (markBad o s)
  | .remote _ => markBad o s
  | _ => s

/-- The traffic class of an owner's work. -/
def ownerClass (s : State) : Owner → Nat
  | .insn u sl i => classOf s sl (((findUnit s u sl).bind (fun x => x.insns.find? (fun e => e.id == i))).elim 0 EngInsn.queue)
  | .desc sl q _ => classOf s sl q
  | _ => 1

/-- Writes that follow a read of an earlier era are of that era too (R301, R308). -/
def keepEra (o : Owner) (pa len era : Nat) (s : State) : State :=
  let old := fun (r : MemReq) => if r.owner = o ∧ r.write ∧ paNode pa = ownNode s ∧ paLocal pa ≤ r.addr ∧ r.addr < paLocal pa + len then { r with era := era } else r
  { s with
    mp := { s.mp with out := s.mp.out.map old, queue := s.mp.queue.map old }
    fab := { s.fab with txns := s.fab.txns.map (fun t =>
      if t.owner = o ∧ t.packet.type = 2 ∧ pa ≤ t.packet.addr ∧ t.packet.addr < pa + len then { t with era := era } else t) } }

/-- The row that a write-on of an instruction belongs to: a departing `GATHER` names its row, any other none (R292). -/
def writeOnRow (s : State) (o : Owner) (va : Nat) : Nat :=
  match o with
  | .insn u sl i =>
    match (findUnit s u sl).bind (fun x => x.insns.find? (fun e => e.id == i)) with
    | some e => if opOf e.word = 0x30 then (va - dAddr e) / max 1 (tPitch1 (dT e)) else noRow
    | none => noRow
  | _ => noRow

/-- Bytes of an access of era `era` come back: they land, are written on, or join an answer. -/
def landBytes (o : Owner) (act : OnRead) (era : Nat) (bs : List Byte) (s : State) : State :=
  match act with
  | .discard => s
  | .landSram us sl a => us.foldl (fun s u => sramWrite sl u a bs s) s
  | .writeOn target key sl va =>
    keepEra o target bs.length era (nameVa (sentCount s) [{ va := va, pa := target, len := bs.length, key := key }] (writeOnRow s o va)
      (writePiece sl (ownerClass s o) o target key bs s))
  | .walkRow u sl i place =>
    mapUnit u sl (fun x => { x with insns := x.insns.map (fun e => if e.id = i then { e with rowBuf := Sparse.putList e.rowBuf place bs } else e) }) s
  | .answer place => addBytes o place bs s

/-! ### MEMORY_READ_RESPONSE and MEMORY_WRITE_ACK -/

def findReq (s : State) (port tag : Nat) (wr : Bool) : Option MemReq :=
  s.mp.out.find? (fun r => r.port == port && r.tag == tag && r.write == wr)

def dropReq (port tag : Nat) (s : State) : State :=
  { s with mp := { s.mp with out := s.mp.out.filter (fun r => !(r.port == port && r.tag == tag)) } }

/-- The physical address of a request. -/
def reqPa (s : State) (r : MemReq) : Nat := ownNode s * 2 ^ 52 + r.addr

/-- MEMORY_READ_RESPONSE: a memory controller answers a read (R505, R508). -/
def execMemoryReadResponse (port tag : Nat) (err : Bool) (s : State) : Result :=
  if 4 ≤ port then .fault .noSuchPlace else
    match findReq s port tag false with
    | none => .next s
    | some r =>
      let s1 := dropReq port tag s
      .next (afterAnswer r.owner (match (if err then none else memRead s r.key r.addr r.len) with
        | some bs => landBytes r.owner r.onRead r.era bs s1
        | none => ownerFault r.owner 0x502 (reqPa s r) 0 s1))

/-- The bytes of one element of a change in place. -/
def rmwElem : Rmw → Nat
  | .atom _ w _ _ _ => w / 8
  | .reduce _ fmt => packetElemBytes fmt

/-- The place at which a request's answer lies. -/
def answerPlace : OnRead → Nat
  | .answer p => p
  | _ => 0

/-- The address and anchors of the first element that a reduction left (R335). -/
def mismatchFault (o : Owner) (addr elem : Nat) (payload : List Byte) (s : State) : State :=
  let i := ((List.range 8).find? (fun i => (byteField payload 0 1).testBit i)).getD 0
  ownerFault o 0x404 (addr + i * elem) (byteField payload 2 2 * 2 ^ 16 + byteField payload 4 2) s

/-- What an acknowledged change in place gives its owner. -/
def rmwDone (r : MemReq) (op : Rmw) (s : State) : State :=
  if r.bad then ownerFault r.owner 0x502 (reqPa s r) 0 s
  else match op with
    | .atom _ _ _ _ _ => landBytes r.owner r.onRead r.era r.result s
    | .reduce _ _ =>
      if r.result.isEmpty then s
      else match r.owner with
        | .remote _ => addMismatch r.owner (answerPlace r.onRead / rmwElem op) r.result (countMismatch s)
        | o => mismatchFault o (reqPa s r) (rmwElem op) r.result (countMismatch s)

/-- MEMORY_WRITE_ACK: a memory controller acknowledges a write (R505, R506). -/
def execMemoryWriteAck (port tag : Nat) (s : State) : Result :=
  if 4 ≤ port then .fault .noSuchPlace else
    match findReq s port tag true with
    | none => .next s
    | some r =>
      let s1 := dropReq port tag s
      .next (afterAnswer r.owner (match r.rmw with
        | none => s1
        | some op => rmwDone r op s1))

/-! ### FABRIC_RESPONSE and FABRIC_RETRY_RESEND (R322 to R324) -/

def findTxn (s : State) (id : Nat) : Option Txn := s.fab.txns.find? (fun t => t.txid == id && t.sent)
def dropTxn (id : Nat) (s : State) : State := { s with fab := { s.fab with txns := s.fab.txns.filter (fun t => t.txid != id) } }
def mapTxn (id : Nat) (f : Txn → Txn) (s : State) : State :=
  { s with fab := { s.fab with txns := s.fab.txns.map (fun t => if t.txid = id then f t else t) } }

/-- The access kind of a packet (R292). -/
def packetAccess (type : Nat) : Nat := if type = 1 then 0 else if type = 2 then 1 else if type = 3 then 2 else 3

/-- `ADDR` and `DETAIL` of a refusal's record (R292, R583): a translation cause gives the virtual address, or the window offset, and
the detail word of R292; `PSIG_TARGET` names the target, and the answer's `SUB` says whether a context was there (log 34). -/
def refusalFields (s : State) (t : Txn) (cause there : Nat) : Nat × Nat :=
  let p := t.packet
  if cause = 0x208 then
    let prx := byteField p.payload 0 1 % 2
    (p.dnode * 2 ^ 32 + prx * 2 ^ 15 + byteField p.payload 1 1 * 2 ^ 8 + byteField p.payload 2 1,
      byteField p.payload 4 2 + there % 2 * 2 ^ 16)
  else if causeClass cause = 1 then
    let gen := genOf s t.slice
    if p.winv then (p.addr % 2 ^ 40, detailWord gen (packetAccess p.type) true 0 noRow)
    else
      let seg := (findSlice s t.slice).bind (fun sl => bindSegment sl.inForce t.va)
      (t.va, detailWord gen (packetAccess p.type) seg.isNone (seg.getD 0) t.row)
  else if p.type = 6 then (0, 0)
  else (p.addr, 0)

/-- A node has answered a step notice (R453). -/
def stepAnswered (t : Txn) (s : State) : State :=
  if t.packet.type = 0x0B ∧ byteField t.packet.payload 0 1 = 0 then { s with twin := { s.twin with awaiting := s.twin.awaiting.filter (fun n => n != t.packet.dnode) } } else s

/-- Count a correction against a slice (R316). -/
def countCorrection (slice : Nat) (s : State) : State := mapSlice slice (fun x => { x with corrections := x.corrections + 1 }) s

/-- An `OK` or `PARTIAL` answer; that of a reduction which this block has passed on joins its own answer (R335). -/
def answered (t : Txn) (p : Packet) (s : State) : State :=
  let s1 := if p.badSyms = 1 then countCorrection t.slice s else s
  if p.status = 4 then
    match t.owner with
    | .remote _ => addMismatch t.owner (answerPlace t.onRead / packetElemBytes t.packet.fmt) p.payload s1
    | o => mismatchFault o t.packet.addr (packetElemBytes t.packet.fmt) p.payload s1
  else if t.packet.type = 1 ∨ t.packet.type = 3 then landBytes t.owner t.onRead t.era p.payload s1
  else s1

/-- The request is one that R83 dropped: nothing waits for it, and it is not sent again. -/
def droppedTxn (t : Txn) : Bool := decide (t.owner = .none) && t.work.isSome

/-- The response to a packet of this block (R322, R323). -/
def takeResponse (p : Packet) (s0 : State) : State :=
  match findTxn s0 p.txid with
  | none => s0
  | some t =>
    let s := stepFree s0
    if p.status = 1 ∧ droppedTxn t then afterAnswer t.owner (dropTxn t.txid s)
    else if p.status = 1 then
      (mapTxn t.txid (fun t => { t with sent := false, retries := t.retries + 1, due := some (now s + min (4 * 2 ^ t.retries) 256) }) s)
    else if p.status = 3 ∨ (p.badSyms = 2 ∧ !p.payload.isEmpty) then
      if t.dataErrors < 3 ∧ !droppedTxn t then (transmit t.packet (mapTxn t.txid (fun t => { t with dataErrors := t.dataErrors + 1 }) s))
      else (afterAnswer t.owner (ownerFault t.owner 0x503 t.packet.addr 0 (dropTxn t.txid s)))
    else if p.status = 2 then
      let f := refusalFields s t p.cause p.sub
      (afterAnswer t.owner (ownerFault t.owner p.cause f.1 f.2 (dropTxn t.txid s)))
    else (afterAnswer t.owner (stepAnswered t (answered t p (dropTxn t.txid s))))

/-- FABRIC_RETRY_RESEND: the wait after a `RETRY` is over (R323). -/
def execFabricRetryResend (txid : Nat) (s : State) : Result :=
  match s.fab.txns.find? (fun t => t.txid == txid) with
  | none => .next s
  | some t =>
    match t.due with
    | none => .next s
    | some due =>
      if now s < due then .next s
      else .next (releaseWaiting (mapTxn txid (fun t => { t with due := none }) s))

end Sys2Proof.Machine
end

