-- ==== Sys2Proof/Machine/XlatSteps.lean ====
section
/-! DEFINITION. Walks that return (R281 to R284, R288 to R294, R302) and the steps of `SYNC_TABLES` (R298 to R305). -/

namespace Sys2Proof.Machine

/-! ### Walks -/

/-- The cause that a demand access meets: its instruction faults, or the queue of its record stops (R290). -/
def demandFault (slice cause : Nat) (s : State) (d : Demand) : State :=
  match (findUnit s d.unit slice).bind (fun x => ((allInsns x).find? (fun e => e.id == d.id)).map (fun e => (x, e))) with
  | some (x, e) => holdFault x e.id { d.record with cause := cause } s
  | none => s

/-- The engine name of a demand access. -/
def demandEngine (d : Demand) : UnitId × Nat × Nat := (d.unit, d.eng, d.id)

/-- The access kind of a code of R292 has its right in a page (R278). -/
def pageGrants (k : Nat) (u : PageUse) : Bool := if k = 1 then u.wr else if k = 2 then u.at' else if k = 3 then u.red else u.rd

/-- What a returning walk finds: an uncorrectable read is `TABLE_READ` (R289). -/
def walkFinds (s : State) (sl : Slice) (w : Walk) (err : Bool) : Except Nat PageUse :=
  let g := segmentAt sl.inForce w.segment
  pageOfEntry g (if err then none else readEntry s g w.page)

/-- A walk's entry has been read under the generation in force: the page is cached, or the demand accesses fault; a prefetch
is dropped, also where the page lacks the right that it was made for (R284, R288, R291). -/
def endWalk (sl : Slice) (w : Walk) (err : Bool) (s : State) : State :=
  match walkFinds s sl w err with
  | .ok u =>
    if w.demand.isEmpty && !pageGrants w.kind u then s
    else fillPage sl.id w.segment w.page (segmentAt sl.inForce w.segment).psize w.gen
      (w.place :: w.demand.map (fun d => XPlace.buffer d.unit d.eng)) u s
  | .error c =>
    match w.demand with
    | [] => s
    | d :: ds =>
      if c = 0x102 then stallEngines sl.id w.segment w.page ((d :: ds).map demandEngine) d.record s
      else (d :: ds).foldl (demandFault sl.id c) s

/-- TRANSLATION_WALK_RETURN: the oldest walk of the page returns, `err` where its entry's read found two bad symbols; one that began
under another generation is discarded, and its demand accesses come again and are translated under the generation in force (R302). -/
def execTranslationWalkReturn (slice segment : Nat) (page : WalkedPage) (s0 : State) : Result :=
  let here := fun (w : Walk) => w.slice == slice && w.segment == segment && w.page == page.page
  match findSlice s0 slice, s0.xlat.walks.find? here with
  | some sl, some w =>
    let s := stepFree { s0 with xlat := { s0.xlat with walks := s0.xlat.walks.filter (fun v => decide (v ≠ w)) } }
    if w.gen ≠ sl.gen then .next s else .next (endWalk sl w page.err s)
  | _, _ => .next s0

/-! ### SYNC_TABLES -/

/-- The blocks that take part in a sync: this block, and every other that keeps banks for the slice (R298). -/
def syncBlocks (s : State) (slice : Nat) : List Nat := s.boot.blkId :: sliceBlocks s slice

def doSyncTables (c : CmdReq) (s : State) : State :=
  let slice := cmdSlice c
  let g := par c 0 4
  match findSlice s slice with
  | none => failCmd c stBadParam s
  | some sl =>
    if c.phase ≠ .fresh then s
    else if g ≠ sl.gen ∧ g ≠ sl.gen + 1 then failCmd c stBadParam s
    else if sl.sync.isSome then failCmd c stBusy s
    else if g = sl.gen then genReply c s
    else
      let y : Sync := { seq := c.seq, gen := g, since := now s, acks := [], switchTick := none, switched := false, drained := [] }
      setPhase c.seq .waiting (emitD2d (sliceBlocks s slice) (.mgmt (.syncPrepare slice g)) (mapSlice slice (fun x => { x with sync := some y }) s))

/-- SYNC_TABLES: the lead sends prepare to every block of R298 (R300, R301 step 1). -/
def execSyncTables (seq : Word32) (s : State) : Result := cmdStep 0x0303 seq doSyncTables s

def mapSync (slice : Nat) (f : Sync → Sync) (s : State) : State := mapSlice slice (fun x => { x with sync := x.sync.map f }) s

/-- The lead takes an acknowledgement; at the last one within 256 ticks it fixes the switch tick (R301 step 3). -/
def takeSyncAck (slice block : Nat) (s : State) : State :=
  match (findSlice s slice).bind Slice.sync with
  | none => s
  | some y =>
    if !s.boot.isLead || y.switchTick.isSome || y.acks.contains block || !(syncBlocks s slice).contains block || decide (y.since + 256 < now s) then s
    else
      let acks := y.acks ++ [block]
      if (syncBlocks s slice).all acks.contains then
        let t := now s + 16
        emitD2d (sliceBlocks s slice) (.mgmt (.syncSwitch slice y.gen t)) (mapSync slice (fun y => { y with acks := acks, switchTick := some t }) s)
      else mapSync slice (fun y => { y with acks := acks }) s

/-- A block makes its staged bank ready and acknowledges (R301 step 2). -/
def prepareSync (slice gen : Nat) (s : State) : State :=
  if s.boot.isLead then takeSyncAck slice s.boot.blkId s
  else
    let y : Sync := { seq := 0, gen := gen, since := now s, acks := [], switchTick := none, switched := false, drained := [] }
    sendD2d s.boot.leadId (.syncAck slice gen) (mapSlice slice (fun x => { x with sync := some y }) s)

/-- SYNC_PREPARE: the prepare message reaches this block. -/
def execSyncPrepare (slice gen : Nat) (s : State) : Result :=
  if s.boot.isLead && !(((findSlice s slice).bind Slice.sync).map (fun y => y.gen == gen)).getD false then .next s
  else .next (prepareSync slice gen s)

/-- SYNC_ACK: a block's acknowledgement reaches the lead. -/
def execSyncAck (slice block : Nat) (s : State) : Result := .next (takeSyncAck slice block s)

/-- The command that waits for a slice's sync. -/
def syncCmd (s : State) (y : Sync) : Option CmdReq := cmdAt s y.seq 0x0303

/-- SYNC_ACK_TIMEOUT: 256 ticks have passed without every acknowledgement: the command fails, and the staged bank stays
(R301 step 3). -/
def execSyncAckTimeout (slice : Nat) (s : State) : Result :=
  match (findSlice s slice).bind Slice.sync with
  | none => .next s
  | some y =>
    if !s.boot.isLead || y.switchTick.isSome || decide (now s ≤ y.since + 256) then .next s
    else
      let s1 := emitD2d (sliceBlocks s slice) (.mgmt (.syncAbort slice y.gen)) (mapSlice slice (fun x => { x with sync := none }) s)
      .next (match syncCmd s y with | some c => failCmd c stTimedOut s1 | none => s1)

/-- The staged bank comes in force under its generation, and the L2 drops earlier entries (R298, R301 step 4). -/
def switchBank (slice gen : Nat) (s : State) : State :=
  { mapSlice slice (fun x => { x with inForce := x.staged, gen := gen, era := x.era + 1, sync := x.sync.map (fun y => { y with switched := true }) }) s with
    xlat := { s.xlat with cache := s.xlat.cache.filter (fun e => e.slice != slice || e.gen == gen) } }

/-- SYNC_SWITCH: the switch tick has come (R301 step 4). -/
def execSyncSwitch (slice : Nat) (s : State) : Result :=
  match (findSlice s slice).bind Slice.sync with
  | none => .next s
  | some y =>
    match y.switchTick with
    | none => .next s
    | some t => if y.switched || decide (now s < t) then .next s else .next (switchBank slice y.gen s)

/-- The banks and the generation in force go to the twin (R448). -/
def mirrorBanks (slice : Nat) (s : State) : State :=
  match findSlice s slice with
  | some x => if mirroring s && (findContext s slice).isSome then emit (.tether (.banks slice x.gen x.inForce)) s else s
  | none => s

/-- The lead takes a block's word that it has drained; after the last it replies (R301 step 6). -/
def takeDrained (slice block : Nat) (s : State) : State :=
  match (findSlice s slice).bind Slice.sync with
  | none => s
  | some y =>
    let drained := if y.drained.contains block then y.drained else y.drained ++ [block]
    if (syncBlocks s slice).all drained.contains then
      let s1 := mirrorBanks slice (mapSlice slice (fun x => { x with sync := none }) s)
      match syncCmd s y with | some c => genReply c s1 | none => s1
    else mapSync slice (fun y => { y with drained := drained }) s

/-- SYNC_DRAIN_DONE: a block has no access of an earlier generation outstanding (R301 steps 5 and 6). -/
def execSyncDrainDone (slice block : Nat) (s : State) : Result :=
  match (findSlice s slice).bind Slice.sync with
  | none => .next s
  | some y =>
    if !y.switched || (block == s.boot.blkId && eraBusy s slice) || !(syncBlocks s slice).contains block then .next s
    else if s.boot.isLead then .next (takeDrained slice block s)
    else if block = s.boot.blkId then
      .next (sendD2d s.boot.leadId (.syncDrained slice y.gen) (mirrorBanks slice <| mapSlice slice (fun x => { x with sync := none }) s))
    else .next s

end Sys2Proof.Machine
end

