-- ==== Sys2Proof/Machine/FabricIn.lean ====
section
/-! DEFINITION. Requests that arrive from the fabric: the checks of R321, windows (R309 to R311), reads, writes, atomics and
reductions (R330 to R335), signals (R255 to R261), gates (R265 to R267, R455) and step notices (R320, R454). -/

namespace Sys2Proof.Machine

/-! ### The checks of R317, R318 and R321 -/

/-- The classes that the table of R317 marks for a type; `none` for a type it does not list. -/
def typeClasses (type : Nat) : Option (List Nat) :=
  if 1 ≤ type ∧ type ≤ 4 then some [0, 1, 2]
  else if 5 ≤ type ∧ type ≤ 7 then some [0, 1]
  else if type = 8 ∨ type = 0x0A ∨ type = 0x0B then some [4]
  else if type = 9 then some [3]
  else none

/-- R317: the class, and `WINV` in TC2 and nowhere else. -/
def classOk (p : Packet) : Bool :=
  match typeClasses p.type with
  | none => true
  | some cs => cs.contains p.tc && (p.winv == (p.tc == 2))

/-- A range does not cross a 256-byte boundary. -/
def within256 (p : Packet) : Bool := decide (p.addr % 256 + p.len ≤ 256)

/-- The pairs of `SUB` and `FMT` of R333. -/
def reducePairOk (sub fmt : Nat) : Bool :=
  match sub with
  | 0 => fmt == 6
  | 1 => fmt == 4
  | 2 => fmt == 5
  | 3 => [4, 5, 0, 1].contains fmt
  | 4 => [4, 5, 0, 1].contains fmt
  | 5 => [0, 1].contains fmt
  | _ => false

/-- `LEN` and the fields suit the type (R318, R330, R332, R333). -/
def fieldsOk (p : Packet) : Bool :=
  (!p.winv || bitsOf 51 40 p.addr == 0) &&
  (match p.type with
   | 1 => decide (1 ≤ p.len) && within256 p
   | 2 => decide (1 ≤ p.len) && within256 p && p.payload.length == p.len
   | 3 => p.len == 16 && p.payload.length == 16 && decide (p.sub ≤ 4) && decide (p.fmt ≤ 3) && p.addr % (if p.fmt % 2 = 1 then 8 else 4) == 0
   | 4 =>
     let w := packetElemBytes p.fmt
     reducePairOk p.sub p.fmt && decide (1 ≤ p.len) && p.len % w == 0 && p.addr % w == 0 && within256 p && p.payload.length == p.len
   | 5 => p.len == 16 && p.payload.length == 16 && byteField p.payload 4 2 != 0 &&
     (byteField p.payload 0 1 % 2 == 0 || decide (byteField p.payload 1 1 % 32 < 8))
   | 6 => p.len == 16
   | 7 => p.len == 16
   | 8 => p.len == 8
   | 9 => true
   | 0x0A => true
   | 0x0B => p.len == 16 && p.payload.length == 16 && decide (byteField p.payload 0 1 ≤ 1)
   | _ => false)

/-- A packet is for this block: its own node or one that it has assumed (R321). -/
def forUs (s : State) (p : Packet) : Bool := p.dnode == ownNode s || s.fab.assumed.contains p.dnode

/-- Checks 1 and 2 of R321: the cause of a refusal. -/
def headerCause (s : State) (p : Packet) : Option Nat :=
  if !forUs s p then some 0x701
  else if (typeClasses p.type).isNone then some 0x703
  else if !classOk p then some 0x702
  else if !fieldsOk p then some 0x703
  else none

/-- The block answers the fabric: it is not fenced and has not handed its node over (R459, R460). -/
def serves (s : State) : Bool := !s.twin.fenced && s.twin.serving

/-- The key slot of an access: the twin table where the address belongs to an assumed node (R468). -/
def packetKey (s : State) (p : Packet) : Nat := if p.dnode = ownNode s then p.key else 4096 + p.key

/-- A packet of a slice makes its sender a peer of the slice's step before it is answered (R448). -/
def notePeer (p : Packet) (s : State) : State :=
  match tagSlice s p.dnode p.stag with
  | some sl => if p.tc ≤ 1 then addPeer sl p.snode s else s
  | none => s

def refuse (p : Packet) (cause : Nat) (s : State) : State := respond p 2 cause [] s

/-- Count the correction of a payload against the slice of its tag (R316). -/
def noteCorrection (p : Packet) (s : State) : State :=
  if p.badSyms = 1 then (match tagSlice s p.dnode p.stag with | some sl => countCorrection sl s | none => s) else s

/-- A request of one type takes its step: checks 1 and 2 come first; a packet of another listed type is another row's. -/
def acceptType (type : Nat) (p : Packet) (act : State → State) (s : State) : Result :=
  if !serves s then .next s
  else if p.type ≠ type ∧ (typeClasses p.type).isSome then .next s
  else
    match headerCause s p with
    | some c => .next (refuse p c s)
    | none => .next (act (notePeer p s))

/-- The payload check of R316 for a request with nothing further to check (R321 check 5). -/
def checkedPayload (p : Packet) (act : State → State) (s : State) : State :=
  if p.badSyms = 2 then respond p 3 0 [] s else act (noteCorrection p s)

/-! ### Windows (R309 to R311) -/

/-- The access kind of a window access. -/
def windowAccess (type : Nat) : Access := if type = 1 then .read else if type = 2 then .write else if type = 3 then .atomic else .reduce

/-- A refusal is counted in the window's telemetry (R311). -/
def countRefusal (win : Nat) (s : State) : State :=
  { s with telemetry := { s.telemetry with windowRefusals := Sparse.put s.telemetry.windowRefusals win (Sparse.get 0 s.telemetry.windowRefusals win + 1) } }

/-- R310: the first cause that applies, or the owner and the address in its space. -/
def windowCheck (s : State) (p : Packet) : Except Nat (Slice × Nat) :=
  let twin := s.fab.assumed.contains p.dnode
  match (if twin then s.twin.set.bind (fun c => windowAt c s.twin.block p.win) else windowAt s.cfg.active s.boot.blkId p.win) with
  | none => .error 0x107
  | some w =>
    if !w.v then .error 0x107
    else if (BitVec.ofNat 22 p.stag &&& w.amask) ≠ (w.allow &&& w.amask) then .error 0x108
    else if !(windowAccess p.type).right w.rd w.wr w.at' w.red then .error 0x109
    else if w.length < p.addr % 2 ^ 40 + accessLen p then .error 0x10A
    else
      match findSlice s (w.owner + (if twin then 1024 else 0)) with
      | none => .error 0x10B
      | some sl => .ok (sl, w.tbase + p.addr % 2 ^ 40)

/-- The record of the receiving block for a window that does not translate: it names the owner, no queue and the window offset (R292,
R311). -/
def unmappedRecord (s : State) (sl : Slice) (k : Access) (va offset : Nat) : FaultRecord :=
  let seg := bindSegment sl.inForce va
  { cause := 0x10B, slice := sl.id, noQueue := true, context := contextSlot s sl.id, addr := offset
    detail := detailWord sl.gen k.code seg.isNone (seg.getD 0) noRow }

/-! ### Reads, writes, atomics and reductions -/

/-- Do an access on translated pieces for the packet `p`. -/
def pieceAccess (slice : Nat) (p : Packet) (ps : List Piece) (s : State) : State :=
  let o : Owner := .remote p
  (ps.foldl (fun (a : State × Nat) z =>
    (match p.type with
     | 1 => readPiece slice 1 o (.answer a.2) z a.1
     | 2 => writePiece slice 1 o z.pa z.key ((p.payload.drop a.2).take z.len) a.1
     | 3 => atomPiece slice 1 o (.answer a.2) z.pa z.key z.len p.sub p.fmt (byteField p.payload 0 z.len) (byteField p.payload 8 z.len) a.1
     | _ =>
       if paNode z.pa = ownNode s then
         (chunks 512 z.len z.pa z.len).foldl (fun s c =>
           reducePiece slice 1 o (.answer (a.2 + (c.1 - z.pa))) c.1 z.key p.sub p.fmt
             ((p.payload.drop (a.2 + (c.1 - z.pa))).take c.2) s) a.1
       else reducePiece slice 1 o (.answer a.2) z.pa z.key p.sub p.fmt ((p.payload.drop a.2).take z.len) a.1,
     a.2 + z.len)) (s, 0)).1

/-- The counter of a write's source and epoch is there (R258). -/
def hasCounter (s : State) (p : Packet) : Bool := s.counters.any (fun w => w.source == p.snode && w.epoch == p.epoch)

/-- R261: a write that would need a 257th counter is to be sent again. -/
def counterFull (s : State) (p : Packet) : Bool := p.type == 2 && p.epoch != 0 && !hasCounter s p && decide (256 ≤ s.counters.length)

/-- Allocate the counter of a write or signal. -/
def allocCounter (p : Packet) (s : State) : State :=
  if p.epoch = 0 ∨ hasCounter s p then s
  else { s with counters := s.counters ++ [{ source := p.snode, epoch := p.epoch, landed := 0, tag := p.stag }] }

/-- An access that has passed every check of its address goes ahead; its answer follows when it is done. `log` is what a window access
leaves in its owner's translations and dirty log, once the request is not refused (R321). -/
def goAccess (slice : Nat) (p : Packet) (ps : List Piece) (log : State → State) (s : State) : State :=
  if p.badSyms = 2 ∧ p.type ≠ 1 then respond p 3 0 [] s
  else if counterFull s p then respond p 1 0 [] s
  else
    let s1 := openGather (.remote p) (noteCorrection p (if p.type = 2 then allocCounter p s else s))
    settleGather (pieceAccess slice p ps (log s1))

/-- `READ`, `WRITE`, `ATOM` and `REDUCE` at the receiver (R321 checks 3, 5 and 6). -/
def memAccess (p : Packet) (s0 : State) : State :=
  if p.winv then
    let s := stepFree s0
    match windowCheck s p with
    | .error c => countRefusal p.win (refuse p c s)
    | .ok (sl, va) =>
      let k := windowAccess p.type
      let n := accessLen p
      match xlatBound s .l2 sl true k va n with
      | .error _ => countRefusal p.win (refuse p 0x10B (writeRecord (unmappedRecord s sl k va (p.addr % 2 ^ 40)) s))
      | .ok ps => goAccess sl.id p ps (fun s => logWrite (.remote p) sl k va n (cachePages .l2 sl va n s)) s
  else if nodeBytes s0 < paLocal p.addr + accessLen p then refuse p 0x106 s0
  else
    goAccess 2048 p [{ va := 0, pa := ownNode s0 * 2 ^ 52 + paLocal p.addr, len := accessLen p, key := packetKey s0 p }] (fun s => s) s0

/-- FABRIC_READ (R330, R331). -/
def execFabricRead (p : Packet) (s : State) : Result := acceptType 1 p (fun s => memAccess p s) s

/-- FABRIC_WRITE (R330, R331, R258). -/
def execFabricWrite (p : Packet) (s : State) : Result := acceptType 2 p (fun s => memAccess p s) s

/-- FABRIC_ATOM (R332). -/
def execFabricAtom (p : Packet) (s : State) : Result := acceptType 3 p (fun s => memAccess p s) s

/-- FABRIC_REDUCE (R333 to R335). -/
def execFabricReduce (p : Packet) (s : State) : Result := acceptType 4 p (fun s => memAccess p s) s

/-! ### Signals (R255 to R261) -/

/-- The unit that a `SIG` names. -/
def sigUnit (p : Packet) : UnitId :=
  if byteField p.payload 0 1 % 2 = 1 then .port (byteField p.payload 1 1 % 8) else .cluster (byteField p.payload 1 1 % 32)

/-- R255: the context and tally that a `SIG` reaches. -/
def sigTarget (s : State) (p : Packet) : Option (Nat × UnitId × Nat) :=
  match tagSlice s p.dnode p.stag with
  | none => none
  | some sl =>
    let i := byteField p.payload 2 1
    if (findUnit s (sigUnit p) sl).isSome ∧ i < tallyCount s sl (sigUnit p) then some (sl, sigUnit p, i) else none

/-- R258 and R261: hold a fenced signal, or refuse it with a retry. -/
def holdSignal (p : Packet) (sl : Nat) (u : UnitId) (i need : Nat) (s : State) : State :=
  if 32 ≤ (s.held.filter (fun h => decide (h.unit = u))).length ∨ (!hasCounter s p ∧ 256 ≤ s.counters.length) then respond p 1 0 [] s
  else
    let h : HeldSignal := { unit := u, slice := sl, source := p.snode, epoch := p.epoch, need := need, tally := i,
                            amount := byteField p.payload 4 2, since := now s, request := p }
    releaseHeld p.snode p.epoch (allocCounter p { s with held := s.held ++ [h] })

/-- The block holds a context of the signal's slice on the unit that it names (R255, R583). -/
def signalContext (s : State) (p : Packet) : Bool := ((tagSlice s p.dnode p.stag).bind (findUnit s (sigUnit p))).isSome

/-- The write counter of a source and epoch is free again (R259). -/
def freeCounter (source epoch : Nat) (s : State) : State :=
  { s with counters := s.counters.filter (fun w => !(w.source == source && w.epoch == epoch)) }

/-- R255, R257 to R259, R261; a refusal says whether a context was there (R583, log 34). -/
def takeSignal (p : Packet) (s : State) : State :=
  match sigTarget s p with
  | none => refuse { p with sub := if signalContext s p then 1 else 0 } 0x208 s
  | some (sl, u, i) =>
    if p.badSyms = 2 then respond p 3 0 [] s
    else
      let need := byteField p.payload 8 3
      let s1 := noteCorrection p s
      let apply := fun (s : State) => respond p 0 0 [] (mailboxAdd u sl i (byteField p.payload 4 2) s)
      if p.epoch = 0 then apply s1
      else if need = 0 then apply (freeCounter p.snode p.epoch s1)
      else holdSignal p sl u i need s1

/-- FABRIC_SIG (R255, R257 to R259, R261). -/
def execFabricSig (p : Packet) (s : State) : Result := acceptType 5 p (takeSignal p) s

/-- The timeout of a held signal: that of the queue whose active run's range holds the tally (R260). -/
def heldTimeout (s : State) (h : HeldSignal) : Nat :=
  match (findUnit s h.unit h.slice).bind (fun x => (heldRuns x).find? (fun r =>
      decide (r.tallyFirst ≤ h.tally) && decide (h.tally < r.tallyFirst + r.tallyCount))) with
  | some r => ((findQueue s h.slice r.queue).map Queue.timeout).getD Config.defaultTimeout
  | none => Config.defaultTimeout

/-- SYNC_ORDER: a fenced signal's writes have not come in time; it is discarded with a record (R260). -/
def execSyncOrder (unit : UnitId) (source epoch : Nat) (s : State) : Result :=
  match s.held.find? (fun h => decide (h.unit = unit) && h.source == source && h.epoch == epoch) with
  | none => .next s
  | some h =>
    if now s < h.since + heldTimeout s h then .next s
    else
      let r : FaultRecord := { cause := 0x209, slice := h.slice, noQueue := true, context := contextSlot s h.slice
                               addr := epoch * 2 ^ 48 + source * 2 ^ 32 + syncAddr s unit h.tally 0
                               detail := landedCount s source epoch * 2 ^ 32 + h.need }
      .next (refuse h.request 0x209 (writeRecord r { s with
        held := s.held.filter (fun x => decide (x ≠ h))
        counters := s.counters.filter (fun w => !(w.source == source && w.epoch == epoch)) }))

/-! ### Gates (R265 to R267, R455) -/

/-- The sender's node is one that a survivor has assumed, as far as this home knows (R455). -/
def knownAssumed (s : State) (node : Nat) : Bool := s.fab.assumed.contains node || s.fab.failed.contains node

/-- A `GATE_ARRIVE` at the home. -/
def takeArrival (p : Packet) (a : Arrival) (s : State) : State :=
  let place := gatePlace s p.dnode a.gate
  let g := gateAt s place
  if a.expected = 0 ∨ 4096 < a.expected ∨ 1024 ≤ a.gate then refuse p 0x703 s
  else if p.badSyms = 2 ∧ knownAssumed s p.snode ∧ !g.free ∧ g.tag = a.tag then respond p 3 0 [] s
  else if knownAssumed s p.snode && !g.free && g.tag == a.tag && g.gen.toNat == a.gen && g.list.contains a.who then respond p 0 0 [] s
  else if knownAssumed s p.snode && !g.free && g.tag == a.tag && (g.gen - 1).toNat == a.gen then
    sendReleases p.dnode a.tag a.gate a.gen [a.who] (respond p 0 0 [] s)
  else
    match arriveAt a g with
    | .error c => refuse p c s
    | .ok g' => if p.badSyms = 2 then respond p 3 0 [] s else placeArrival place g' (respond p 0 0 [] (noteCorrection p s))

/-- GATE_ARRIVE (R265, R266). -/
def execGateArrive (p : Packet) (a : Arrival) (s : State) : Result := acceptType 6 p (takeArrival p a) s

/-- GATE_RELEASE: it receives no response (R267, R322). -/
def execGateRelease (p : Packet) (gate gen : Nat) (s : State) : Result :=
  if !serves s || p.type ≠ 7 || (headerCause s p).isSome || p.badSyms = 2 then .next s
  else
    match tagSlice s p.dnode p.stag with
    | some sl => .next (landRelease p.snode sl (p.addr % 32) gate gen (notePeer p (noteCorrection p s)))
    | none => .next { s with telemetry := { s.telemetry with discardedReleases := s.telemetry.discardedReleases + 1 } }

/-! ### Step notices (R320, R454) -/

/-- The node that a notice names. -/
def noticeNode (p : Packet) : Nat := byteField p.payload 2 2 % 4096

/-- The run belongs to a launch of a step graph. -/
def stepRun (sl : Slice) (r : Run) : Bool :=
  match r.node with
  | some (h, _, _) => sl.graphs.any (fun g => g.handle == h && g.step)
  | none => false

/-- Work of a step on one unit: the numbers of its runs. -/
def stepRunIds (sl : Slice) (x : UnitCtx) : List Nat :=
  ((heldRuns x).filter (stepRun sl)).map Run.id

/-- Take a step's work off a unit, and rebase its tallies (R454 step 1). -/
def clearStepWork (s : State) (sl : Slice) (x : UnitCtx) : UnitCtx :=
  let ids := stepRunIds sl x
  let gone := ((allInsns x).filter (fun e => ids.contains e.run)).map EngInsn.id
  dropRuns (fun r => ids.contains r.id) gone (rebaseRuns s ((heldRuns x).filter (stepRun sl)) x)

/-- The request belongs to an instruction of a step's run. -/
def stepOwner (s : State) (sl : Slice) : Owner → Bool
  | .insn u k i => k == sl.id && (match findUnit s u k with
      | some x => (allInsns x).any (fun e => e.id == i && (stepRunIds sl x).contains e.run)
      | none => false)
  | _ => false

/-- The slice has a step in progress with the named node among its peers, and has not aborted it for that node yet. -/
def stepConcerned (node : Nat) (sl : Slice) : Bool :=
  sl.peers.contains node && !sl.abortedFor.contains node && sl.graphs.any (fun g => g.step && !g.launches.isEmpty)

/-- The signals that a slice holds here are discarded; each is answered as one whose writes have not come is (R260, R322, log 81). -/
def discardHeld (slice : Nat) (s : State) : State :=
  (s.held.filter (fun h => h.slice == slice)).foldl (fun s h => refuse h.request 0x209 s)
    { s with held := s.held.filter (fun h => h.slice != slice) }

/-- Steps 1 to 3 of R454 for one slice, with its record; a step that is aborted already only notes the further node (log 81). -/
def abortStep (node : Nat) (o : Owner) (s : State) (sl : Slice) : State :=
  if sl.aborted then mapSlice sl.id (fun x => { x with abortedFor := x.abortedFor ++ [node] }) s else
  let s1 := dropOwned (stepOwner s sl) o s
  let s2 := { s1 with
    units := s1.units.map (fun x => if x.slice = sl.id then clearStepWork s1 sl x else x)
    counters := s1.counters.filter (fun w => w.tag != sliceTag s sl.id && !s1.held.any (fun h => h.slice == sl.id && h.source == w.source && h.epoch == w.epoch))
    gates := s1.gates.map (fun e => if !e.2.free ∧ e.2.tag = sliceTag s sl.id then (e.1, { e.2 with count := 0, list := [], takeNext := true }) else e) }
  writeRecord { cause := 0x908, slice := sl.id, noQueue := true, context := contextSlot s sl.id }
    (mapSlice sl.id (fun x => { x with runs := x.runs.filter (fun r => !stepRun x r), aborted := true, abortedFor := [node] }) (discardHeld sl.id s2))

/-- An abort notice: each slice concerned stops its step; the answer goes once every request of the steps is answered or
dropped. -/
def takeAbort (p : Packet) (s : State) : State :=
  let o : Owner := .remote p
  let s1 := { s with fab := { s.fab with failed := if s.fab.failed.contains (noticeNode p) then s.fab.failed else s.fab.failed ++ [noticeNode p] } }
  settleGather ((s1.slices.filter (stepConcerned (noticeNode p))).foldl (abortStep (noticeNode p) o) (openGather o s1))

/-- STEP_CTL_ABORT (R320, R454). -/
def execStepCtlAbort (p : Packet) (s : State) : Result :=
  acceptType 0x0B p (fun s => if byteField p.payload 0 1 = 0 then checkedPayload p (takeAbort p) s else s) s

/-- R454 step 5: the step begins again from its first node, with the same parameter buffer. -/
def restartStep (x : Slice) : Slice :=
  { x with
    aborted := false, abortedFor := []
    graphs := x.graphs.map (fun g => if g.step then
      { g with launches := g.launches.map (fun l => { l with nodes := l.nodes.map (fun _ => none), imageAcked := false, imageSent := false }) } else g) }

/-- The queues of a slice's step launches. -/
def stepQueues (sl : Slice) : List Nat := ((sl.graphs.filter (fun g => g.step)).map (fun g => g.launches.map GLaunch.queue)).flatten

/-- A restart for a slice's step: it begins again once every node for which it was aborted is back (R454, log 81). -/
def restartSlice (node : Nat) (s : State) (sl : Slice) : State :=
  if sl.abortedFor = [node] then
    (stepQueues sl).foldl (fun s q => mapQueue sl.id q (fun x => { x with timer := 0 }) s) (mapSlice sl.id restartStep s)
  else mapSlice sl.id (fun x => { x with abortedFor := x.abortedFor.erase node }) s

/-- A restart concerns the steps that were aborted for the node it names, and no other (R320). -/
def takeRestart (p : Packet) (s : State) : State :=
  respond p 0 0 [] ((s.slices.filter (fun x => x.abortedFor.contains (noticeNode p))).foldl (restartSlice (noticeNode p)) s)

/-- STEP_CTL_RESTART (R320, R454). -/
def execStepCtlRestart (p : Packet) (s : State) : Result :=
  acceptType 0x0B p (fun s => if byteField p.payload 0 1 = 1 then checkedPayload p (takeRestart p) s else s) s

end Sys2Proof.Machine
end

