-- ==== Sys2Proof/Machine/Power.lean ====
section
/-! DEFINITION. Power (spec/17, spec/15): the governor, throttle levels, schuss, clamps and the thermal trip, the domains, and
deep idle. -/

namespace Sys2Proof.Machine

def mapPower (f : Power → Power) (s : State) : State := { s with power := f s.power }

/-! ### The governor (R554 to R558, R515) -/

/-- The clusters' share of a block: 98 W when schuss is permitted, else 63 W (R554). -/
def clusterMax (s : State) : Nat := if s.power.permit then 98 else 63

/-- The sum of `EP_PMAX` over the engines of a mask. -/
def pmaxOf (s : State) (m : BitVec 8) : Nat :=
  (((List.range 8).filter (fun n => m.getLsbD n)).map (fun n => s.boot.image.epPmax.getD n 0)).sum

/-- `A` of R554 times 512, with the engines that show no acknowledgement counted at `EP_PMAX` and taken off (R515, log 35). -/
def available512 (s : State) (p : Nat) (rs : List DrawReport) : Int :=
  let late := (rs.map (fun (r : DrawReport) => pmaxOf s (r.present &&& r.late))).sum
  let ready := (rs.map (fun (r : DrawReport) => pmaxOf s (r.present &&& ~~~r.late))).sum
  let pcl := (rs.map DrawReport.draw).sum
  let u := max 0 ((512 * p : Int) - 512 * pcl - 32 * ready * (16 - s.power.elevel) - 512 * late)
  512 * s.cfg.active.envelope - u - 16 * s.cfg.active.envelope - 512 * late

/-- `M` of R554 times 512, without the engines that show no acknowledgement. -/
def demand512 (s : State) (rs : List DrawReport) : Int :=
  512 * ((partBlocks s).length * clusterMax s + (rs.map (fun (r : DrawReport) => pmaxOf s (r.present &&& ~~~r.late))).sum : Nat)

/-- The level for `f = min(1, max(0, A / M))` (R554). -/
def levelOf (a m : Int) : Nat :=
  if a ≤ 0 then 15 else if m ≤ a then 0 else min 15 (16 - (16 * a / m).toNat)

/-- The schuss chairs of the last hour, should the next chair run in schuss (R564). -/
def wearNext (s : State) : Nat := (s.power.history.filter (fun c => decide (chairOf s + 1 < c + 3433228))).length + 1

/-- The conditions of R562 that a block sees itself: no clamp or trip now or ended in this chair, and the window of 256. -/
def schussFits (s : State) : Bool :=
  !s.power.clamp && !s.power.trip && decide (s.power.endedClamp ≠ some (chairOf s)) && decide (schussWindow s < 38)

/-- The staged level and schuss grant of the next chair on this block; a granted block raises `VDD_CORE` (R556, R562 to
R564). `ok` says that the part's conditions of R562 hold. -/
def stagePower (level : Nat) (short ok : Bool) (s : State) : State :=
  let worn := decide (343322 < wearNext s)
  let grant := ok && schussFits s && !worn
  let s1 := mapPower (fun p => { p with
    stagedLevel := some level, stagedOver := short, granted := grant, wear := if ok && schussFits s then worn else p.wear
    mv := if grant then 880 else p.mv }) s
  if grant then emit (.coreVoltage 880) s1 else s1

/-- Raise the governor source of every block of the part (R557). -/
def raiseCaps (s : State) : State := (partBlocks s).foldl (fun s b => raiseSource (40 + b) s) s

/-- The schuss grant that the part's figures allow for one block (R562). -/
def mayGrant (s : State) (full : Bool) (rs : List DrawReport) (b : Nat) : Bool :=
  s.power.permit && full && rs.any (fun r => r.block == b && decide (3072 ≤ r.issuing))

/-- The lead stages the levels of every block (R554, R557). -/
def stageLevels (p : Nat) (rs : List DrawReport) (s : State) : State :=
  let a := available512 s p rs
  let m := demand512 s rs
  let level := levelOf a m
  let full := decide (m ≤ a)
  let s1 := if s.power.stagedLevel.getD 0 = 0 ∧ 0 < level then raiseCaps s else s
  let s2 := (otherBlocks s).foldl (fun t b => sendD2d b (.mgmt (.powerGrant
    [level, flag (decide (a ≤ 0)) 0, flag (mayGrant s full rs b) 0, flag s.power.permit 0])) t) s1
  stagePower level (decide (a ≤ 0)) (mayGrant s full rs s.boot.blkId) s2

/-- GOVERNOR_STAGE: the lead computes the levels of the next chair, once in each relay zone's staging part; with no reading the
levels repeat (R554, R568). -/
def execGovernorStage (reading : Option Nat) (reports : List DrawReport) (s : State) : Result :=
  if !s.boot.isLead || !s.boot.ready || decide (tickOf s < Config.relayTick) || decide (Config.settleTick ≤ tickOf s) ||
      decide (s.power.lastGoverned = chairOf s + 1) then .next s else
    let s1 := mapPower (fun p => { p with lastGoverned := chairOf s + 1 }) s
    match reading with
    | none => .next (mapPower (fun p => { p with granted := false }) (raiseCaps s1))
    | some p => .next (stageLevels p reports s1)

/-- A member takes the lead's levels (R555). -/
def takeGrant (levels : List Nat) (s : State) : State :=
  stagePower (levels.getD 0 0) (levels.getD 1 0 == 1) (levels.getD 2 0 == 1) (mapPower (fun p => { p with permit := levels.getD 3 0 == 1 }) s)

/-! ### Levels in force -/

/-- One engine port presents a level; a change restarts the 16 ticks (R515, R529). -/
def presentLevel (level : Nat) (s : State) (n : Nat) : State :=
  let p := enginePort s n
  if !s.boot.epPresent.getLsbD n || p.level == level then s
  else emit (.throttle n level) (setEnginePort n { p with level := level, levelTick := now s, ackPending := true, late := false } s)

/-- Every cluster and engine port takes a level (R555). -/
def setLevel (level : Nat) (s : State) : State :=
  (List.range 8).foldl (presentLevel level) (mapPower (fun p => { p with clevel := level, elevel := level }) s)

/-- Set `VDD_CORE` (R526). -/
def setVoltage (mv : Nat) (s : State) : State :=
  if s.power.mv = mv then s else emit (.coreVoltage mv) (mapPower (fun p => { p with mv := mv }) s)

/-- ENGINE_THROTTLE_ACK: the engine shows the level it has reached; an unconnected port is ignored (R515, R516). -/
def execEngineThrottleAck (port level : Nat) (s : State) : Result :=
  if 8 ≤ port then .fault .noSuchPlace
  else if !s.boot.epPresent.getLsbD port then .next s
  else
    let p := enginePort s port
    let met := decide (level = p.level)
    .next (setEnginePort port { p with ackLevel := level, ackPending := p.ackPending && !met, late := p.late && !met } s)

/-- THROTTLE_ACK_TIMEOUT: 16 ticks without the acknowledgement; the governor counts the engine at `EP_PMAX` (R515). -/
def execThrottleAckTimeout (port : Nat) (s : State) : Result :=
  if 8 ≤ port then .fault .noSuchPlace
  else
    let p := enginePort s port
    if p.ackPending && decide (p.levelTick + 16 ≤ now s) then .next (setEnginePort port { p with late := true } s) else .next s

/-! ### Clamps and the thermal trip (R559 to R561, R528) -/

/-- Schuss ends at once (R559, R560). -/
def endSchuss (s : State) : State :=
  mapPower (fun p => { p with schuss := false, granted := false, clock := if p.trip then 1200 else 2000 }) s

/-- VR_ALERT: a fall of `VR_ALERT_N` applies a fast clamp, which never lowers a level (R559, R568). -/
def execVrAlert (s : State) : Result :=
  let t := now s
  let s1 := mapPower (fun p => { p with
    clamp := true, clampSince := if p.clamp then p.clampSince else some s.lift.wallNs, alertHighSince := some t })
    (endSchuss { s with pins := { s.pins with vrAlert := false } })
  let s2 := setVoltage (if s1.power.trip then 620 else 750) (setLevel (max 12 s1.power.clevel) s1)
  .next (raiseSource 2 s2)

/-- The boundary that ends the first whole chair after a tick. -/
def wholeChairEnd (t : Nat) : Nat := ((t + Config.chairTicks - 1) / Config.chairTicks + 1) * Config.chairTicks

/-- CLAMP_END: the clamp has held for 1 ms of the reference clock (R8) and `VR_ALERT_N` has been high for one whole chair (R528); the
levels resume at the next chair boundary (R559). -/
def execClampEnd (s : State) : Result :=
  let t := now s
  let long := match s.power.clampSince with | some c => decide (c + 1000000 ≤ s.lift.wallNs) | none => true
  let high := match s.power.alertHighSince with | some c => decide (wholeChairEnd c ≤ t) | none => true
  if s.power.clamp && long && high then
    .next (mapPower (fun p => { p with clamp := false, clampSince := none, alertHighSince := none, endedClamp := some (chairOf s) })
      { s with pins := { s.pins with vrAlert := true } })
  else .next s

/-- THERMAL_TRIP: a sensor of block `block` reaches `TJ_LIMIT`: 1.2 GHz, then 0.62 V, and source 1 (R560). A trip of another block is
that block's. -/
def execThermalTrip (block : Nat) (s : State) : Result :=
  if block ≠ s.boot.blkId then .next s else
    let t := now s
    let s1 := setVoltage 620 (endSchuss (mapPower (fun p => { p with trip := true, tripCoolSince := some t, wantNominal := false }) s))
    .next (if s.power.trip then s1 else raiseSource 1 (mapPower (fun p => { p with clampSince := if p.clamp then p.clampSince else some s.lift.wallNs }) s1))

/-- CORE_VOLTAGE_REACHED: the core rail has reached its setting; after a trip the clock returns to 2.0 GHz once that is 0.75 V
(R560). -/
def execCoreVoltageReached (s : State) : Result :=
  if s.power.wantNominal && s.power.mv == 750 then .next (mapPower (fun p => { p with clock := 2000, wantNominal := false }) s) else .next s

/-- The trip ends at the first boundary after a whole chair in which no sensor was reported hot (R560, log 36). -/
def endTrip (s : State) : State :=
  match s.power.tripCoolSince with
  | some t =>
    if s.power.trip && decide (wholeChairEnd t ≤ now s) then
      setVoltage 750 (mapPower (fun p => { p with
        trip := false, tripCoolSince := none, wantNominal := true, clampSince := if p.clamp then p.clampSince else none
        endedClamp := some (chairOf s) }) s)
    else s
  | none => s

/-- Schuss begins or ends at tick 0 of a chair (R563, R568). -/
def switchSchuss (s : State) : State :=
  if s.power.granted && !s.power.clamp && !s.power.trip then
    mapPower (fun p => { p with schuss := true, granted := false, clock := 2300, history := p.history ++ [chairOf s] }) s
  else
    let s1 := mapPower (fun p => { p with schuss := false, granted := false, clock := if p.schuss then 2000 else p.clock }) s
    if s1.power.trip then s1 else setVoltage 750 s1

/-- A cluster is in its resurfacing chair. -/
def resurfacing (s : State) (c : Nat) : Bool := s.slices.any (fun x => (x.resurf.map (fun r => r.chair == chairOf s && r.clusters.contains c)).getD false)

/-- R484: the clusters whose draw the governor holds at its cap, each for its whole resurfacing chair. -/
def heldClusters (s : State) : BitVec 32 :=
  (List.range 32).foldl (fun m c => if resurfacing s c then m ||| (1#32 <<< c) else m) 0

/-- What tick 0 of a chair does to the levels and the clock (R555, R556, R559, R563). -/
def powerBoundary (s : State) : State :=
  let s1 := switchSchuss (endTrip s)
  let level := s1.power.stagedLevel.getD 0
  mapPower (fun p => { p with overBudget := p.stagedOver, chairsSeen := p.chairsSeen + 1, flat := heldClusters s })
    (setLevel (if s1.power.clamp then max 12 level else level) s1)

/-! ### SET_SCHUSS (R565) -/

/-- The detail of the reply; the other blocks' figures lie outside this block's state (log 33). -/
def schussDetail (s : State) : Nat :=
  let other := fun (i : Nat) => (otherBlocks s).map (fun b => Config.freeNat (s.free + 3 * b + i))
  flag s.power.permit 0 + flag (s.power.schuss || (other 0).any (fun n => n % 2 == 1)) 1 +
  flag (s.power.wear || (other 1).any (fun n => n % 2 == 1)) 2 + ((other 2).map (fun n => n % 39)).foldl max (schussWindow s) * 256

def doSetSchuss (c : CmdReq) (s : State) : State :=
  let t := mapPower (fun p => { p with permit := par c 0 1 == 1 }) { s with free := s.free + 24 }
  finishOk c 0 (leBytes (schussDetail { t with free := s.free }) 4) t

/-- SET_SCHUSS: takes effect at the next staging (R565). -/
def execSetSchuss (seq : Word32) (s : State) : Result := cmdStep 0x0702 seq doSetSchuss s

/-! ### Domains and deep idle (R549 to R553) -/

/-- Some pool of a set holds a cluster of a block. -/
def clusterHeld (set : CfgSet) (block c : Nat) : Bool :=
  set.pools.any (fun p => p.block == block && (p.clmask.getLsbD c || p.shares.any (fun h => !h.port && h.unit == c)))

/-- A resident context holds a cluster. -/
def clusterInUse (s : State) (c : Nat) : Bool :=
  s.units.any (fun x => decide (x.unit = .cluster c) && ((findContext s x.slice).map (fun k => k.resident || k.loading.contains (.cluster c))).getD false)

/-- A cluster belongs to a real-time reservation of this block (R551). -/
def clusterReserved (s : State) (c : Nat) : Bool :=
  s.cfg.active.rts.any (fun r => r.clusters.any (fun b => b.1 == s.boot.blkId && b.2.getLsbD c))

def setDomain (n : Nat) (on : Bool) (x : BitVec 82) : BitVec 82 := if on then x ||| (1#82 <<< n) else x &&& ~~~(1#82 <<< n)

/-- Zero a cluster's SRAM (R550, R483). -/
def zeroCluster (c : Nat) (s : State) : State :=
  { s with sram := Sparse.delRange s.sram (c * 2 ^ 21) (2 ^ 21), sramErrs := Sparse.delRange s.sramErrs (c * 2 ^ 17) (2 ^ 17) }

/-- Put a cluster's two domains into a state; leaving OFF repairs and zeroes the SRAM (R550). -/
def setCluster (c : Nat) (off gated retention : Bool) (s : State) : State :=
  let s1 := if !off && s.power.off.getLsbD (38 + c) then zeroCluster c s else s
  mapPower (fun p => { p with
    off := setDomain (38 + c) off (setDomain (6 + c) off p.off), gated := setDomain (6 + c) gated p.gated
    retention := setDomain (38 + c) retention p.retention }) s1

/-- A cluster's domains for the chair that begins (R551). -/
def placeCluster (s : State) (c : Nat) : State :=
  if (!clusterHeld s.cfg.active s.boot.blkId c || s.recovery.retiredClusters.getLsbD c) && !resurfacing s c then setCluster c true false false s
  else if clusterInUse s c || resurfacing s c then setCluster c false false false s
  else setCluster c false true (!clusterReserved s c) s

/-- The block holds a pool, a window or a queue (R552). -/
def blockHolds (s : State) : Bool :=
  s.cfg.active.pools.any (fun p => p.block == s.boot.blkId) || s.cfg.active.windows.any (fun w => w.block == s.boot.blkId) ||
  s.queues.any (fun q => q.owner == s.boot.blkId)

/-- Deep idle: all 64 cluster domains, both translation domains and control 1 go OFF (R552). -/
def enterDeep (s : State) : State :=
  mapPower (fun p => { p with deep := true, off := (List.range 67).foldl (fun m i => setDomain (3 + i) true m) p.off, gated := 0, retention := 0 })
    { s with icu := { s.icu with powered := false } }

/-- The domains at a chair boundary (R551, R552). -/
def domainBoundary (s : State) : State :=
  if s.power.deep then s else
    let s1 := (List.range 32).foldl placeCluster s
    let s2 := mapPower (fun p => { p with heldNothing := if blockHolds s1 then 0 else p.heldNothing + 1 }) s1
    if !s2.boot.isLead && decide (64 ≤ s2.power.heldNothing) &&
        (decide (s2.twin.state = .unpaired) || decide (s2.twin.state = .solo)) then enterDeep s2 else s2

/-- The event that wakes a member is there (R553). -/
def wakeDue (s : State) : WakeCause → Bool
  | .commit => blockHolds s || ((s.cfg.commit.map (fun k => k.next.pools.any (fun p => p.block == s.boot.blkId) ||
      k.next.windows.any (fun w => w.block == s.boot.blkId))).getD false)
  | .wakeSource => !s.icu.latched.isEmpty
  | .leadRequest => true

/-- DEEP_IDLE_WAKE: a member in deep idle begins to leave it (R553). -/
def execDeepIdleWake (why : WakeCause) (s : State) : Result :=
  if s.power.deep && wakeDue s why then .next (mapPower (fun p => { p with waking := true }) s) else .next s

/-- A cluster that has been asked to come on: held by the active set, or newly held by the staged one (R551). -/
def clusterAsked (s : State) (c : Nat) : Bool :=
  !s.power.deep && (clusterHeld s.cfg.active s.boot.blkId c || (s.cfg.commit.map (fun k => clusterHeld k.next s.boot.blkId c)).getD false)

/-- Control 1 and both translation domains are on: the interrupt unit takes what the watcher latched (R417, R553). -/
def leaveDeep (s : State) : State :=
  if s.power.waking && !s.power.off.getLsbD 3 && !s.power.off.getLsbD 4 && !s.power.off.getLsbD 5 then
    deliverLatched (mapPower (fun p => { p with deep := false, waking := false, heldNothing := 0 }) s)
  else s

/-- POWER_DOMAIN_ON: a domain that was asked to come on has come on (R550, R551, R553). -/
def execPowerDomainOn (domain : Nat) (s : State) : Result :=
  if 82 ≤ domain then .fault .noSuchPlace
  else if !s.power.off.getLsbD domain then .next s
  else if 3 ≤ domain ∧ domain ≤ 5 then
    if s.power.waking then .next (leaveDeep (mapPower (fun p => { p with off := setDomain domain false p.off }) s)) else .next s
  else if 6 ≤ domain ∧ domain < 70 then
    let c := if domain < 38 then domain - 6 else domain - 38
    if !clusterAsked s c then .next s
    else .next (mapPower (fun p => { p with off := setDomain domain false p.off }) (if 38 ≤ domain then zeroCluster c s else s))
  else .next s

end Sys2Proof.Machine
end

