-- ==== Sys2Proof/Machine/Chair.lean ====
section
/-! DEFINITION. The lift clock and chairs (spec/03): ticks and `LIFT` packets, the plan, the relay zone, commits, the chair boundary
with its swap (spec/11), teardown and resurfacing (spec/14), saves and loads, and allocation. -/

namespace Sys2Proof.Machine

def mapLift (f : Lift → Lift) (s : State) : State := { s with lift := f s.lift }

/-! ### Ticks (R89 to R95, R81, R82, R373) -/

/-- One nanosecond of a correction is made in each tick (R94); `ADRIFT` ends at 64 ticks or below (R95). -/
def slewed (l : Lift) : Lift :=
  let rest := if 0 < l.slewNs then l.slewNs - 1 else if l.slewNs < 0 then l.slewNs + 1 else 0
  { l with
    slewNs := rest, tickNs := if 0 < l.slewNs then 63 else if l.slewNs < 0 then 65 else 64
    adrift := l.adrift && decide (64 * 64 < rest.natAbs) }

/-- The count after one tick, and the time of the reference clock; the events of a new chair are still to come (R8, R89, R96). -/
def countedTick (l : Lift) : Lift :=
  let l0 := slewed l
  let l1 := { l0 with count := l.count + 1, sincePacket := l.sincePacket + 1, wallNs := l.wallNs + l0.tickNs }
  if (l.count.toNat + 1) % Config.chairTicks = 0 then
    { l1 with chairDone := false, planDone := false, relayDone := false, goDone := false }
  else l1

/-- A queue's timer counts the tick while its head descriptor has started and its context is resident (R81, R82, R115, R373). -/
def tickQueue (s : State) (x : Queue) : Queue :=
  let timed := x.owner == s.boot.blkId && queueOpen x &&
    (((x.descs.find? (fun d => decide (d.phase ≠ .done))).map Desc.timed).getD false) &&
    ((findContext s x.slice).map (fun c => c.resident && decide (c.enteredChair ≤ chairOf s))).getD false
  { x with timer := if timed then x.timer + 1 else x.timer, timeout := x.newTimeout.getD x.timeout, newTimeout := none }

/-- The half-chair cluster of a reservation belongs to the real-time class for ticks 0 to 8,191, then to the normal class (R107). What
a unit's context holds is of the class that is not set aside. -/
def holdsRt (x : UnitCtx) : Bool := (x.aside.map (fun a => !a.rt)).getD false

/-- The unit's context must change from one class to the other (R107). -/
def turnDue (s : State) (x : UnitCtx) : Bool :=
  match x.unit with
  | .cluster c => halfCluster s x.slice c && decide (s.twin.state ≠ .failedOver) && (holdsRt x != decide (tickOf s < 8192))
  | .port _ => false

/-- Exchange the work of a unit's context with the work that is set aside (R105, R107). -/
def turnUnit (x : UnitCtx) : UnitCtx :=
  let a : Aside := x.aside.getD { rt := true, seq := none, draining := [], insns := [], quads := [] }
  { x with
    seq := a.seq, draining := a.draining, insns := a.insns, quads := a.quads, stopping := false
    aside := some { rt := holdsRt x, seq := x.seq, draining := x.draining, insns := x.insns, quads := x.quads } }

/-- A unit whose reservation is gone takes back what was set aside, once it has nothing else to do (log 79). -/
def unturnUnit (x : UnitCtx) : UnitCtx :=
  match x.aside with
  | some a => if x.seq.isNone && x.draining.isEmpty && x.insns.isEmpty then
      { x with seq := a.seq, draining := a.draining, insns := a.insns, quads := a.quads, aside := none }
    else x
  | none => x

/-- The unit's context has instructions' requests outstanding. -/
def insnBusy (s : State) (slice : Nat) (u : UnitId) : Bool :=
  let mine := fun (o : Owner) => match o with | .insn v sl _ => decide (v = u) && sl == slice | _ => false
  s.mp.out.any (fun r => mine r.owner) || s.mp.queue.any (fun r => mine r.owner) || s.fab.txns.any (fun t => mine t.owner)

/-- One unit at a tick: its work stops at restart points where the class changes, and changes once its transfers are complete. -/
def turnAt (s : State) (x : UnitCtx) : UnitCtx :=
  if turnDue s x then (if insnBusy s x.slice x.unit then { x with stopping := true } else turnUnit x)
  else match x.unit with
    | .cluster c => if x.aside.isSome && !halfCluster s x.slice c then unturnUnit x else x
    | .port _ => x

/-- A lift tick begins: every unit whose class changes turns (R107). -/
def turnHalves (s : State) : State := { s with units := s.units.map (turnAt s) }

/-- A lift tick ends: the dumps of the tick are taken, and what the outcome of its events depends on is over (R24, R273). -/
def endTick (s : State) : State :=
  let s1 := takeDumps s
  { s1 with tick := { dumps := s1.tick.dumps } }

/-- A locked checker counts the bits of the tick, at 200 or 400 Gb/s, and the errors among them, which are free (R349, log 43). -/
def countLane (rate ns errs : Nat) (x : Lane) : Lane :=
  let n := ns * (if rate = 2 then 400 else 200)
  { x with bits := min (x.bits + n) (2 ^ 48 - 1), errs := min (x.errs + min errs n) (2 ^ 48 - 1) }

def countLanes (s : State) : State :=
  s.fab.lanes.foldl (fun s e => if e.2.lock then
    setLane e.1 (countLane (groupAt s (e.1 / 6)).rate s.lift.tickNs (Config.laneErrors s.free) e.2) { s with free := s.free + 1 } else s) s

/-- One tick: it ends, the count rises, timers count, what is due at the new count happens, and shares of links come
free (R89, R81, R308, R107, R328). -/
def tickOnce (s : State) : State :=
  let s1 := endTick s
  let s2 := turnHalves (dueLogSwaps { mapLift countedTick (countLanes s1) with queues := s1.queues.map (tickQueue s1) })
  if s2.fab.outbox.isEmpty then s2 else flushOutbox s2

/-- LIFT_TICK: the count rises by one, from the block's own clock, once a source is locked (R89, R93). -/
def execLiftTick (s : State) : Result :=
  if s.lift.src = 1 || (!s.boot.isLead && s.boot.elected && s.lift.src != 0) then .next (tickOnce s) else .next s

/-- LIFT_REF_EDGE: in phase 8 the first edge locks a part with no trained group, at count 0; each later edge counts one tick (R90). -/
def execLiftRefEdge (s : State) : Result :=
  if !s.boot.isLead then .next s
  else if s.lift.src = 2 then .next (tickOnce s)
  else if s.lift.src = 0 && s.boot.phase == 8 && !anyGroupUp s then
    .next (emitD2d (otherBlocks s) (.mgmt (.liftCount 0))
      { mapLift (fun l => { l with src := 2, count := 0 }) s with boot := { s.boot with standalone := true } })
  else .next s

/-- An 8-bit saturated error (03 `LIFT_STATUS`). -/
def errorField (e : Int) : BitVec 8 := BitVec.ofInt 8 (max (-128) (min 127 e))

/-- The lift source is loaded from a count (R90). -/
def loadCount (count : Word64) (s : State) : State :=
  mapLift (fun (l : Lift) => { l with
    count := count, src := 1, sincePacket := 0, error := 0, slewNs := 0, holdover := false, adrift := false
    chairDone := true, planDone := false, relayDone := false, goDone := false }) { s with boot := { s.boot with standalone := false } }

/-- A `LIFT` packet after lock: the error is slewed away (R94, R95), and the members hear of the correction (R92). -/
def takeLift (count : Word64) (s : State) : State :=
  let err : Int := (count - s.lift.count).toInt
  let s0 := emitD2d (otherBlocks s) (.mgmt (.slew (now s) (err * 64))) s
  let s1 := mapLift (fun l => { l with error := errorField err, slewNs := err * 64, holdover := false, sincePacket := 0, adrift := l.adrift && decide (64 < err.natAbs) }) s0
  if 1024 < err.natAbs then
    raiseSource 8 (writeRecord (plainRecord 0x70A 0 0) (mapLift (fun l => { l with adrift := true }) s1))
  else s1

/-- A member makes the lead's correction of `ns`, which began at the lead's tick `tick`: what is left of it at the member's count is
what is left at the lead's, so that both hold the same count at every tick (R92). -/
def takeSlew (tick : Nat) (ns : Int) (s : State) : State :=
  let made := now s - tick
  mapLift (fun l => { l with slewNs := if 0 ≤ ns then max 0 (ns - made) else min 0 (ns + made) }) s

/-- A member takes the lead's count once; from there on it counts the same ticks (R92). -/
def takeLeadCount (count : Word64) (s : State) : State := if s.lift.src = 0 ∧ 8 ≤ s.boot.phase then loadCount count s else s

/-- The lead tells the members its count (R92). -/
def shareCount (s : State) : State := if s.boot.isLead then emitD2d (otherBlocks s) (.mgmt (.liftCount (now s))) s else s

/-- LIFT_PACKET: the lead takes packets from a port group that is up, a member the lead's count; any other is discarded (R90, R92,
R94, R319), as is a packet whose `LEN` is not the 8 bytes of a `LIFT` (R318). A part that runs from `LIFT_REF` keeps its source. -/
def execLiftPacket (source : LiftFrom) (count : LiftPayload) (s : State) : Result :=
  if count.len ≠ 8 then .next s
  else match source with
    | .group g =>
      if !s.boot.isLead || !groupCarries s g || decide (s.boot.phase < 8) then .next s
      else if s.lift.src = 0 ∨ (s.lift.src = 2 ∧ s.boot.phase = 8) then .next (shareCount (loadCount count.count s))
      else if s.lift.src = 1 then .next (takeLift count.count s)
      else .next s
    | .lead => if !s.boot.isLead && s.boot.elected then .next (takeLeadCount count.count s) else .next s
    | .elsewhere => .next s

/-- LIFT_HOLDOVER: 4,096 ticks without a packet (R93). -/
def execLiftHoldover (s : State) : Result :=
  if s.boot.isLead && s.lift.src == 1 && !s.lift.holdover && decide (4096 ≤ s.lift.sincePacket) then
    .next (raiseSource 8 (mapLift (fun l => { l with holdover := true }) s))
  else .next s

/-! ### Contexts and their units -/

/-- The units of a slice's context on this block. -/
def contextUnits (s : State) (slice : Nat) : List UnitId := (s.units.filter (fun x => x.slice == slice)).map UnitCtx.unit

/-- The units that a pool gives (R370). -/
def poolUnits (p : Pool) : List UnitId :=
  ((List.range 32).filter (fun c => p.clmask.getLsbD c || p.shares.any (fun h => !h.port && h.unit == c))).map UnitId.cluster ++
  ((List.range 8).filter (fun n => p.epmask.getLsbD n || p.shares.any (fun h => h.port && h.unit == n))).map UnitId.port

def freshUnit (slice : Nat) (u : UnitId) : UnitCtx := { unit := u, slice := slice }

/-- A context that has never run: its image holds tallies at 0 and no live line (R114). -/
def freshContext (slice : Nat) : Context :=
  { slice := slice, slot := 0, resident := false, shown := false, pinned := false, wanting := none, lastDispatch := 0, enteredChair := 0,
    saving := [], loading := [], saved := some { tallies := [], sram := [] } }

/-- Places in hardware that contexts take: resident, or between (R111). -/
def takesPlace (c : Context) : Bool := c.resident || !c.saving.isEmpty || !c.loading.isEmpty
def placesTaken (s : State) : Nat := (s.contexts.filter takesPlace).length

/-- The smallest context slot that no resident context has: R99 names none, the choice is the model's (log 76). -/
def freeSlot (s : State) : Nat :=
  ((List.range 128).find? (fun i => !s.contexts.any (fun c => c.resident && c.slot == i))).getD 127

/-- The half of the chair that serves a slice in `FAILED_OVER` (R456). -/
def halfServes (s : State) (slice : Nat) : Bool :=
  s.twin.assumed.isNone || (decide (1024 ≤ slice) == decide (8192 ≤ tickOf s))

/-! ### Allocation (R102 to R105, R129, R233, R456) -/

/-- A context that can hold a unit now: it is in hardware there, and its half of the chair runs. -/
def mayHold (s : State) (x : UnitCtx) : Bool :=
  halfServes s x.slice &&
  (match findContext s x.slice with
   | some c => c.resident && c.saving.isEmpty && !c.loading.contains x.unit && decide (c.enteredChair ≤ chairOf s)
   | none => false)

/-- The context has work for a unit. -/
def hasWork (s : State) (x : UnitCtx) : Bool :=
  !(heldRuns x).isEmpty || !x.insns.isEmpty ||
  ((findSlice s x.slice).map (fun sl => sl.runs.any (unitTakes s x.slice x.unit))).getD false

/-- The 1/64 slots of a chair that a slice holds on a unit: 64 where it holds it exclusively (R102, R107). -/
def unitShare (s : State) (slice : Nat) (u : UnitId) : Nat :=
  match (slicePools s slice).find? (fun p => p.block == sliceBlock s slice) with
  | none => 0
  | some p => match u with
    | .cluster c => unitsTaken p false c
    | .port n => unitsTaken p true n

def slotKey (u : UnitId) (slice : Nat) : Nat := unitIdx u * 2048 + slice

/-- The sharer that has been given the smallest part of its share so far; the lowest slice among equals: R102 and R104 say in proportion,
and give neither an order nor a tie-break (log 76). -/
def leastServed (s : State) : List UnitCtx → Option UnitCtx
  | [] => none
  | x :: xs =>
    match leastServed s xs with
    | none => some x
    | some y =>
      let gx := Sparse.get 0 s.slots (slotKey x.unit x.slice) * unitShare s y.slice y.unit
      let gy := Sparse.get 0 s.slots (slotKey y.unit y.slice) * unitShare s x.slice x.unit
      if gx < gy ∨ (gx = gy ∧ x.slice ≤ y.slice) then some x else some y

/-- The next context of a unit: one with work, else any that holds a share (R103, R104). -/
def nextHolder (s : State) (u : UnitId) : Option Nat :=
  let all := s.units.filter (fun x => decide (x.unit = u) && mayHold s x)
  let busy := all.filter (hasWork s)
  (leastServed s (if busy.isEmpty then all else busy)).map UnitCtx.slice

/-- A rung from 2 up is resetting a unit (R429). -/
def inRung (s : State) (u : UnitId) : Bool := s.recovery.ladders.any (fun l => decide (2 ≤ l.rung) && l.left.contains (unitIdx u))

/-- A unit is being reset, or it is a cluster that is retired or that its resurfacing has not zeroed yet (R429, R433, R483). -/
def unitBarred (s : State) (u : UnitId) : Bool :=
  inRung s u || match u with
  | .cluster c => s.recovery.retiredClusters.getLsbD c ||
      s.slices.any (fun x => (x.resurf.map (fun r => r.chair == chairOf s && r.clusters.contains c && !r.zeroed.contains c)).getD false)
  | .port _ => false

/-- The context that takes a unit next; none takes a unit that is barred. -/
def chosen (s : State) (u : UnitId) : Option Nat := if unitBarred s u then none else nextHolder s u

/-- A unit takes its next context, which goes on from where it stopped, and the slot is counted. -/
def allocate (u : UnitId) (s : State) : State :=
  match chosen s u with
  | none => { s with current := Sparse.del s.current (unitIdx u) }
  | some sl =>
    let k := slotKey u sl
    mapUnit u sl (fun x => { x with stopping := turnDue s x })
      { s with current := Sparse.put s.current (unitIdx u) sl, slots := Sparse.put s.slots k (Sparse.get 0 s.slots k + 1) }

/-- A proxy with an `EPCALL` handed off keeps its context, also where the call's queue has been stopped since (R233, R509, R511). -/
def holdsCall (s : State) (u : UnitId) : Bool :=
  ((currentUnit s u).map (fun x => x.insns.any handedOff || (match u with
    | .port p => (enginePort s p).calls.any (fun c => c.slice == x.slice)
    | .cluster _ => false))).getD false

/-- The context that a unit serves must leave it and cannot yet: its requests or calls are outstanding (R105, R229, R233). -/
def mustWait (s : State) (u : UnitId) : Bool :=
  match currentSlice s u with
  | some sl => (insnBusy s sl u || holdsCall s u) && decide (chosen s u ≠ some sl) && (findUnit s u sl).isSome
  | none => false

/-- The context that a unit serves begins to stop at its next restart point (R105, R229). -/
def stopCurrent (u : UnitId) (s : State) : State :=
  match currentSlice s u with
  | some sl =>
    if (findUnit s u sl).any UnitCtx.stopping then s else mapUnit u sl (fun x => { x with stopping := true }) (askUnits [u] s)
  | none => s

/-- The slot of a unit in which it was last allocated. -/
def lastSlot (s : State) (u : UnitId) : Nat := Sparse.get 0 s.slots (2 ^ 17 + unitIdx u)
def markSlot (u : UnitId) (s : State) : State := { s with slots := Sparse.put s.slots (2 ^ 17 + unitIdx u) (now s / 256) }

def allUnits : List UnitId := (List.range 32).map UnitId.cluster ++ (List.range 8).map UnitId.port

/-- SLOT_END: a time-share slot of 256 ticks ends. The program stops at its next restart point; once its requests and calls are
complete the next context takes the unit with the state it stopped with (R104, R105, R129, R229, R233). -/
def execSlotEnd (unit : UnitId) (s : State) : Result :=
  if !unitOk unit || decide (now s / 256 ≤ lastSlot s unit) then .next s
  else if mustWait s unit then .next (stopCurrent unit s)
  else .next (allocate unit (markSlot unit s))

/-- The allocation of a chair (R102); a unit whose context must leave it and cannot yet changes at a later slot. -/
def allocateChair (s : State) : State :=
  allUnits.foldl (fun s u => if mustWait s u then stopCurrent u s else allocate u (markSlot u s)) { s with slots := [] }

/-! ### The plan (R109 to R112) -/

/-- The context is pinned, or a pending set pins it (R109). -/
def willPin (s : State) (c : Context) : Bool :=
  c.pinned || ((s.cfg.commit.map (fun k => k.next.rts.any (fun r => r.slice == c.slice))).getD false)

/-- Contexts that must come in: pinned ones first, then the wanting ones in order (R109, R110). -/
def wantingNow (s : State) : List Nat :=
  let out := s.contexts.filter (fun c => !takesPlace c && !(contextUnits s c.slice).isEmpty)
  let pin := willPin s
  let rest := (out.filter (fun c => !pin c && c.wanting.isSome)).insertionSort (fun a b => a.wanting.getD 0 ≤ b.wanting.getD 0)
  ((out.filter pin) ++ rest).map Context.slice

/-- The least recently dispatched context that may be evicted (R111); among equally old ones the first listed, a choice of the model
(log 76). -/
def victim (s : State) (taken : List Nat) : Option Nat :=
  let ok := s.contexts.filter (fun c => c.resident && !c.pinned && c.saving.isEmpty && c.loading.isEmpty &&
    decide (c.enteredChair < chairOf s) && !taken.contains c.slice)
  (ok.foldl (fun b c => match b with
    | none => some c
    | some d => if d.lastDispatch ≤ c.lastDispatch then some d else some c) (none : Option Context)).map Context.slice

/-- Choose loads and evictions, at most four of each (R111, R112). -/
def planMoves (s : State) (places : Nat) : List Nat → List Nat → List Nat → List Nat × List Nat
  | [], evict, load => (evict, load)
  | w :: ws, evict, load =>
    if 4 ≤ load.length then (evict, load)
    else if places + load.length < 128 + evict.length then planMoves s places ws evict (load ++ [w])
    else if 4 ≤ evict.length then (evict, load)
    else match victim s evict with
      | some v => planMoves s places ws (evict ++ [v]) (load ++ [w])
      | none => (evict, load)

/-- PLAN_FIX: the plan of the next chair is fixed at tick 16,127 (R96). -/
def execPlanFix (s : State) : Result :=
  if s.lift.planDone || decide (tickOf s < Config.relayTick - 1) then .next s else
    let m := if s.power.deep then ([], []) else planMoves s (placesTaken s) (wantingNow s) [] []
    .next (mapLift (fun l => { l with planDone := true, evict := m.1, load := m.2 }) s)

/-! ### Saves and loads (R113, R114, R262) -/

/-- The partition address of a byte of a cluster's SRAM that lies in a partition (R132). -/
def sramAddr (f b k : Nat) : Option Nat :=
  let bank := k % 2 ^ 21 / 65536
  let off := k % 65536
  if f ≤ bank ∧ bank < f + b then some ((off / 64 * b + (bank - f)) * 64 + k % 64) else none

/-- A place of SRAM lies in a live region of a context's partition. -/
def liveWord (s : State) (slice : Nat) (u : UnitId) (k : Nat) : Bool :=
  match u, partition s slice u, findUnit s u slice with
  | .cluster c, some (f, b), some x =>
    k / 2 ^ 21 == c + slice / 1024 * 64 && (match sramAddr f b k with | some a => Sparse.get false x.live (a / 4096) | none => false)
  | _, _, _ => false

/-- The live bytes of a context on a cluster, by their place. -/
def liveBytes (s : State) (slice : Nat) (u : UnitId) : List (Nat × Byte) :=
  s.sram.filter (fun e => liveWord s slice u e.1)

/-- A request of a descriptor's transfer whose bytes the unit's DMA engine moves (R113 step 2, log 20). -/
def movesHere (s : State) (slice : Nat) (u : UnitId) (o : Owner) : Bool :=
  match o with | .desc sl _ _ => sl == slice && decide (moverOf s slice = u) | _ => false

/-- Transfers of a unit's context are outstanding: requests of its instructions, and those of descriptors that it moves (R113 step 2). -/
def unitBusy (s : State) (slice : Nat) (u : UnitId) : Bool :=
  insnBusy s slice u || s.mp.out.any (fun r => movesHere s slice u r.owner) || s.mp.queue.any (fun r => movesHere s slice u r.owner) ||
  s.fab.txns.any (fun t => movesHere s slice u t.owner)

/-- The words of a context's live lines on a unit that hold bad symbols (R137, R138). -/
def liveErrs (s : State) (slice : Nat) (u : UnitId) : List (Nat × Nat) := s.sramErrs.filter (fun e => liveWord s slice u (e.1 * 16))

/-- The part of a saved image that is a unit's. -/
def unitPart (slice : Nat) (u : UnitId) (v : Saved) : List (Nat × Nat) × List (Nat × Byte) :=
  ((v.tallies.filter (fun e => e.1 / 256 == unitIdx u)).map (fun e => (e.1, tallyWord e.2)),
    v.sram.filter (fun e => match u with | .cluster c => e.1 / 2 ^ 21 == c + slice / 1024 * 64 | .port _ => false))

/-- The save area of a context on this block: its address, and 4 KiB with 2 MiB + 8 KiB for each cluster (R110, R370). -/
def saveArea (s : State) (slice : Nat) : Nat × Nat :=
  match (slicePools s slice).find? (fun p => p.block == sliceBlock s slice) with
  | some p => (p.save, 4096 + (2 ^ 21 + 8192) * ((poolUnits p).filter (fun u => match u with | .cluster _ => true | .port _ => false)).length)
  | none => (0, 4096)

/-- Where a unit's image lies in the save area, and its bytes (log 58). -/
def savePart (s : State) (slice : Nat) (u : UnitId) (v : Saved) : Nat × List Byte :=
  let area := saveArea s slice
  let im := Config.saveImage (unitIdx u) (unitPart slice u v).1 (unitPart slice u v).2
  (area.1 + im.1 % area.2, im.2.take (area.2 - im.1 % area.2))

/-- R113 step 3: a unit's image is written to the save area, through the slice's translation and under its memory key. Where the area
does not translate, nothing is written (log 58). -/
def writeSave (slice va : Nat) (bs : List Byte) (s : State) : State :=
  match findSlice s slice with
  | none => s
  | some sl =>
    match xlatBound s .l2 sl true .write va bs.length with
    | .error _ => s
    | .ok ps => writePieces slice 1 .none ps bs (logWrite .none sl .write va bs.length (cachePages .l2 sl va bs.length s))

/-- What a save does outside the context: memory, its ports, the fabric and the translations. -/
def saveMemory (slice va : Nat) (bs : List Byte) (s : State) : State :=
  let t := writeSave slice va bs s
  { s with
    mem := t.mem, memKeys := t.memKeys, mp := t.mp, fab := t.fab, xlat := t.xlat, slices := t.slices, sent := t.sent, free := t.free }

/-- A saved image with what one unit of the context holds: tallies, with the increments held meanwhile, live bytes, and the words with
two bad symbols, which the save does not correct (R113, R138, R262, log 58). -/
def saveInto (s : State) (slice : Nat) (u : UnitId) (v : Saved) : Saved :=
  let ts := (List.range (tallyCount s slice u)).map (fun i => (savedKey u i, dumpTally s slice u i))
  { v with
    tallies := ts.foldl (fun m (e : Nat × Tally) => Sparse.set {} m e.1 e.2) v.tallies
    sram := (liveBytes s slice u).foldl (fun m (e : Nat × Byte) => Sparse.put m e.1 e.2) v.sram
    errs := v.errs ++ (liveErrs s slice u).filter (fun e => e.2 == 2)
    written := v.written ++ [unitIdx u] }

/-- Save one unit of a context (R113, R262); the words with one bad symbol are corrected and counted (R137). -/
def saveUnit (slice : Nat) (u : UnitId) (s : State) : State :=
  let v := saveInto s slice u (((findContext s slice).bind Context.saved).getD { tallies := [], sram := [] })
  let part := savePart s slice u v
  let s1 := countFixes slice (((liveErrs s slice u).filter (fun e => e.2 == 1)).map Prod.snd) (saveMemory slice part.1 part.2 s)
  mapContext slice (fun c => { c with saved := some v, saving := c.saving.filter (fun w => decide (w ≠ u)) })
    { s1 with
      sramErrs := s.sramErrs.filter (fun e => !liveWord s slice u (e.1 * 16))
      heldIncs := s.heldIncs.filter (fun h => !(h.slice == slice && decide (h.unit = u)))
      current := if currentSlice s u = some slice then Sparse.del s.current (unitIdx u) else s.current }

/-- The context still has something to run: a descriptor that has not completed, a run or an instruction (R110). -/
def hasRunnable (s : State) (slice : Nat) : Bool :=
  s.queues.any (fun x => x.slice == slice && x.owner == s.boot.blkId && queueOpen x && x.descs.any (fun d => !descDone d)) ||
  s.units.any (fun x => x.slice == slice && (!(heldRuns x).isEmpty || !(allInsns x).isEmpty)) ||
  ((findSlice s slice).map (fun x => !x.runs.isEmpty)).getD false

/-- A context whose saves have all ended gives up its place (R113 step 4); with work left it is wanting at once (R110). -/
def leaveHardware (busy : Bool) (place : Nat) (c : Context) : Context :=
  if c.saving.isEmpty && c.loading.isEmpty then { c with resident := false, wanting := if busy && c.wanting.isNone then some place else c.wanting }
  else c

/-- A context gives up its place where every save has ended. -/
def leavePlace (slice : Nat) (s : State) : State := mapContext slice (leaveHardware (hasRunnable s slice) (nextWanting s)) s

/-- CONTEXT_SAVE_DONE: a unit of an evicted context has stopped, its transfers are complete, and its state is in the save area
(R113). -/
def execContextSaveDone (slice : Nat) (unit : UnitId) (s : State) : Result :=
  match findContext s slice, findUnit s unit slice with
  | some c, some x =>
    if !c.saving.contains unit || unitBusy s slice unit || x.insns.any handedOff then .next s
    else .next (leavePlace slice (saveUnit slice unit s))
  | _, _ => .next s

/-- The save area holds what was written there (R114). -/
def saveIntact (s : State) (slice : Nat) (u : UnitId) (v : Saved) : Bool :=
  let part := savePart s slice u v
  match findSlice s slice with
  | none => true
  | some sl => match readNow s sl .read part.1 part.2.length with
    | .ok bs => decide (bs = part.2)
    | .error _ => false

/-- What a load of a unit reads back: for a first residency nothing; what was saved, where the save area holds it still; otherwise values
that the manual does not give (R114, log 58). -/
def loadedSave (s : State) (slice : Nat) (u : UnitId) (v : Saved) : Saved :=
  if !v.written.contains (unitIdx u) || saveIntact s slice u v then v
  else
    { v with
      tallies := (List.range (tallyCount s slice u)).map (fun i => (savedKey u i,
        let w := Config.loadedTally s.free i
        { owner := 0, paired := w.testBit 50, poison := w.testBit 49, sat := w.testBit 48, value := BitVec.ofNat 48 w }))
      sram := (Config.loadedSram s.free).filter (fun e => liveWord s slice u e.1) }

/-- The tallies of a context on a unit bear its slot (R237). -/
def claimTallies (slice : Nat) (u : UnitId) (slot : Nat) (s : State) : State :=
  (List.range (tallyCount s slice u)).foldl (fun s i =>
    match tallyKey s slice u i with
    | some k => setTallyAt k { tallyAt s k with owner := BitVec.ofNat 8 slot } s
    | none => s) s

/-- Bring one unit of a context back: its tallies under the context's slot, its live bytes, the increments held meanwhile (R114,
R237, R262). -/
def loadUnit (slice : Nat) (u : UnitId) (v : Saved) (slot : Nat) (s : State) : State :=
  let s1 := (List.range (tallyCount s slice u)).foldl (fun s i =>
    match tallyKey s slice u i with
    | some k => setTallyAt k { Sparse.get ({} : Tally) v.tallies (savedKey u i) with owner := BitVec.ofNat 8 slot } s
    | none => s) s
  let mine := fun (e : Nat × Byte) => match u with | .cluster c => e.1 / 2 ^ 21 == c + slice / 1024 * 64 | .port _ => false
  let s2 := { s1 with
    sram := (v.sram.filter mine).foldl (fun m (e : Nat × Byte) => Sparse.set 0 m e.1 e.2) s1.sram
    sramErrs := (v.errs.filter (fun (e : Nat × Nat) => mine (e.1 * 16, 0))).foldl (fun m (e : Nat × Nat) => Sparse.put m e.1 e.2)
      (s1.sramErrs.filter (fun e => !liveWord s slice u (e.1 * 16))) }
  let here := fun (h : HeldIncrement) => h.slice == slice && decide (h.unit = u)
  let s3 := mapUnit u slice (fun x => { x with stopping := false })
    (mapContext slice (fun c => { c with loading := c.loading.filter (fun w => decide (w ≠ u)) })
      { s2 with heldIncs := s2.heldIncs.filter (fun h => !here h) })
  (s.heldIncs.filter here).foldl (fun s h => addTally u slice h.tally h.amount s) s3

/-- A context takes its place when its first load ends: in the relay zone for the chair that follows, later at once (R99, R115). It no
longer asks for one (R119). -/
def takePlace (s : State) (c : Context) : Context :=
  if c.resident then c
  else { c with resident := true, wanting := none, slot := freeSlot s, enteredChair := if tickOf s < Config.relayTick then chairOf s else chairOf s + 1 }

/-- A context with every load ended has no image left. -/
def dropImage (c : Context) : Context := if c.loading.isEmpty then { c with saved := none } else c

/-- CONTEXT_LOAD_DONE: a unit's load has ended; the context resumes there where it stopped (R99, R114). -/
def execContextLoadDone (slice : Nat) (unit : UnitId) (s0 : State) : Result :=
  match findContext s0 slice with
  | none => .next s0
  | some c =>
    let s := stepFree s0
    let room := c.resident || decide ((s.contexts.filter (fun k => k.resident || !k.saving.isEmpty)).length < 128)
    if !c.loading.contains unit || s.contexts.any (fun k => k.saving.contains unit) || !room then .next s0
    else
      let v := c.saved.getD { tallies := [], sram := [] }
      let s1 := mapContext slice (takePlace s) s
      let slot := ((findContext s1 slice).map Context.slot).getD 0
      let s2 := mapContext slice dropImage (loadUnit slice unit (loadedSave s slice unit v) slot s1)
      .next (if (currentSlice s2 unit).isNone then allocate unit s2 else s2)

/-! ### The relay zone (R96 to R99, R113, R33, R97, R476) -/

/-- An evicted context begins to stop (R113 step 1). -/
def beginEvict (s : State) (slice : Nat) : State :=
  let us := contextUnits s slice
  let s1 := leavePlace slice (mapContext slice (fun c => { c with saving := us, saved := some { tallies := [], sram := [] } }) (askUnits us s))
  { s1 with units := s1.units.map (fun x => if x.slice = slice then { x with stopping := true } else x) }

/-- A context's loads begin; its clusters come on (R114, R551). -/
def beginLoad (s : State) (slice : Nat) : State :=
  let us := contextUnits s slice
  let s1 := mapContext slice (fun c => { c with loading := us, wanting := none }) s
  us.foldl (fun s u => match u with | .cluster c => setCluster c false false false s | .port _ => s) s1

/-- R109: contexts that a staged set pins come in before the boundary at which it swaps, also where the plan was fixed without them. -/
def loadPinned (s : State) : State :=
  let out := (s.contexts.filter (fun c => !takesPlace c && willPin s c && !(contextUnits s c.slice).isEmpty)).map Context.slice
  let m := planMoves s (placesTaken s) out [] []
  m.2.foldl beginLoad (m.1.foldl beginEvict s)

/-- The set that is staged: it has no reservation of a queue that is gone. -/
def stagedSet (s : State) (next : CfgSet) : CfgSet :=
  { next with rts := next.rts.filter (fun r => s.queues.any (fun q => q.slice == r.slice && q.id == r.queue)) }

/-- The lead stages a pending commit on every block of the part (R33, R367), unless the management plane is stalled (R25). -/
def stageSet (s : State) : State :=
  match s.cfg.commit with
  | some k =>
    if s.boot.isLead && decide (k.chair ≤ chairOf s) && k.go.isNone && k.confirms.isEmpty && !managerStalled s then
      let k' := { k with next := stagedSet s k.next, chair := chairOf s, confirms := [s.boot.blkId] }
      loadPinned (emitD2d (otherBlocks s) (.mgmt (.stageSet k'.next (chairOf s + 1))) { s with cfg := { s.cfg with commit := some k' } })
    else s
  | none => s

/-- R476: the new image starts on core 3 in this relay zone, and core 3's queues move under R100; the management plane stalls (R25). -/
def startHandoff (s0 : State) : State :=
  match s0.fw.handoff with
  | some (seq, none) =>
    let s := holdCommit s0
    { s with fw := { s.fw with handoff := some (seq, some (now s)) }, recovery := { s.recovery with schedDown := s.recovery.schedDown ||| 8#4 } }
  | _ => s0

/-- RELAY_ZONE_OPEN: evicted contexts begin to stop, loads begin, a staged set goes out (R96, R98). -/
def execRelayZoneOpen (s : State) : Result :=
  if s.lift.relayDone || decide (tickOf s < Config.relayTick) then .next s else
    let s1 := s.lift.evict.foldl beginEvict (mapLift (fun l => { l with relayDone := true, evict := [], load := [] }) s)
    let s2 := s.lift.load.foldl beginLoad s1
    .next (startHandoff (stageSet s2))

/-- STAGED_SET_CONFIRM: a member confirms; only a confirmation by tick 16,351 counts (R33, R97). -/
def execStagedSetConfirm (block : Nat) (s : State) : Result :=
  match s.cfg.commit with
  | some k =>
    if s.boot.isLead && k.chair == chairOf s && decide (Config.relayTick ≤ tickOf s) && decide (tickOf s < Config.settleTick) &&
        k.go.isNone && !k.confirms.isEmpty && !k.confirms.contains block then
      .next { s with cfg := { s.cfg with commit := some { k with confirms := k.confirms ++ [block] } } }
    else .next s
  | none => .next s

/-- The command that a commit answers. -/
def commitCmd (s : State) (k : Commit) : Option CmdReq :=
  s.mgr.accepted.find? (fun c => c.seq == k.seq && decide (c.phase = .waiting) && (setOps.contains c.opcode || c.opcode == 0x0809))

/-- A commit ends without a swap (R97, R463). -/
def abortCommit (k : Commit) (status : Nat) (s : State) : State :=
  let s1 := emitD2d (otherBlocks s) (.mgmt (.abort k.next.serial.toNat)) { s with cfg := { s.cfg with commit := none } }
  match commitCmd s k with
  | some c => failCmd c status s1
  | none => s1

/-- COMMIT_GO: at tick 16,352 the lead sends go when every block has confirmed, and abort otherwise (R96, R97). In a stall of the
management plane there is no go, and the commit waits (R25). -/
def execCommitGo (s : State) : Result :=
  if !s.boot.isLead || s.lift.goDone || decide (tickOf s < Config.settleTick) then .next s else
    let s1 := mapLift (fun l => { l with goDone := true }) s
    match s.cfg.commit with
    | none => .next s1
    | some k =>
      if chairOf s < k.chair ∨ k.go.isSome then .next s1
      else if managerStalled s then .next (holdCommit s1)
      else if k.chair = chairOf s ∧ (partBlocks s).all (fun b => k.confirms.contains b) then
        .next (emitD2d (otherBlocks s) (.mgmt (.go k.next.serial.toNat)) { s1 with cfg := { s1.cfg with commit := some { k with go := some true } } })
      else if k.confirms.isEmpty then .next s1
      else .next (abortCommit k stTimedOut s1)

/-! ### Teardown (R248, R383) -/

/-- R248: one record for a context whose tallies, as `old` has them, differ from their `E`. -/
def noteResidue (old : State) (slice : Nat) (s : State) : State :=
  let all : List (UnitId × Nat × BitVec 48 × BitVec 48) := ((old.units.filter (fun x => x.slice == slice)).map (fun x =>
    (List.range (tallyCount old slice x.unit)).map (fun i => (x.unit, i, (dumpTally old slice x.unit i).value, expectOf x i)))).flatten
  match all.filter (fun e => decide (e.2.2.1 ≠ e.2.2.2)) with
  | [] => s
  | e :: es =>
    writeRecord { cause := 0x206, slice := slice, noQueue := true, context := contextSlot old slice, addr := syncAddr s e.1 e.2.1 0
                  detail := (es.length + 1) % 2 ^ 16 * 2 ^ 48 + (e.2.2.1 - e.2.2.2).toNat } s

/-- A context leaves the block, with everything that belongs to it. -/
def removeContext (old : State) (slice : Nat) (s : State) : State :=
  let s1 := noteResidue old slice s
  { s1 with
    contexts := s1.contexts.filter (fun c => c.slice != slice), units := s1.units.filter (fun x => x.slice != slice)
    current := s1.current.filter (fun e => e.2 != slice), heldIncs := s1.heldIncs.filter (fun h => h.slice != slice) }

/-! ### The swap (R365 to R368, R371, R480) -/

/-- The clusters and ports of this block that a slice leaves in a swap, or whose partition changes. -/
def leftUnits (old new : State) (slice : Nat) : List UnitId :=
  (contextUnits old slice).filter (fun u => decide (partition old slice u ≠ partition new slice u) ||
    decide (unitShare old slice u = 64) != decide (unitShare new slice u = 64))

/-- Give a slice the context and units that its new pool on this block names. -/
def settleContext (old : State) (s : State) (slice : Nat) : State :=
  match poolOn s slice s.boot.blkId with
  | none => if (findContext s slice).isSome then removeContext old slice s else s
  | some p =>
    let us := poolUnits p
    let left := leftUnits old s slice
    let keep := s.units.filter (fun x => x.slice != slice || (us.contains x.unit && !left.contains x.unit))
    let add := (us.filter (fun u => !keep.any (fun x => decide (x.unit = u) && x.slice == slice))).map (freshUnit slice)
    let drop := fun (c : Context) => { c with
      saving := c.saving.filter (fun u => us.contains u), loading := c.loading.filter (fun u => us.contains u) }
    let s0 := { s with units := keep ++ add }
    let s1 := match findContext s slice with
      | some c => if c.resident then add.foldl (fun s x => claimTallies slice x.unit c.slot s) s0 else s0
      | none => s0
    if (findContext s slice).isSome then mapContext slice drop s1 else { s1 with contexts := s1.contexts ++ [freshContext slice] }

/-- The resurfacing that a swap brings: the units a slice leaves (R483). -/
def swapResurf (old : State) (gone : Bool) (s : State) (slice : Nat) : State :=
  let us := if gone then contextUnits old slice else leftUnits old s slice
  if us.isEmpty && !gone then s else
    mapSlice slice (fun x => { x with resurf := some {
      chair := chairOf s, clusters := us.filterMap (fun u => match u with | .cluster c => some c | .port _ => none), zeroed := []
      ports := us.filterMap (fun u => match u with | .port p => some p | .cluster _ => none), seq := none, destroy := gone } }) s

/-- A slice that a swap creates: generation 1, empty segments, its last-fault slot zeroed (R383, R427, R578). -/
def newSlice (id : Nat) : Slice := { id := id, inForce := List.replicate 16 {}, staged := List.replicate 16 {} }

/-- The blocks that a set gives a slice: a pool, or a window that it owns (R298). -/
def setBlocks (set : CfgSet) (slice b : Nat) : Bool :=
  set.pools.any (fun p => p.slice == slice && p.block == b) || set.windows.any (fun w => w.owner == slice && w.block == b)

/-- The lead sends its banks, generation, logs and queues to every block that joins a slice in a swap (R34, R298, R307). -/
def sendJoins (old : CfgSet) (slices : List Nat) (s : State) : State :=
  if !s.boot.isLead then s else
    slices.foldl (fun s i =>
      match findSlice s i with
      | some x => emitD2d ((otherBlocks s).filter (fun b => setBlocks s.cfg.active i b && !setBlocks old i b)) (.mgmt (joinMsg s x)) s
      | none => s) s

/-- The slice part of a swap on this block. -/
def swapSlices (old : State) (s : State) : State :=
  let before := old.cfg.active.slices.map SliceCfg.id
  let after := s.cfg.active.slices.map SliceCfg.id
  let born := after.filter (fun i => !before.contains i)
  let dead := before.filter (fun i => !after.contains i)
  let changed := changedSlices old.cfg.active s.cfg.active
  let s1 := { s with
    slices := s.slices.filter (fun x => !born.contains x.id) ++ born.map newSlice
    fq := { s.fq with last := s.fq.last.filter (fun e => !born.contains e.1) }
    queues := s.queues.filter (fun q => !dead.contains q.slice)
    keys := { s.keys with sessions := s.keys.sessions.map (fun k => if changed.contains k.slice ∨ dead.contains k.slice ∨ old.cfg.active.rts.filter (fun r => r.slice == k.slice) ≠ s.cfg.active.rts.filter (fun r => r.slice == k.slice) then { k with isOpen := false } else k) } }
  let s2 := (dead ++ after).foldl (settleContext old) s1
  let s3 := dead.foldl (swapResurf old true) s2
  sendJoins old.cfg.active (after.filter (fun i => before.contains i))
    ((changed.filter (fun i => after.contains i)).foldl (swapResurf old false) s3)

/-- The real-time class and the pins that the active set gives (R107 to R109, R368). -/
def applyRts (s : State) : State :=
  let rt := fun (slice q : Nat) => s.cfg.active.rts.any (fun r => r.slice == slice && r.queue == q)
  { s with
    queues := s.queues.map (fun x => { x with rt := rt x.slice x.id })
    contexts := s.contexts.map (fun c => { c with pinned := s.twin.assumed.isNone && s.cfg.active.rts.any (fun r => r.slice == c.slice) }) }

/-- The set that a swap makes active, with the next serial. -/
def nextActive (s : State) (k : Commit) : CfgSet := { k.next with serial := s.cfg.active.serial + 1 }

/-- The swap of a staged set that was given go (R33, R367). -/
def swapSet (s : State) : State :=
  match s.cfg.commit with
  | none => s
  | some k =>
    if k.go ≠ some true then s else
      let old := s.cfg.active
      let new := nextActive s k
      let s1 := applyRts (swapSlices s { s with cfg := { active := new, shadow := old, rollback := some old, edited := false, commit := none } })
      let s2 := if mirroring s1 then emit (.tether (.mirrorSet new (nodeOf s s.boot.leadId) s.boot.blkId)) s1 else s1
      match commitCmd s k with
      | some c => finishOk c new.serial.toNat (leBytes (chairOf s) 8) s2
      | none => s2

/-! ### Resurfacing (R483) -/

/-- A fresh TRNG key in a slot (R464); the twin receives it where it shares the slot (R465). -/
def freshKey (s : State) (slot : Nat) : State :=
  let n := s.keys.trng + 1
  let s1 := { s with keys := { s.keys with trng := n, slots := Sparse.put s.keys.slots slot n } }
  if keysMirrored s then emit (.tether (.key slot n)) s1 else s1

/-- Tick 0: the slice's memory keys are replaced, its weight keys and sessions destroyed, its bindings end; its proxies are cleared. -/
def eraseSlice (s : State) (x : Slice) : State :=
  match x.resurf with
  | none => s
  | some r =>
    if r.chair ≠ chairOf s then s else
      let bound := (s.keys.bound.filter (fun e => e.2 == x.id)).map Prod.fst
      let s1 := bound.foldl freshKey s
      { s1 with
        keys := { s1.keys with
          bound := s1.keys.bound.filter (fun e => e.2 != x.id), weight := s1.keys.weight.filter (fun w => w.2.1 != x.id)
          sessions := s1.keys.sessions.filter (fun k => k.slice != x.id) }
        tallies := s1.tallies.filter (fun e => !r.ports.any (fun p => e.1 / 64 == 512 + x.id * 8 + p))
        units := s1.units.map (fun u => if u.slice = x.id ∧ (match u.unit with | .port p => r.ports.contains p | .cluster _ => false) = true then
          freshUnit x.id u.unit else u) }

/-- The queues of a resurfaced slice return to `IDLE` with both counts 0; `DB_STALE` follows doorbell writes alone (R44). -/
def idleQueue (x : Queue) : Queue :=
  { x with
    state := .idle, posted := 0, completed := 0, fetched := 0, mirrored := 0, descs := [], armed := false, rung := false, guilty := false
    victim := false, dstatus := 0, timer := 0, quiescing := false }

/-- A slice's gates are `FREE` with `GEN` 0, its held signals are dropped and its translations flushed (R483). -/
def clearTraces (slice : Nat) (s : State) : State :=
  { s with
    held := s.held.filter (fun h => h.slice != slice)
    gates := s.gates.filter (fun e => e.2.free || e.2.tag != sliceTag s slice)
    xlat := { s.xlat with cache := s.xlat.cache.filter (fun x => x.slice != slice) } }

/-- A resurfacing that ran in the chair before is complete (R383, R483). -/
def endResurf (s : State) (x : Slice) : State :=
  match x.resurf with
  | none => s
  | some r =>
    if chairOf s ≤ r.chair then s else
      let s0 := clearTraces x.id s
      let s1 := if r.destroy then { s0 with slices := s0.slices.filter (fun y => y.id != x.id) }
        else mapSlice x.id (fun y => { y with resurf := none }) s0
      let s2 := if r.command then 
          (s.queues.filter (fun q => q.slice == x.id && q.owner == s.boot.blkId)).foldl (fun s q => reportQueue x.id q.id s)
            { s1 with queues := s1.queues.map (fun q => if q.slice = x.id then idleQueue q else q) }
        else s1
      match r.seq.bind (fun n => cmdAt s n 0x0605) with
      | some c => finishOk c 0 (leBytes r.chair 8) s2
      | none => s2

/-- A tally of cluster `c` belongs to another slice's context. -/
def otherTally (s : State) (slice c k : Nat) : Bool :=
  s.units.any (fun x => x.slice != slice && decide (x.unit = .cluster c) && (List.range (tallyCount s x.slice x.unit)).any (fun i => tallyKey s x.slice x.unit i == some k))

/-- A byte of cluster `c` is live in another slice's partition. -/
def otherLive (s : State) (slice c k : Nat) : Bool :=
  s.units.any (fun x => x.slice != slice && decide (x.unit = .cluster c) &&
    (match partition s x.slice x.unit with
     | some (f, b) => (match sramAddr f b k with | some a => Sparse.get false x.live (a / 4096) | none => false)
     | none => false))

/-- Ticks 33 and 34 for one cluster: SRAM zeroed but for what others saved, tallies, gates, accumulators, filters, queues, patrol
captures, held signals and translations cleared. -/
def clearCluster (slice c : Nat) (s0 : State) : State :=
  let s := clearTraces slice s0
  let slot := ((findContext s slice).filter Context.resident).map Context.slot
  let claim := fun (t : State) => match slot with | some n => if (findUnit s (.cluster c) slice).isSome then claimTallies slice (.cluster c) n t else t | none => t
  claim { s with
    sram := s.sram.filter (fun e => e.1 / 2 ^ 21 != c || otherLive s slice c e.1)
    sramErrs := s.sramErrs.filter (fun e => e.1 / 2 ^ 17 != c || otherLive s slice c (e.1 * 16))
    tallies := s.tallies.filter (fun e => e.1 / 256 != c || otherTally s slice c e.1)
    units := s.units.map (fun x => if x.slice = slice ∧ x.unit = .cluster c then freshUnit slice x.unit else x)
    contexts := s.contexts.map (fun k => if k.slice = slice then { k with saved := k.saved.map (fun v =>
      { v with tallies := v.tallies.filter (fun e => e.1 / 256 != c), sram := v.sram.filter (fun e => e.1 / 2 ^ 21 != c)
               errs := v.errs.filter (fun e => e.1 / 2 ^ 17 != c), written := v.written.filter (fun w => w != c) }) } else k)
    patrol := { s.patrol with captures := s.patrol.captures.filter (fun p => p.slice != slice || decide (p.unit ≠ .cluster c)) } }

/-- RESURFACE_ZERO_DONE: a cluster of a resurfacing has been zeroed; from tick 33 of the chair (R483). -/
def execResurfaceZeroDone (slice cluster : Nat) (s : State) : Result :=
  match (findSlice s slice).bind Slice.resurf with
  | none => .next s
  | some r =>
    if r.chair ≠ chairOf s ∨ tickOf s < 33 ∨ r.clusters.contains cluster = false ∨ r.zeroed.contains cluster = true then .next s
    else
      let s1 := mapSlice slice (fun x => { x with resurf := x.resurf.map (fun r => { r with zeroed := r.zeroed ++ [cluster] }) }) (clearCluster slice cluster s)
      .next (allocate (.cluster cluster) s1)

/-! ### Retirement at a boundary (R433, R444) -/

/-- A cluster is retired: the record, source 11, the mask, and no further work (R433). -/
def retireCluster (c : Nat) (s : State) : State :=
  if s.recovery.retiredClusters.getLsbD c then s else
    raiseSource 11 (writeRecord { plainRecord 0x903 0 0 with engine := engineId s (.cluster c) 0 }
      { s with
        recovery := { s.recovery with retiredClusters := s.recovery.retiredClusters ||| (1#32 <<< c) }, current := Sparse.del s.current c })

/-- One array is retired; a cluster with more than two retired arrays is retired (R444). -/
def retireArray (s : State) (a : Nat) : State :=
  if s.recovery.retiredArrays.getLsbD a then s else
    let s1 := raiseSource 11 (writeRecord { plainRecord 0x904 0 0 with engine := engineId s (.cluster (a / 4)) (a % 4 + 1) }
      { s with recovery := { s.recovery with retiredArrays := s.recovery.retiredArrays ||| (1#128 <<< a) } })
    let n := ((List.range 4).filter (fun i => s1.recovery.retiredArrays.getLsbD (4 * (a / 4) + i))).length
    if 2 < n then retireCluster (a / 4) s1 else s1

/-! ### Mirrors at a boundary (R448, R450, R452) -/

/-- The queue ledger of every slice with a context on this block (R448). -/
def mirrorLedgers (s : State) : State :=
  if !mirroring s then s else
    (mirrored s).foldl (fun s x => sendImage { slice := x.id, step := x.step, isStep := false, ledger := ledgerOf s x.id } s) s

/-- The heartbeat, with the word that asks for takeover (R434, R452). -/
def heartbeat (s : State) : State :=
  if mirroring s then emit (.tether (.heartbeat (now s) s.recovery.exhausted)) s else s

/-! ### The chair boundary -/

/-- A slice's share in the chair that ends (R566): its levels, and whether it ran in schuss. -/
def pushHistory (s : State) (x : Slice) : Slice :=
  let e := (chairOf s - 1, (16 - s.power.clevel) * 256, (16 - s.power.elevel) * 256, s.power.schuss)
  { x with history := ((x.history ++ [e]).drop ((x.history.length + 1) - 64)) }

/-- `RESIDENT` as it reads from this boundary (R115). -/
def showContext (c : Context) : Context := { c with shown := c.resident && c.loading.isEmpty }

/-- A member reports the queues whose `RESIDENT` changes at this boundary (R34, R115). -/
def reportShown (old : State) (s : State) : State :=
  s.queues.foldl (fun s q =>
    let shown := fun (s : State) => ((findContext s q.slice).map Context.shown).getD false
    if q.owner == s.boot.blkId && shown old != shown s then reportQueue q.slice q.id s else s) s

/-- Every event of tick 0, in order (R96, R102, R115, R448, R452, R483, R551, R555). -/
def chairEvents (s0 : State) : State :=
  let s1 := { s0 with slices := s0.slices.map (pushHistory s0) }
  let s2 := s1.slices.foldl endResurf s1
  let s3 := swapSet s2
  let s4 := s3.slices.foldl eraseSlice s3
  let s5 := s4.patrol.toRetire.foldl retireArray { s4 with patrol := { s4.patrol with toRetire := [] } }
  let s6 := powerBoundary (reportShown s5 { s5 with contexts := s5.contexts.map showContext })
  let s7 := turnHalves (allocateChair (domainBoundary s6))
  shareCount (heartbeat (mirrorLedgers s7))

/-- CHAIR_BOUNDARY: the count has reached a multiple of 16,384 (R96). -/
def execChairBoundary (s : State) : Result :=
  if s.lift.chairDone then .next s else .next (chairEvents (mapLift (fun l => { l with chairDone := true }) s))

end Sys2Proof.Machine
end

