-- ==== Sys2Proof/Machine/Twin.lean ====
section
/-! DEFINITION. Twins (spec/13 "Twins"): pairing, step images, the tether's messages, detection, failover and fencing. The messages of
the tether are the model's own (log 41): the manual names what travels, not its form. -/

namespace Sys2Proof.Machine

def mapTwin (f : Twin → Twin) (s : State) : State := { s with twin := f s.twin }

/-- The pairing state as replies give it (R578). -/
def twinCode (s : State) : Nat :=
  (match s.twin.state with
   | .unpaired => 0
   | .pairing => 1
   | .tight => 2
   | .loose => 3
   | .solo => 4
   | .failedOver => 5) + flag s.twin.fenced 3

def replyTwin (c : CmdReq) (s : State) : State := finishOk c 0 (leBytes (twinCode s) 4) s

def pairedNow (s : State) : Bool := decide (s.twin.state = .tight) || decide (s.twin.state = .loose)

/-! ### Pairing (R446, R465) -/

/-- The twin channel opens, and the keys of every slot that a slice with a context here has bound go to the twin (R465). -/
def openChannel (s : State) : State :=
  let slots := (s.keys.bound.filter (fun e => (findContext s e.2).isSome)).map Prod.fst
  emitAll (slots.map (fun k => Output.tether (.key k (keyNumber s k)))) { s with keys := { s.keys with twinChannel := true } }

/-- The byte ranges that a slice's memory takes on this node: the lines written under its slots. -/
def sliceRanges (s : State) (slice : Nat) : List (Nat × Nat) :=
  (s.memKeys.filter (fun e => Sparse.get? s.keys.bound e.2.1 == some slice)).map (fun e => (e.1 * 64, 64))

/-- The initial copy: keys, banks, images, and the active set last (R446, R448). -/
def initialCopy (s : State) : State :=
  let s1 := (mirrored s).foldl (fun s x => sendImage (sliceImage s x x.step false (sliceRanges s x.id)) (mirrorBanks x.id s)) (openChannel s)
  emit (.tether (.mirrorSet s.cfg.active (nodeOf s s.boot.leadId) s.boot.blkId)) s1

/-- Both blocks have named each other: `PAIRING` begins, and the command is answered. -/
def beginPairing (node mode : Nat) (s : State) : State :=
  let cmd := s.twin.asked.bind (fun a => cmdAt s a.1 0x0501)
  let s1 := setTwinState .pairing (mapTwin (fun t => { t with
    node := some node, mode := mode, asked := none, peerAsked := none, lastHeartbeat := now s, outstanding := [], images := [] }) s)
  let s2 := initialCopy s1
  match cmd with
  | some c => replyTwin c s2
  | none => s2

/-- Both blocks have asked for the other mode: it holds from the next step boundary (R446). -/
def agreeMode (mode : Nat) (s : State) : State :=
  let cmd := s.twin.asked.bind (fun a => cmdAt s a.1 0x0501)
  let s1 := settleTwin (mapTwin (fun t => { t with asked := none, peerAsked := none, modeWanted := some mode }) s)
  match cmd with
  | some c => replyTwin c s1
  | none => s1

/-- The block's own request to pair fails. -/
def failPairing (status : Nat) (s : State) : State :=
  let cmd := s.twin.asked.bind (fun a => cmdAt s a.1 0x0501)
  let s1 := mapTwin (fun t => { t with asked := none, node := if s.twin.state = .unpaired then none else t.node }) s
  match cmd with
  | some c => failCmd c status s1
  | none => s1

/-- Both requests are here: they agree on the mode, or the command is denied (R446). -/
def matchRequests (s : State) : State :=
  match s.twin.asked, s.twin.peerAsked, s.twin.node with
  | some _, some (node, mode, _), some mine =>
    if node ≠ mine then s
    else if mode ≠ s.twin.modeWanted.getD s.twin.mode then failPairing stDenied s
    else if s.twin.state = .unpaired then beginPairing node mode s
    else agreeMode mode s
  | _, _, _ => s

/-- The twin's request counts for 5 s (R446). -/
def dropOldRequest (s : State) : State :=
  mapTwin (fun t => { t with peerAsked := t.peerAsked.filter (fun (p : Nat × Nat × Nat) => decide (now s < p.2.2 + 78125000)) }) s

def doPairTwin (c : CmdReq) (s : State) : State :=
  let node := par c 0 2
  let mode := par c 2 1
  if c.phase ≠ .fresh then s
  else if 2 < mode ∨ (mode ≠ 2 ∧ (4096 ≤ node ∨ node = ownNode s)) then failCmd c stBadParam s
  else if s.twin.fenced || s.twin.asked.isSome then failCmd c stDenied s
  else if s.twin.state = .unpaired then
    if mode = 2 then replyTwin c (setTwinState .solo s)
    else
      matchRequests (setPhase c.seq .waiting (emit (.tether (.pairRequest mode node))
        (dropOldRequest (mapTwin (fun t => { t with asked := some (c.seq, now s), node := some node, mode := mode, modeWanted := none }) s))))
  else if pairedNow s && mode != 2 && decide (s.twin.node = some node) then
    if mode = s.twin.mode then replyTwin c s
    else
      matchRequests (setPhase c.seq .waiting (emit (.tether (.pairRequest mode node))
        (dropOldRequest (mapTwin (fun t => { t with asked := some (c.seq, now s), modeWanted := some mode }) s))))
  else failCmd c stDenied s

/-- PAIR_TWIN (R445, R446). -/
def execPairTwin (seq : Word32) (s : State) : Result := cmdStep 0x0501 seq doPairTwin s

/-- PAIR_TWIN_TIMEOUT: 5 s have passed without the other block's request (R446). -/
def execPairTwinTimeout (s : State) : Result :=
  match s.twin.asked with
  | some (_, t) => if now s < t + 78125000 then .next s else .next (failPairing stTimedOut (mapTwin (fun w => { w with modeWanted := none }) s))
  | none => .next s

/-- The block has no twin any more; a node that it has assumed it goes on serving (R446). -/
def leaveTwin (s : State) : State :=
  let keep := s.twin.assumed.isSome
  setTwinState .unpaired { mapTwin (fun t => { t with
    node := none, outstanding := [], images := [], asked := none, peerAsked := none, probing := none, modeWanted := none, leaving := false
    banks := if keep then t.banks else [], set := if keep then t.set else none }) s with keys := { s.keys with twinChannel := false } }

def doUnpair (c : CmdReq) (s : State) : State :=
  if failingOver s then failCmd c stInFailover s
  else if s.twin.state = .unpaired then replyTwin c s
  else let t := leaveTwin s; replyTwin c t

/-- UNPAIR (R446). -/
def execUnpair (seq : Word32) (s : State) : Result := cmdStep 0x0502 seq doUnpair s

/-! ### Step images (R448 to R451) -/

/-- A step of a slice whose image is due: every node of the launch but one is complete, and that one is not (R449). -/
def imageDue (x : Slice) : Option (Graph × GLaunch) :=
  x.graphs.findSome? (fun g => if g.step then
    (g.launches.find? (fun l => !l.imageSent && decide ((l.nodes.filter (fun n => decide (n ≠ some 0))).length = 1))).map (fun l => (g, l)) else none)

/-- STEP_IMAGE: the image of a step is taken and sent (R448, R449). -/
def execStepImage (slice : Nat) (s : State) : Result :=
  match findSlice s slice with
  | none => .next s
  | some x =>
    match imageDue x with
    | none => .next s
    | some (g, l) =>
      if !mirroring s || x.aborted || (findContext s slice).isNone then .next s else
        let s1 := sendImage (sliceImage s x l.stepNo true (dirtyRanges s x)) s
        .next (mapSlice slice (fun y => { mapLaunch g.handle l.number (fun l => { l with imageSent := true }) y with dirtyPages := [] }) s1)

/-- The first image of a slice and step that waits for the twin's word. -/
def isImage (slice step : Nat) (m : MirrorImage) : Bool := m.slice == slice && m.step == step

/-- What an acknowledged ledger lets `COMPLETED` cover (R450). -/
def creditLedger (s : State) (e : LedgerEntry) : State :=
  let s1 := mapQueue e.slice e.queue (fun x => { x with mirrored := max x.mirrored e.completed }) s
  reportQueue e.slice e.queue (mapQueue e.slice e.queue (fun x => settleQuiesce (advanceQueue (now s) (some x.mirrored) x)) s1)

/-- The twin acknowledges an image (R449 to R451). -/
def takeImageAck (slice step : Nat) (s : State) : State :=
  match s.twin.outstanding.find? (isImage slice step) with
  | none => s
  | some m =>
    let rest := s.twin.outstanding.eraseP (isImage slice step)
    let s1 := mapTwin (fun t => { t with outstanding := rest }) s
    let s2 := if m.isStep then mapSlice slice (fun x => { x with graphs := x.graphs.map (fun g => if g.step then
        { g with launches := g.launches.map (fun l => if l.stepNo = step then { l with imageAcked := true } else l) } else g) }) s1 else s1
    settleCommands (m.ledger.foldl creditLedger s2)

/-! ### What the twin's images hold (R448) -/

/-- A later mirror of a slice joins what is held: the newest ledger and buffers, and the peers of the newest step. -/
def joinMirror (old new : MirrorImage) : MirrorImage :=
  { old with
    step := max old.step new.step, ledger := if new.ledger.isEmpty then old.ledger else new.ledger
    params := old.params.filter (fun p => !new.params.any (fun q => q.handle == p.handle)) ++ new.params
    peers := if old.step < new.step then new.peers else old.peers ++ new.peers.filter (fun n => !old.peers.contains n) }

/-- A whole image arrives: its pages are stored as they came, under the twin table's slots (R447, R448). -/
def storePages (m : MirrorImage) (s : State) : State :=
  { s with
    mem := m.pages.foldl (fun c e => Sparse.put c e.1 e.2) (m.lines.foldl (fun c e => Sparse.delRange c (e.1 * 64) 64) s.mem)
    memKeys := m.lines.foldl (fun c e => Sparse.put c e.1 (4096 + e.2.1, e.2.2)) s.memKeys }

/-- The held mirrors of a slice: the newest step image, and one that joins everything (R453 step 4). -/
def holdImage (m : MirrorImage) (s : State) : State :=
  let mine := fun (x : MirrorImage) => x.slice == m.slice
  let all := match s.twin.images.find? (fun x => mine x && !x.isStep) with
    | some o => { joinMirror o m with tallies := m.tallies, gates := m.gates }
    | none => { m with isStep := false, pages := [], lines := [] }
  let all := if m.tallies.isEmpty then
      { all with
        tallies := ((s.twin.images.find? (fun x => mine x && !x.isStep)).map MirrorImage.tallies).getD []
        gates := ((s.twin.images.find? (fun x => mine x && !x.isStep)).map MirrorImage.gates).getD [] }
    else all
  let step := if m.isStep then [{ m with pages := [], lines := [] }] else s.twin.images.filter (fun x => mine x && x.isStep)
  mapTwin (fun t => { t with images := t.images.filter (fun x => !mine x) ++ [all] ++ step }) (storePages m s)

/-- An image from the twin; one not received whole is never used (R448, R463). -/
def takeImage (m : MirrorImage) (whole : Bool) (s : State) : State :=
  if !whole then s
  else
    let s1 := holdImage m s
    if m.ledger.isEmpty && !m.isStep then s1 else emit (.tether (.imageAck m.slice m.step)) s1

/-! ### Failover (R453, R455 to R459) -/

/-- The slices of the failed node, as the mirrored set gives them: those with a pool on that block. -/
def failedSlices (s : State) : List Nat :=
  match s.twin.set with
  | none => []
  | some set => (set.slices.map SliceCfg.id).filter (fun i => set.pools.any (fun p => p.slice == i && p.block == s.twin.block))

def heldMirror (s : State) (slice : Nat) (step : Bool) : Option MirrorImage := s.twin.images.find? (fun x => x.slice == slice && x.isStep == step)

/-- R453 step 4: the newest image is not the step image of the slice's current step. -/
def stepBehind (s : State) (slice : Nat) : Bool :=
  match heldMirror s slice false with
  | none => false
  | some m => match heldMirror s slice true with
    | some i => i.step < m.step
    | none => 0 < m.step

/-- The payload of a step notice (R320): its kind, the failed node and the tick at which the failure was declared. -/
def noticePayload (kind node tick : Nat) : List Byte := leBytes kind 1 ++ leBytes 0 1 ++ leBytes node 2 ++ leBytes tick 8 ++ leBytes 0 4

/-- Send one step notice. -/
def sendNotice (kind failed : Nat) (s : State) (node : Nat) : State :=
  postRequest 0 { blankPacket with
    type := 0x0B, tc := 4, dnode := node, len := 16, payload := noticePayload kind failed s.twin.declared } .none .discard s

/-- The nodes to tell: the peer sets of the slices whose image is behind (R453 step 4). -/
def peersToTell (s : State) : List Nat :=
  (((failedSlices s).filter (stepBehind s)).map (fun i => ((heldMirror s i false).map MirrorImage.peers).getD [])).flatten.dedup

/-- Steps 1 to 4 of R453: `FAILED_OVER`, the remap, the abort notices; a pending commit fails (R463). No context stays pinned
(R456). -/
def beginFailover (replay : Bool) (s : State) : State :=
  match s.twin.node with
  | none => s
  | some node =>
    let tell := if replay && s.twin.mode == 0 then peersToTell s else []
    let s1 := setTwinState .failedOver (mapTwin (fun t => { t with
      remapWanted := true, awaiting := tell, notified := tell, replay := replay, probing := none, installed := false
      declared := now s }) s)
    let s2 := match s1.cfg.commit with | some k => abortCommit k stInFailover s1 | none => s1
    let s3 := { s2 with contexts := s2.contexts.map (fun c => { c with pinned := false }) }
    tell.foldl (sendNotice 0 node) (emit (.remapRequest node) s3)

/-- A queue of the failed block as it comes back: at the mirrored `COMPLETED`; in `LOOSE` it stays `STOPPED` (R453, R457, R458). -/
def assumedQueue (s : State) (e : LedgerEntry) : Queue :=
  let stopped := s.twin.replay && s.twin.mode == 1
  { slice := 1024 + e.slice, id := e.queue, owner := s.boot.blkId, ring := e.ring, ringLog2 := e.ringLog2, timeout := e.timeout
    posted := e.posted, completed := e.completed, fetched := e.completed, mirrored := e.completed
    state := if stopped then .stopped else if e.state = .idle ∧ e.completed < e.posted then .active else e.state
    dstatus := if stopped then 0x0F else 0 }

/-- The saved image of an assumed context (R453 step 5). -/
def assumedSaved (m : MirrorImage) : Saved :=
  { tallies := m.tallies.foldl (fun t e => Sparse.set {} t (savedKey (unitOfIdx e.unit) e.index) (tallyOfWord e.word)) [], sram := [] }

/-- The units of an assumed context, with their `E`. -/
def assumedUnits (s : State) (slice : Nat) (m : MirrorImage) : List UnitCtx :=
  match (slicePools s (1024 + slice)).find? (fun p => p.block == s.twin.block) with
  | none => []
  | some p => (poolUnits p).map (fun u => (m.tallies.filter (fun e => e.unit == unitIdx u)).foldl
      (fun x e => setExpect e.index (BitVec.ofNat 48 e.expected) x) (freshUnit (1024 + slice) u))

/-- Install one slice of the failed block (R453 step 5). -/
def installAssumed (s : State) (slice : Nat) : State :=
  let blank : MirrorImage := { slice := slice, step := 0, isStep := false }
  let all := (heldMirror s slice false).getD blank
  let img := if s.twin.mode == 0 then (heldMirror s slice true).getD all else all
  let bank := s.twin.banks.find? (fun b => b.1 == slice)
  let segs := (bank.map (fun b => b.2.2)).getD (List.replicate 16 {})
  let sl : Slice := { id := 1024 + slice, inForce := segs, staged := segs, gen := (bank.map (fun b => b.2.1)).getD 1
                      graphs := all.params.map graphOfSnap, peers := all.peers, step := all.step }
  let n := nextWanting s
  { s with
    slices := s.slices ++ [sl]
    contexts := s.contexts ++ [{ freshContext (1024 + slice) with saved := some (assumedSaved img), wanting := some n }]
    units := s.units ++ assumedUnits s slice img
    queues := s.queues ++ all.ledger.map (assumedQueue s)
    gates := img.gates.foldl (fun g e => Sparse.put g (1024 + e.1) e.2) s.gates }

/-- Steps 5 and 6 of R453, once the remap and every abort notice are acknowledged: install, resume, and restart the peers. -/
def settleFailover (s : State) : State :=
  match s.twin.node with
  | none => s
  | some node =>
    if s.twin.state ≠ .failedOver ∨ s.twin.assumed.isNone ∨ s.twin.installed ∨ s.twin.remapWanted ∨ s.twin.awaiting ≠ [] then s else
      let s1 := (failedSlices s).foldl installAssumed (mapTwin (fun t => { t with installed := true }) s)
      let s2 := s1.twin.notified.foldl (sendNotice 1 node) s1
      match s.twin.handover.bind (fun q => cmdAt s q 0x0503) with
      | some c => replyTwin c (mapTwin (fun t => { t with handover := none }) s2)
      | none => s2

/-- REMAP_ACK: the switches have remapped the failed node's ID to this block (R453 step 3). -/
def execRemapAck (s : State) : Result :=
  match s.twin.node with
  | some node =>
    if !s.twin.remapWanted then .next s
    else
      .next (settleFailover { mapTwin (fun t => { t with remapWanted := false, assumed := some node }) s with
        fab := { s.fab with assumed := if s.fab.assumed.contains node then s.fab.assumed else s.fab.assumed ++ [node] } })
  | none => .next s

/-- FABRIC_RESPONSE: the response to a packet of this block (R322, R323); the last acknowledged abort notice lets a failover go on
(R453). -/
def execFabricResponse (p : Packet) (s : State) : Result := .next (settleFailover (takeResponse p s))

def doFailover (c : CmdReq) (s : State) : State :=
  if c.phase ≠ .fresh then s
  else if failingOver s then failCmd c stInFailover s
  else if !pairedNow s || decide (s.twin.node ≠ some (par c 0 2)) then failCmd c stDenied s
  else setPhase c.seq .waiting (emit (.tether .handover) (mapTwin (fun t => { t with handover := some c.seq }) s))

/-- FAILOVER: a planned handover of the twin's node (R459). -/
def execFailover (seq : Word32) (s : State) : Result := cmdStep 0x0503 seq doFailover s

/-! ### Detection (R452) -/

/-- TWIN_HEARTBEAT_TIMEOUT: 100 ms without a heartbeat; the block probes (R452). -/
def execTwinHeartbeatTimeout (s : State) : Result :=
  if pairedNow s && s.twin.probing.isNone && decide (s.twin.lastHeartbeat + 1562500 ≤ now s) then
    .next (emit (.tether .probe) (mapTwin (fun t => { t with probing := some (now s) }) s))
  else .next s

/-- TWIN_PROBE_TIMEOUT: a further 150 ms without an answer; with a port group up, the twin is declared failed (R452). -/
def execTwinProbeTimeout (s : State) : Result :=
  match s.twin.probing with
  | some t => if pairedNow s && anyGroupUp s && decide (t + 2343750 ≤ now s) then .next (beginFailover true s) else .next s
  | none => .next s

/-- A heartbeat: one that asks for takeover is granted, unless this block asks for it too (R434, R452, R463); a node already assumed is
told so (R460). -/
def takeHeartbeat (takeover : Bool) (s : State) : State :=
  let s1 := mapTwin (fun t => { t with lastHeartbeat := now s, probing := none }) s
  match s.twin.assumed with
  | some n => if s.twin.state = .failedOver then emit (.tether (.assumed n)) s1 else s1
  | none =>
    if !takeover || !pairedNow s then s1
    else if s.recovery.exhausted then writeRecord (plainRecord 0x902 0 0) s1
    else beginFailover true s1

/-! ### Fencing (R460) -/

/-- Stop one queue of this block with `STOPPED`, marking no party and writing no record of its own. -/
def stopPlain (s : State) (x : Queue) : State :=
  if x.owner ≠ s.boot.blkId then s
  else reportQueue x.slice x.id (mapQueue x.slice x.id (stoppedQueue 0x0F false false none) (stopQueueWork x.slice x.id .none true false s))

/-- R460: the block finds its own node assumed: every queue stops, and it serves nothing until `BLK_RST_N`. -/
def fence (s : State) : State :=
  let s1 := s.queues.foldl stopPlain s
  let s2 := writeRecord (plainRecord 0x909 0 0) s1
  setTwinState .unpaired (mapTwin (fun t => { t with fenced := true, node := none, probing := none }) s2)

/-! ### TETHER -/

/-- A request to pair of the node that this block's own `PAIR_TWIN` has named: where it begins a pairing, this block's request goes back,
since the other block may have had to refuse an earlier one (R319, R446, log 41). -/
def takePairRequest (from' mode named : Nat) (s : State) : State :=
  if named ≠ ownNode s ∨ s.twin.state = .pairing then s
  else if s.twin.fenced then emit (.tether .pairDenied) s
  else
    let s1 := matchRequests (mapTwin (fun t => { t with peerAsked := some (from', mode, now s) }) s)
    if s.twin.state = .unpaired ∧ s1.twin.state = .pairing then emit (.tether (.pairRequest mode from')) s1
    else if s.twin.state = .unpaired ∧ s1.twin.asked.isNone then emit (.tether .pairDenied) s1
    else s1

/-- A message of the tether takes its effect. -/
def takeTether (from' : Nat) (m : TetherMsg) (s : State) : State :=
  match m with
  | .image img whole => takeImage img whole s
  | .mirrorSet set lead block =>
    let s1 := mapTwin (fun t => { t with set := some set, lead := lead, block := block }) s
    if s.twin.state = .pairing then emit (.tether .copyDone) s1 else s1
  | .banks slice gen segs => mapTwin (fun t => { t with banks := t.banks.filter (fun b => b.1 != slice) ++ [(slice, gen, segs)] }) s
  | .hostWrite addr key data => memWrite addr (4096 + key) data s
  | .key slot number => if s.keys.twinChannel then { s with keys := { s.keys with twin := Sparse.put s.keys.twin slot number } } else s
  | .imageAck slice step => settleTwin (takeImageAck slice step s)
  | .copyDone => if s.twin.state = .pairing then setTwinState (twinMode s.twin.mode) (mapTwin (fun t => { t with lastHeartbeat := now s }) s) else s
  | .heartbeat _ takeover => takeHeartbeat takeover s
  | .probe => emit (.tether .probeAnswer) s
  | .probeAnswer => mapTwin (fun t => { t with probing := none, lastHeartbeat := now s }) s
  | .pairRequest mode named => takePairRequest from' mode named s
  | .pairDenied => if s.twin.asked.isSome then failPairing stDenied s else s
  | .handover => if pairedNow s then settleTwin (mapTwin (fun t => { t with leaving := true }) s) else s
  | .finalDone => if s.twin.handover.isSome && pairedNow s then beginFailover false s else s
  | .assumed node =>
    if node = ownNode s ∧ s.twin.serving ∧ (pairedNow s ∨ s.twin.state = .failedOver) then fence s else s

/-- R319: a message of the tether comes only from the node of the paired twin, or, for a request to pair and its denial, from the node that
this block's own `PAIR_TWIN` names. -/
def tetherSource (s : State) (p : Packet) : Bool := decide (s.twin.node = some p.snode)

/-- A message that is refused; a block paired with another block lets the asker know (R446). -/
def refuseTether (p : Packet) (m : TetherMsg) (s : State) : State :=
  let s1 := refuse p 0x704 s
  match m with
  | .pairRequest _ named => if named = ownNode s ∧ s.twin.state ≠ .unpaired then emit (.tether .pairDenied) s1 else s1
  | _ => s1

/-- TETHER (R316, R319, R448, R449, R452, R460). -/
def execTether (p : Packet) (m : TetherMsg) (s : State) : Result :=
  acceptType 9 p (fun s => if !tetherSource s p then refuseTether p m s
    else checkedPayload p (fun s => takeTether p.snode m (respond p 0 0 [] s)) s) s

end Sys2Proof.Machine
end

