-- ==== Sys2Proof/Machine/Link.lean ====
section
/-! DEFINITION. Links and lanes: frames with their tags, checks, replay and credits (R312 to R316, R326, R340 to R346), lane
tests (R347 to R350), lane power states (R351), training and session keys (R470, R471, R541), die-to-die ports (R341). -/

namespace Sys2Proof.Machine

def mapGroup (g : Nat) (f : Group → Group) (s : State) : State := setGroup g (f (groupAt s g)) s
def mapLane (k : Nat) (f : Lane → Lane) (s : State) : State := setLane k (f (laneAt s k)) s

/-! ### Frames (R312 to R316) -/

/-- The parts of a frame have their lengths, and the payload is padded with zeros (R312). -/
def frameShape (f : Frame) : Bool :=
  let n := byteField f.header 12 2 % 512
  f.header.length == 32 && f.payload.length == roundUp n 16 && f.check.length == f.payload.length / 8 && (f.payload.drop n).all (fun b => b == 0)

/-- The CRC of a frame holds (R315). -/
def frameCrc (f : Frame) : Bool := crc32 (f.header.take 28 ++ f.payload ++ f.check) == BitVec.ofNat 32 (byteField f.header 28 4)

/-- R342: the symbols corrected in the codewords of a frame, of up to 15 bad symbols each, and the codewords that have more. -/
def fecSym (f : Frame) : Nat := (f.codewords.filter (fun n => decide (n ≤ 15))).sum
def fecUnc (f : Frame) : Nat := (f.codewords.filter (fun n => decide (15 < n))).length

/-- The packet in a frame (R314). -/
def framePacket (f : Frame) : Packet :=
  let h := byteField f.header
  { type := h 0 1, tc := h 1 1 % 8, rsp := (h 1 1).testBit 3, comb := (h 1 1).testBit 4, winv := (h 1 1).testBit 5
    dnode := h 2 2 % 2 ^ 12, snode := h 4 2 % 2 ^ 12, stag := h 6 4 % 2 ^ 22, win := h 6 4 / 2 ^ 22, txid := h 10 2
    len := h 12 2 % 2 ^ 9, sub := bitsOf 12 9 (h 12 2), fmt := bitsOf 15 13 (h 12 2), epoch := h 14 2, addr := h 16 8
    key := h 24 2 % 2 ^ 12, status := h 24 1, cause := h 26 2 % 2 ^ 12, payload := f.payload.take (h 12 2 % 2 ^ 9)
    badSyms := min 2 (Config.symbolVerdict f.payload f.check) }

/-- Frames that the far end has in order leave the replay buffer (R313, R343). -/
def takeAckSeq (ack : BitVec 12) (x : Group) : Group :=
  if x.unacked.any (fun e => e.seq == ack) then { x with unacked := (x.unacked.dropWhile (fun e => e.seq != ack)).drop 1 } else x

/-- A group begins to retrain. -/
def beginRetrain (g : Nat) (s : State) : State := mapGroup g (fun x => { x with retrain := true }) s

/-- Replay what is not acknowledged, in its order; a frame that has been replayed 8 times makes a port group retrain (R343). -/
def replay (g : Nat) (s : State) : State :=
  let x := groupAt s g
  if x.unacked.isEmpty then s
  else if g < 8 ∧ x.unacked.any (fun e => decide (8 ≤ e.tries)) then beginRetrain g s
  else emitAll (x.unacked.map (present g x.rxSeq false))
    (setGroup g { x with unacked := x.unacked.map (fun e => { e with tries := e.tries + 1 }), replay := x.replay + x.unacked.length } s)

/-- Ask for a replay (R343): in a frame of a header alone, or, where the replay buffer has no room for one, in its oldest frame. -/
def askReplay (g : Nat) (s : State) : State :=
  match (groupAt s g).unacked with
  | e :: es => if 511 ≤ es.length then emit (present g (groupAt s g).rxSeq true e) s else sendFrame g true headerOnly s
  | [] => sendFrame g true headerOnly s

/-- Credits return to the class they belong to (R313, R326). -/
def takeCredit (tag : Nat) (x : Group) : Group :=
  let c := bitsOf 27 25 tag + (if bitOf 28 tag then 8 else 0)
  { x with spent := Sparse.set 0 x.spent c (Sparse.get 0 x.spent c - bitsOf 38 29 tag) }

/-- A frame that fails its checks: it is discarded, a CRC failure is counted, and the link asks for a replay (R315, R343). -/
def discardFrame (g : Nat) (f : Frame) (s : State) : State :=
  askReplay g (mapGroup g (fun x => { x with crc := if fecUnc f = 0 ∧ !frameCrc f then x.crc + 1 else x.crc }) s)

/-- A frame in order: its credits are taken. One for another node goes on from a die-to-die port with the check bytes that it came with,
and holds its slot until then (R316, R326, R340); the slot of any other is free at once. A frame of type 0 carries no packet (log 42). -/
def acceptFrame (g : Nat) (f : Frame) (s : State) : State :=
  let p := framePacket f
  let s1 := mapGroup g (fun x => takeCredit f.tag.toNat { x with rxSeq := BitVec.ofNat 12 f.tag.toNat }) s
  if p.type = 0 then s1
  else if 8 ≤ g ∧ !forUs s p then sendParcel { packet := p, check := some f.check, cameOn := some g } s1
  else mapGroup g (oweCredit (packetClass p)) s1

/-- The receiver of a link takes frames: a lane without CDR lock hears nothing (R519), a group that is not up carries none. -/
def linkHears (s : State) (g : Nat) : Bool :=
  if g < 8 then (groupAt s g).up && (List.range 6).all (fun k => !(groupAt s g).lanes.getLsbD k || (laneAt s (6 * g + k)).cdrLock)
  else s.pins.d2dPresent.getLsbD (g - 8)

/-- LINK_FRAME: a frame arrives on a link (R342 to R344). Link 8 + `n` is die-to-die port `n`, which has no RS codewords and no session. -/
def execLinkFrame (group : Nat) (f : Frame) (s : State) : Result :=
  if 11 ≤ group then .fault .noSuchPlace
  else if !linkHears s group then .next s
  else
    let s1 := if group < 8 then mapGroup group (fun x => { x with fecSym := x.fecSym + fecSym f, fecUnc := x.fecUnc + fecUnc f }) s else s
    let bad := (decide (group < 8) && (decide (0 < fecUnc f) || ((groupAt s group).enc && !f.tagOk))) || !frameShape f || !frameCrc f
    if bad then .next (discardFrame group f s1)
    else
      let s2 := mapGroup group (takeAckSeq (BitVec.ofNat 12 (bitsOf 23 12 f.tag.toNat))) s1
      let s3 := if bitOf 24 f.tag.toNat then replay group s2 else s2
      let inOrder := BitVec.ofNat 12 f.tag.toNat = (groupAt s3 group).rxSeq + 1
      .next (releaseWaiting (flushOutbox (if inOrder then acceptFrame group f s3 else s3)))

/-! ### Retraining, and a group that goes down (R343, R345, R346) -/

/-- A frame lost with its group: `READ`, `WRITE` and `LIFT` go again, the sender of one that may have been applied faults with
`LINK_LOST`, and a lost release is recorded against the gate's owner (R345). A forwarded packet is no request of this block. -/
def loseFrame (s : State) (q : Parcel) : State :=
  let p := q.packet
  if p.type = 1 ∨ p.type = 2 ∨ p.type = 8 then sendParcel q s
  else if q.check.isSome ∨ q.msg.isSome then s
  else if p.type = 7 then writeRecord { (plainRecord 0x707 0 0) with noSlice := false, slice := p.stag % 1024 } s
  else if 3 ≤ p.type ∧ p.type ≤ 6 ∧ !p.rsp then
    match findTxn s p.txid with
    | some t => afterAnswer t.owner (ownerFault t.owner 0x707 (if p.type = 6 then 0 else p.addr) 0 (dropTxn t.txid s))
    | none => s
  else s

/-- A link whose link state starts over. -/
def freshLink (x : Group) : Group :=
  { x with up := false, retrain := false, enc := false, rate := 0, lanes := 0, txSeq := 0, rxSeq := 0xFFF, unacked := [], spent := [],
           owed := [], wire := [], turn := 0, blockFrames := 0 }

/-- `FABRIC_DOWN`, once, when no port group is up (R346); a group that never trained counts as neither (R519). -/
def noteFabricDown (s : State) : State :=
  if (List.range 8).any (fun g => (groupAt s g).up) || s.fab.down then s
  else writeRecord (plainRecord 0x709 0 0) { s with fab := { s.fab with down := true } }

/-- What a lost link's frames carry, each with its slot given back already. -/
def lostParcels (x : Group) : List Parcel := x.unacked.map (fun e => { e.parcel with cameOn := none })

/-- A group goes down: its link state starts over, the frames it held are lost or go elsewhere, `LINK_DOWN` is recorded. -/
def groupDown (g : Nat) (s : State) : State :=
  let x := groupAt s g
  let s2 := raiseSource 9 (writeRecord (plainRecord 0x708 0 0) (setGroup g (freshLink x) s))
  noteFabricDown ((lostParcels x).foldl loseFrame s2)

/-- LINK_RETRAIN_DONE: a port group's retraining ends (R343). One that is back replays what is not acknowledged. -/
def execLinkRetrainDone (group : Nat) (up : Bool) (s : State) : Result :=
  if 8 ≤ group then .fault .noSuchPlace
  else if !(groupAt s group).retrain then .next s
  else if up then
    .next (releaseWaiting (flushOutbox (replay group (mapGroup group (fun x => { x with
      retrain := false, unacked := x.unacked.map (fun e => { e with tries := 0 }) }) s))))
  else .next (groupDown group s)

/-! ### Training and keys (R470, R471, R541) -/

/-- Fresh session keys of a group: named by the number of the draw (log 6). -/
def linkKey (g : Nat) (s : State) : State :=
  { s with keys := { s.keys with link := Sparse.put s.keys.link g s.keys.linkDraws, linkDraws := s.keys.linkDraws + 1 } }

/-- FABRIC_TRAINING_DONE: a signalled group ends its training (R541). It enters service when it trained and, with link
encryption on, opened its session (R470); the block learns its node ID. -/
def execFabricTrainingDone (group : Nat) (trained : Bool) (lanes : BitVec 6) (node : Nat) (session : Bool) (s : State) : Result :=
  if 8 ≤ group then .fault .noSuchPlace
  else if s.boot.phase < 7 ∨ (groupAt s group).up ∨ !(List.range 6).any (fun k => (laneAt s (6 * group + k)).sigdet) then .next s
  else if !trained then .next s
  else
    let enc := s.boot.image.linkEnc && session
    let serves := !s.boot.image.linkEnc || session
    let s1 := setGroup group { (groupAt s group) with
      lanes := lanes, up := serves, enc := enc, rate := if s.boot.image.laneRate = 0 then 1 else 2, tagBlocks := 0 } s
    let s2 := if enc then linkKey group s1 else s1
    let s3 := { s2 with boot := { s2.boot with nodeIds := Sparse.put s2.boot.nodeIds s.boot.blkId node } }
    if serves then .next (releaseWaiting (flushOutbox { s3 with fab := { s3.fab with down := false } })) else .next s3

/-- PHY_CAL_DONE: the PHY answers the calibration handshake of a group (R518). -/
def execPhyCalDone (group : Nat) (ok : Bool) (s : State) : Result :=
  if 8 ≤ group then .fault .noSuchPlace
  else if s.boot.phase = 3 then .next (mapGroup group (fun x => { x with calOk := some ok }) s)
  else .next s

/-- LINK_KEY_UPDATE: a group whose count of tag blocks nears 2^32 installs new session keys (R471). -/
def execLinkKeyUpdate (group : Nat) (s : State) : Result :=
  if 8 ≤ group then .fault .noSuchPlace
  else if !(groupAt s group).enc then .next s
  else .next (emit (.keyUpdate group) (linkKey group (mapGroup group (fun x => { x with keyUpdates := x.keyUpdates + 1, tagBlocks := 0 }) s)))

/-! ### Lanes (R347 to R350, R519) -/

/-- LANE_SIGNAL_CHANGE: a lane's inputs change (R519). -/
def execLaneSignalChange (lane : Nat) (sigdet cdrLock : Bool) (s : State) : Result :=
  if 48 ≤ lane then .fault .noSuchPlace
  else .next (mapLane lane (fun x => { x with sigdet := sigdet, cdrLock := cdrLock }) s)

/-- The stream that injection inverts: pattern bits, or in traffic mode the coded stream of a group in service (R350). -/
def injects (s : State) (lane : Nat) : Bool :=
  let x := laneAt s lane
  x.inj && (x.mode == 1 || x.mode == 3 || (x.mode == 0 && groupCarries s (lane / 6) && (groupAt s (lane / 6)).lanes.getLsbD (lane % 6)))

/-- LANE_INJECT: an injection interval ends: one bit, or a burst, of the transmitted stream is inverted (R350). -/
def execLaneInject (lane : Nat) (s : State) : Result :=
  if 48 ≤ lane then .fault .noSuchPlace
  else
    let x := laneAt s lane
    if !injects s lane then .next s
    else
      let n := if x.injKind = 2 then x.injLen else 1
      .next (emit (.injected lane n) (setLane lane { x with injected := min (x.injected + n) (2 ^ 48 - 1) } s))

/-- The lane's checker runs: its mode is check, or generate and check. -/
def checks (x : Lane) : Bool := 2 ≤ x.mode

/-- LANE_CHECKER_LOCK: 1,024 correct bits in a row lock the checker (R349). -/
def execLaneCheckerLock (lane : Nat) (s : State) : Result :=
  if 48 ≤ lane then .fault .noSuchPlace
  else if checks (laneAt s lane) then .next (mapLane lane (fun x => { x with lock := true }) s)
  else .next s

/-- LANE_CHECKER_LOSS: 256 errors within 4,096 bits unlock it, and it seeds again (R349). What it has counted since the last tick is free;
of bits and of errors it has counted 256 at least (log 43). -/
def execLaneCheckerLoss (lane : Nat) (s : State) : Result :=
  if 48 ≤ lane then .fault .noSuchPlace
  else if checks (laneAt s lane) && (laneAt s lane).lock then
    .next (mapLane lane (fun x => { x with
      lock := false, loss := true, errs := min (max 256 (x.errs + Config.freeNat s.free)) (2 ^ 48 - 1)
      bits := min (max 256 (x.bits + Config.freeNat (s.free + 1))) (2 ^ 48 - 1) }) { s with free := s.free + 2 })
  else .next s

/-- The polynomial of a pattern: its degree, and the powers of x below it (R349). -/
def prbs : Nat → Nat × List Nat
  | 1 => (7, [6, 0]) | 2 => (13, [12, 2, 1, 0]) | 3 => (15, [14, 0]) | 4 => (23, [18, 0]) | 5 => (31, [28, 0])
  | _ => (0, [])

/-! ### LANE_TEST (R348, R374) -/

/-- One entry of R374. -/
structure LaneEntry where
  lane : Nat
  mode : Nat
  pat : Nat
  kind : Nat
  burst : Nat
  log2 : Nat
  deriving DecidableEq, Repr

def laneEntry (ps : List Byte) (i : Nat) : LaneEntry :=
  let b := fun (k : Nat) => byteField ps (8 + 8 * i + k) 1
  { lane := b 0, mode := b 1 % 4, pat := b 1 / 16, kind := b 2, burst := b 3, log2 := b 4 }

def laneEntries (ps : List Byte) : List LaneEntry := (List.range (byteField ps 0 1)).map (laneEntry ps)

/-- The fields of an entry are in range (R374). -/
def laneEntryOk (ps : List Byte) (i : Nat) : Bool :=
  let e := laneEntry ps i
  decide (e.lane < 48) && bitsOf 3 2 (byteField ps (9 + 8 * i) 1) == 0 && decide (e.pat ≤ 5) && decide (e.kind ≤ 2) &&
  (if e.kind = 2 then decide (2 ≤ e.burst) && decide (e.burst ≤ 64) else e.burst == 0) && decide (10 ≤ e.log2) && decide (e.log2 ≤ 40)

/-- A lane enters its test, which clears its counters (R347, R348). -/
def startTest (s : State) (e : LaneEntry) : State :=
  mapLane e.lane (fun x => { x with
    pat := e.pat, mode := e.mode, inj := e.kind != 0, loss := false, lock := false, errs := 0, bits := 0, injected := 0
    injKind := e.kind, injLen := e.burst, injLog2 := e.log2 }) s

def groupsWhere (f : Nat → Bool) : List Nat := (List.range 8).filter f
def maskOf (gs : List Nat) : Nat := gs.foldl (fun m g => m ||| 2 ^ g) 0

def doLaneTest (c : CmdReq) (s : State) : State :=
  let n := byteField c.params 0 1
  if n = 0 ∨ 48 < n ∨ !(List.range n).all (laneEntryOk c.params) then failCmd c stBadParam s
  else
    let s1 := (laneEntries c.params).foldl startTest s
    let sent := ((laneEntries c.params).filter (fun e => e.mode % 2 == 1)).map (fun e => Output.pattern e.lane (prbs e.pat).1 (prbs e.pat).2)
    let back := groupsWhere (fun g => groupTesting s g && !groupTesting s1 g && (groupAt s1 g).up)
    let s2 := back.foldl (fun s g => beginRetrain g s) s1
    if !anyGroupUp s2 then failCmd c stNoResource s
    else finishOk c 0 (leBytes (maskOf (groupsWhere (fun g => !groupTesting s g && groupTesting s1 g))) 4) (emitAll sent s2)

/-- LANE_TEST: lanes enter test modes; a group whose lanes all return to traffic retrains (R348). -/
def execLaneTest (seq : Word32) (s : State) : Result := cmdStep 0x0703 seq doLaneTest s

/-! ### LANE_STATE (R351) -/

/-- The state that a group is in or moves to. -/
def groupTarget (s : State) (g : Nat) : Nat := (groupAt s g).exiting.getD (groupAt s g).ls

def doLaneState (c : CmdReq) (s : State) : State :=
  let g := byteField c.params 0 1
  let st := byteField c.params 1 1
  if 8 ≤ g ∨ 3 ≤ st then failCmd c stBadParam s
  else if st ≠ 0 ∧ !(List.range 8).any (fun h => h != g && groupTarget s h == 0) then failCmd c stBadParam s
  else
    let s1 := mapGroup g (fun x => { x with
      exiting := if x.exiting.getD x.ls = st then x.exiting else some st
      retrain := x.retrain || (x.ls == 2 && st == 0 && x.up)
      power := if st < x.ls then st else x.power }) s
    finishOk c 0 (leBytes (groupAt s g).ls 4) s1

/-- LANE_STATE: a group begins to move between lane power states (R351). -/
def execLaneState (seq : Word32) (s : State) : Result := cmdStep 0x0704 seq doLaneState s

/-- LANE_STATE_EXIT_DONE: a group has finished its change: one that leaves LS0 has emptied its replay buffer, and one that leaves LS2 for
LS0 has retrained (R351). -/
def execLaneStateExitDone (group : Nat) (s : State) : Result :=
  if 8 ≤ group then .fault .noSuchPlace
  else
    let x := groupAt s group
    match x.exiting with
    | none => .next s
    | some st =>
      if x.ls = 0 ∧ !x.unacked.isEmpty then .next s
      else .next (releaseWaiting (flushOutbox (setGroup group { x with
        ls := st, exiting := none, power := st, retrain := x.retrain && !(x.ls == 2 && st == 0) } s)))

/-! ### Die-to-die ports (R341, R520) -/

/-- D2D_PORT_STATE_CHANGE: an adapter's status or partner changes; the routes are set from the paths that are left, and what a lost port held
goes another way or is lost (R341; of the frames of a lost port: log 42). -/
def execD2dPortStateChange (port status : Nat) (present : Bool) (paths : List (Nat × Nat × Nat)) (s : State) : Result :=
  if 3 ≤ port then .fault .noSuchPlace
  else
    let pres := if present then s.pins.d2dPresent ||| (1#3 <<< port) else s.pins.d2dPresent &&& ~~~(1#3 <<< port)
    let s1 := setRoutes { s with
      pins := { s.pins with d2dPresent := pres, d2dStatus := Sparse.put s.pins.d2dStatus port status }
      fab := { s.fab with paths := paths } }
    let s2 := if present then s1 else (lostParcels (groupAt s (8 + port))).foldl loseFrame (setGroup (8 + port) {} s1)
    .next (releaseWaiting (flushOutbox s2))

end Sys2Proof.Machine
end

