-- ==== Sys2Proof/Machine/Recovery.lean ====
section
/-! DEFINITION. Recovery (spec/13): the reset ladder (R428 to R434), restarts of scheduler cores and of the management processor
(R435 to R437), records that reach the ring (R424), and ski patrol's checks (R440 to R444). -/

namespace Sys2Proof.Machine

def mapRecovery (f : Recovery → Recovery) (s : State) : State := { s with recovery := f s.recovery }

/-! ### The reset ladder -/

/-- The front end among the units of a ladder; clusters and proxies have their unit indices. -/
def frontEnd : Nat := 40

/-- The mask of clusters concerned in a `RESET_RUNG` record (R430). -/
def clusterMask (us : List Nat) : Nat := maskOf (us.filter (fun c => decide (c < 32)))

/-- R430: the record and the interrupt at the start of a rung. -/
def noteRung (rung : Nat) (us : List Nat) (s : State) : State :=
  raiseSource (32 + s.boot.blkId) (writeRecord { plainRecord 0x901 0 (clusterMask us * 2 ^ 32 + rung) with ports := maskOf ((us.filter (fun c => decide (32 ≤ c) && decide (c < 40))).map (fun c => c - 32)) } s)

/-- R27: a record for each context on a unit that hangs. It has the cause of the rung, names the context and no queue (log 80). -/
def noteHang (u : UnitId) (s : State) : State :=
  ((s.units.filter (fun x => decide (x.unit = u))).map UnitCtx.slice).foldl (fun s sl => writeRecord
    { plainRecord 0x901 0 (clusterMask [unitIdx u] * 2 ^ 32 + 1) with noSlice := false, slice := sl, context := contextSlot s sl, engine := engineId s u 0 } s) s

/-- Rung 1: the engine's queue and state are cleared, in every context of its unit (R429). -/
def resetEngine (u : UnitId) (eng : Nat) (s : State) : State :=
  let gone := fun (x : UnitCtx) => (allInsns x).filter (fun e => e.eng == eng)
  let mine := fun (o : Owner) => match o with
    | .insn v sl i => decide (v = u) && ((findUnit s u sl).map (fun x => (gone x).any (fun e => e.id == i))).getD false
    | _ => false
  let s1 := dropOwned mine .none s
  { s1 with units := s1.units.map (fun x => if x.unit = u then { dropRuns (fun _ => false) ((gone x).map EngInsn.id) x with
      quads := x.quads.filter (fun q => decide (q.1 / 4 ≠ eng))
      visited := if eng = 5 then [] else x.visited } else x) }

/-- A queue with work on a unit that is reset; the front end works for every queue with a descriptor in it (R431). -/
def hitBy (s : State) (us : List Nat) (q : Queue) : Bool :=
  queueOpen q && (s.units.any (fun x => us.contains (unitIdx x.unit) && x.slice == q.slice && holdsQueue x q.id) || (us.contains frontEnd && !q.descs.isEmpty))

/-- A unit's state after its reset: nothing held but tallies (R429). -/
def clearedUnit (x : UnitCtx) : UnitCtx := { x with seq := none, draining := [], insns := [], quads := [], aside := none, visited := [], stopping := false }

/-- R431: the queues that work on reset units stop with `STOPPED`, and the tallies of their contexts, and of every context on those
units, are poisoned. -/
def resetUnits (us : List Nat) (s : State) : State :=
  let hit := s.queues.filter (hitBy s us)
  let on := s.units.filter (fun x => us.contains (unitIdx x.unit))
  let s1 := hit.foldl stopPlain s
  let s2 := (hit.map Queue.slice).dedup.foldl (fun s sl => poisonContext sl s) s1
  let s3 := on.foldl (fun s x => if (findContext s x.slice).any Context.resident then poisonUnit x.slice x.unit s else s) s2
  { s3 with
    units := s3.units.map (fun x => if us.contains (unitIdx x.unit) then clearedUnit x else x)
    current := s3.current.filter (fun e => !us.contains e.1) }

/-- The limit of a rung in ticks (R429). -/
def rungLimit (r : Nat) : Nat := match r with | 1 => 782 | 2 => 7813 | 3 => 78125 | _ => 312500

def putLadder (l : Ladder) (s : State) : State :=
  mapRecovery (fun r => { r with ladders := r.ladders.map (fun x => if x.id = l.id then l else x) }) s
def dropLadder (id : Nat) (s : State) : State :=
  mapRecovery (fun r => { r with ladders := r.ladders.filter (fun x => x.id != id) }) s

/-- The engine is being reset already, by a ladder of its own or one that resets its whole unit. -/
def underReset (s : State) (u : UnitId) (eng : Nat) : Bool :=
  s.recovery.ladders.any (fun l => (decide (l.unit = u) && l.eng == eng && l.rung == 1) || (decide (2 ≤ l.rung) && l.left.contains (unitIdx u)))

/-- R428: an engine's own checks report an error in its control state, or a stop asked of it is not complete within 782 ticks. -/
def rungDue (s : State) (u : UnitId) : RungCause → Bool
  | .controlError => true
  | .notStopped => s.recovery.stopAsked.any (fun e => e.1 == unitIdx u && decide (e.2 + 782 ≤ now s))

/-- RESET_RUNG: an engine that has not stopped in time, or that reports a control-state error, enters rung 1 (R428); each context on its
unit is named in a record (R27). -/
def execResetRung (unit : UnitId) (eng : Nat) (why : RungCause) (s : State) : Result :=
  if !unitOk unit || underReset s unit eng || !rungDue s unit why then .next s
  else
    let l : Ladder := { id := s.recovery.nextLadder, rung := 1, since := now s, left := [unitIdx unit], unit := unit, eng := eng }
    .next (noteRung 1 l.left (resetEngine unit eng (noteHang unit
      (mapRecovery (fun r => { r with ladders := r.ladders ++ [l], nextLadder := r.nextLadder + 1 }) s))))

/-- Rung 2 resets the unit, and takes in other ladders that began on it; rung 3 resets the compute domain and takes over every lower
ladder (R429, R430). -/
def climb (l : Ladder) (rung : Nat) (us : List Nat) (s : State) : State :=
  let others := fun (x : Ladder) => x.id != l.id && (decide (rung = 3) || decide (x.unit = l.unit)) && decide (x.rung < rung)
  let s1 := mapRecovery (fun r => { r with ladders := r.ladders.filter (fun x => !others x) }) s
  resetUnits us (noteRung rung us (putLadder { l with rung := rung, since := now s, left := us } s1))

/-- A day and an hour in ticks (R433, R444). -/
def dayTicks : Nat := 1350000000000
def hourTicks : Nat := 56250000000

/-- One cluster goes through rung 4: it is retired when it needs the rung a second time within a day, and otherwise comes up with its
SRAM zeroed (R429, R433). -/
def cycleCluster (s : State) (c : Nat) : State :=
  let again := s.recovery.rung4.any (fun e => e.1 == c && decide (now s < e.2 + dayTicks))
  let s1 := zeroCluster c (mapRecovery (fun r => { r with rung4 := r.rung4 ++ [(c, now s)] }) s)
  if again then retireCluster c s1 else s1

/-- Rung 4: the clusters that rung 3 did not bring back; a front end or proxy that it did not bring back ends the ladder (R434). -/
def rungFour (l : Ladder) (s : State) : State :=
  if l.left.any (fun u => decide (32 ≤ u)) then
    writeRecord (plainRecord 0x902 0 0) (mapRecovery (fun r => { r with halted := true }) (dropLadder l.id s))
  else l.left.foldl cycleCluster (climb l 4 l.left s)

/-- Rung 5: a paired block asks its twin to take over; any other retires what rung 4 did not bring back (R433, R434). -/
def rungFive (l : Ladder) (s : State) : State :=
  let s1 := noteRung 5 l.left (dropLadder l.id s)
  if pairedNow s then mapRecovery (fun r => { r with exhausted := true }) s1
  else l.left.foldl (fun s c => retireCluster c s) s1

/-- The next rung of a ladder. -/
def nextRung (l : Ladder) (s : State) : State :=
  match l.rung with
  | 1 => climb l 2 [unitIdx l.unit] s
  | 2 => climb l 3 (List.range 41) s
  | 3 => rungFour l s
  | _ => rungFive l s

/-- RUNG_LIMIT_EXPIRY: a rung is not complete within its limit (R429). -/
def execRungLimitExpiry (ladder : Nat) (s : State) : Result :=
  match s.recovery.ladders.find? (fun l => l.id == ladder) with
  | none => .next s
  | some l => if now s < l.since + rungLimit l.rung then .next s else .next (nextRung l s)

/-- The unit with an index. -/
def unitAt (n : Nat) : UnitId := if n < 32 then .cluster n else .port (n - 32)

/-- RUNG_COMPLETE: units that a rung reset have returned to idle and passed their self-checks; the rung is complete when every one
has (R428). -/
def execRungComplete (ladder : Nat) (back : List Nat) (s : State) : Result :=
  match s.recovery.ladders.find? (fun l => l.id == ladder) with
  | none => .next s
  | some l =>
    let left := l.left.filter (fun u => !back.contains u)
    let s1 := if left.isEmpty then dropLadder ladder s else putLadder { l with left := left } s
    if l.rung = 1 then .next s1
    else .next ((l.left.filter (fun u => back.contains u && decide (u < 40))).foldl (fun s u => allocate (unitAt u) s) s1)

/-! ### Core restarts -/

/-- SCHED_WATCHDOG: the watchdog restarts a scheduler core that has given no sign of progress for 31,250 ticks (R435). -/
def execSchedWatchdog (core : Nat) (s : State) : Result :=
  if 4 ≤ core then .fault .noSuchPlace
  else if now s < Sparse.get 0 s.recovery.schedSeen core + 31250 then .next s
  else if (s.recovery.schedDown ||| s.recovery.schedRestarting).getLsbD core then .next s
  else .next (mapRecovery (fun r => { r with
    schedRestarting := r.schedRestarting ||| (1#4 <<< core), schedRestarts := r.schedRestarts ++ [(core, now s)] }) s)

/-- SCHED_RESTART: a core's restart ends; one that failed, or that has restarted three times within an hour, stays down (R435). -/
def execSchedRestart (core : Nat) (ok : Bool) (s : State) : Result :=
  if 4 ≤ core then .fault .noSuchPlace
  else if !s.recovery.schedRestarting.getLsbD core then .next s
  else
    let n := (s.recovery.schedRestarts.filter (fun e => e.1 == core && decide (now s < e.2 + hourTicks))).length
    let down := !ok || decide (3 ≤ n)
    .next (writeRecord (plainRecord 0x905 0 0) (mapRecovery (fun r => { r with
      schedRestarting := r.schedRestarting &&& ~~~(1#4 <<< core)
      schedSeen := Sparse.put r.schedSeen core (now s)
      schedDown := if down then r.schedDown ||| (1#4 <<< core) else r.schedDown }) s))

/-- LOCKSTEP_MISMATCH: the management pair restarts; no command in progress receives a reply, a commit that it has not decided ends, and
one that has its go waits (R25, R436, log 44). -/
def execLockstepMismatch (s : State) : Result :=
  if s.recovery.restartSince.isSome then .next s
  else
    let s1 := mapRecovery (fun r => { r with restartSince := some (now s) }) { s with mgr := { s.mgr with accepted := [] } }
    match s.cfg.commit with
    | some k => if s.boot.isLead && k.go.isNone then .next (abortCommit k stTimedOut s1) else .next (holdCommit s1)
    | none => .next s1

/-- LOCKSTEP_RESTART: service resumes; a running lease lasts longer by the restart (R436, R437). -/
def execLockstepRestart (s : State) : Result :=
  match s.recovery.restartSince with
  | none => .next s
  | some t =>
    let s1 := mapRecovery (fun r => { r with restartSince := none }) s
    let s2 := if s.mgr.holder.isSome then { s1 with mgr := { s1.mgr with expiry := s1.mgr.expiry + (now s - t) } } else s1
    .next (raiseSource 0 (writeRecord (plainRecord 0x906 0 0) s2))

/-- FAULT_RECORD_ARRIVE: a member's record reaches the lead's ring, or is counted as dropped (R424, R426). -/
def execFaultRecordArrive (rec' : FaultRecord) (s : State) : Result :=
  if s.boot.isLead then .next (enterRing rec' s) else .next s

/-! ### Ski patrol -/

/-- The same-numbered array of the next cluster in ascending order that is not retired (R440). -/
def nextArray (s : State) (a : Nat) : Nat :=
  (((List.range 31).map (fun i => (a + 4 * (i + 1)) % 128)).find? (fun b =>
    !s.recovery.retiredClusters.getLsbD (b / 4) && !s.recovery.retiredArrays.getLsbD b)).getD a

def captureArray (c : Capture) : Nat := arrayIx c.unit c.eng

/-- The array's queue head holds no instruction (R441). -/
def headEmpty (s : State) (u : UnitId) (eng : Nat) : Bool :=
  ((currentUnit s u).map (fun x => !x.insns.any (fun e => e.eng == eng))).getD true

/-- Charge one array; a second charge within an hour retires it at the next boundary (R444). -/
def chargeArray (s : State) (a : Nat) : State :=
  let again := s.patrol.charges.any (fun e => e.1 == a && decide (now s < e.2 + hourTicks))
  { s with patrol := { s.patrol with
    charges := s.patrol.charges ++ [(a, now s)]
    toRetire := if again && !s.patrol.toRetire.contains a then s.patrol.toRetire ++ [a] else s.patrol.toRetire } }

/-- R442: which arrays a mismatch charges, 0 the sampled one, 1 the checking one, 2 all three. `second` and `third` are how the
second and third results differ from the first: 0 where they are the same bits. -/
def chargedWho (second third : Word64) : Nat := if third = second then 0 else if third = 0 then 1 else 2

/-- The record of a mismatch, and the charge (R442). -/
def patrolMismatch (c : Capture) (second third : Word64) (s : State) : State :=
  let a := captureArray c
  let b := nextArray s a
  let d := nextArray s b
  let who := chargedWho second third
  let r : FaultRecord := { cause := 0x504, noQueue := true, slice := c.slice, context := contextSlot s c.slice, engine := engineId s c.unit c.eng
                           addr := a + b * 2 ^ 16 + d * 2 ^ 32 + who * 2 ^ 48
                           detail := (crc32 c.operands).toNat * 2 ^ 32 + (Config.dieTemperature s.free).toNat * 2 ^ 16 + (Config.coreMillivolts s.free).toNat }
  (if who = 0 then [a] else if who = 1 then [b] else [a, b, d]).foldl chargeArray (writeRecord r { s with free := s.free + 1 })

/-- PATROL_RUN: a checking array re-runs the oldest segment that waits for it (R441); `second` tells how its ending state differs from
the captured one, and `third` how that of the third array does (R442). -/
def execPatrolRun (unit : UnitId) (eng : Nat) (second third : Word64) (s : State) : Result :=
  if !headEmpty s unit eng then .next s
  else
    match s.patrol.captures.find? (fun c => nextArray s (captureArray c) == arrayIx unit eng) with
    | none => .next s
    | some c =>
      let s1 := { s with patrol := { s.patrol with captures := s.patrol.captures.erase c } }
      if second = 0 then .next s1 else .next (patrolMismatch c second third s1)

/-- PATROL_DISCARD: the oldest captured segment of an array has waited too long (R441). -/
def execPatrolDiscard (unit : UnitId) (eng : Nat) (s : State) : Result :=
  match s.patrol.captures.find? (fun c => decide (c.unit = unit) && c.eng == eng) with
  | none => .next s
  | some c =>
    .next { s with
      patrol := { s.patrol with captures := s.patrol.captures.erase c }
      telemetry := { s.telemetry with patrolDiscards := s.telemetry.patrolDiscards + 1 } }

end Sys2Proof.Machine
end

