-- ==== Sys2Proof/Machine/HostPort.lean ====
section
/-! DEFINITION. The host port's device-memory aperture and its other traffic (R497 to R500, R529, R546). -/

namespace Sys2Proof.Machine

/-- The host port carries traffic: from phase 2 on, and after the election at the lead only (R32, R546). -/
def hostServes (s : State) : Bool := decide (2 ≤ s.boot.phase) && !s.boot.stopped && (!s.boot.elected || s.boot.isLead)

/-- The slice that a requester identity is bound to: an identity has a PASID (R40, R499). -/
def boundSlice (s : State) (id : Requester) : Option Slice :=
  if id.pasid.isNone then none
  else (s.cfg.active.slices.find? (fun c => decide (c.identity = id))).bind (fun c => findSlice s c.id)

/-- The places that an aperture request names: a bound identity's addresses translate through its slice; any other names a block and
a local address, under key slot 0 (R499). -/
def aperturePieces (s : State) (id : Requester) (k : Access) (offset len : Nat) : Option (List Piece) :=
  match boundSlice s id with
  | some sl => match xlatBound s .l2 sl true k offset len with
    | .ok ps => some ps
    | .error _ => none
  | none =>
    let b := bitsOf 54 52 offset
    let a := offset % 2 ^ 52
    if (partBlocks s).contains b && decide (a + len ≤ nodeBytes s) then some [{ va := offset, pa := nodeOf s b * 2 ^ 52 + a, len := len, key := 0 }]
    else none

/-- A request that fails its checks is counted for its slice, or for the manager channel (R499). -/
def countAperture (id : Requester) (s : State) : State :=
  match boundSlice s id with
  | some sl => mapSlice sl.id (fun x => { x with apertureFailures := x.apertureFailures + 1 }) s
  | none => { s with telemetry := { s.telemetry with managerAperture := s.telemetry.managerAperture + 1 } }

/-- Read one piece for the host; the manager's reads of other blocks travel under no slice. -/
def hostRead (sl : Option Slice) (o : Owner) (place : Nat) (p : Piece) (s : State) : State :=
  match sl with
  | some x => nameVa (sentCount s) [p] noRow (readPiece x.id 1 o (.answer place) p s)
  | none =>
    if paNode p.pa = ownNode s then mpRequest (readReqs (paLocal p.pa) p.key p.len o (.answer place)) s
    else (chunks 256 p.len p.pa p.len).foldl (fun s c =>
      postRequest 0 (dataPacket 1 1 (paNode p.pa) c.1 p.key c.2 []) o (.answer (place + (c.1 - p.pa))) s) s

/-- Read the pieces of a request one after another. -/
def hostReads (sl : Option Slice) (o : Owner) : Nat → List Piece → State → State
  | _, [], s => s
  | place, p :: ps, s => hostReads sl o (place + p.len) ps (hostRead sl o place p s)

/-- The pages that a bound slice's request used stand in the L2 (R282). -/
def apertureCache (s : State) (id : Requester) (offset len : Nat) : State :=
  match boundSlice s id with
  | some sl => cachePages .l2 sl offset len s
  | none => s

/-- APERTURE_READ: a host Memory Read of at most 4,096 bytes in the aperture (R497, R499, R500). -/
def execApertureRead (id : Requester) (offset len tag : Nat) (s : State) : Result :=
  if !hostServes s then .next s
  else if !s.boot.ready then .next (emit (.completerAbort id tag) s)
  else
    match aperturePieces s id .read offset len with
    | none => .next (emit (.completerAbort id tag) (countAperture id s))
    | some ps => .next (settleGather (hostReads (boundSlice s id) (.host id (tag + 1)) 0 ps
        (openGather (.host id (tag + 1)) (apertureCache s id offset len))))

/-- Write one piece for the host, mirrored at the twin first (R448). -/
def hostWrite (sl : Option Slice) (o : Owner) (p : Piece) (data : List Byte) (s : State) : State :=
  let s1 := if mirroring s && paNode p.pa == ownNode s then emit (.tether (.hostWrite (paLocal p.pa) p.key data)) s else s
  match sl with
  | some x => nameVa (sentCount s1) [p] noRow (writePiece x.id 1 o p.pa p.key data s1)
  | none =>
    if paNode p.pa = ownNode s1 then mpRequest (writeReqs (paLocal p.pa) p.key data o) s1
    else (chunks 256 data.length p.pa data.length).foldl (fun s c =>
      postRequest 0 (dataPacket 1 2 (paNode p.pa) c.1 p.key c.2 ((data.drop (c.1 - p.pa)).take c.2)) o .discard s) s1

def hostWrites (sl : Option Slice) (o : Owner) : List Piece → List Byte → State → State
  | [], _, s => s
  | p :: ps, data, s => hostWrites sl o ps (data.drop p.len) (hostWrite sl o p (data.take p.len) s)

/-- APERTURE_WRITE: a host Memory Write in the aperture (R497, R499, R500); a bound slice's dirty logs record it (R307). -/
def execApertureWrite (id : Requester) (offset : Nat) (data : List Byte) (s : State) : Result :=
  if !hostServes s || !s.boot.ready then .next s
  else
    match aperturePieces s id .write offset data.length with
    | none => .next (countAperture id s)
    | some ps =>
      let s1 := match boundSlice s id with
        | some sl => logWrite (.host id 0) sl .write offset data.length (cachePages .l2 sl offset data.length s)
        | none => s
      .next (hostWrites (boundSlice s id) (.host id 0) ps data s1)

/-- HOST_OTHER_TLP: a TLP that is no Memory Read or Write of a region, or a poisoned write (R497, R498). -/
def execHostOtherTlp (t : OtherTlp) (s : State) : Result :=
  if !hostServes s then .next s
  else
    match t.poisonedWriteBar with
    | some b => .next { s with telemetry := { s.telemetry with
        poisonedWrites := Sparse.put s.telemetry.poisonedWrites b (Sparse.get 0 s.telemetry.poisonedWrites b + 1) } }
    | none => if t.needsCompletion then .next (emit (.unsupported t.requester) s) else .next s

/-- The owner waits for the host. -/
def isHostRead : Owner → Bool
  | .host _ t => t != 0
  | _ => false

/-- HOST_LINK_DOWN: `HP_LINK_UP` falls: completions that are pending are discarded (R529). -/
def execHostLinkDown (s : State) : Result :=
  let s1 := dropOwned isHostRead .none s
  .next { s1 with mp := { s1.mp with gather := s1.mp.gather.filter (fun g => !isHostRead g.owner) } }

end Sys2Proof.Machine
end

