-- ==== Sys2Proof/Machine/EnginePorts.lean ====
section
/-! DEFINITION. What a licensee's engine asks for at its port: the end of a call, DMA requests, signals and waits (R509 to R514,
R516). -/

namespace Sys2Proof.Machine

/-- A call that is outstanding and not done (R510). -/
def openCall (s : State) (port call : Nat) : Option Call := (enginePort s port).calls.find? (fun k => k.id == call && !k.done)

/-- The port has an engine (R516). -/
def portHere (s : State) (port : Nat) : Bool := s.boot.epPresent.getLsbD port

/-- An event that R510 refuses is counted in the port's telemetry. -/
def countPort (port : Nat) (s : State) : State :=
  { s with telemetry := { s.telemetry with enginePort := Sparse.put s.telemetry.enginePort port (Sparse.get 0 s.telemetry.enginePort port + 1) } }

/-- ENGINE_CALL_DONE: the engine has finished a call, which ends once its writes are acknowledged (R232, R509, R529). -/
def execEngineCallDone (port call : Nat) (s : State) : Result :=
  if 8 ≤ port then .fault .noSuchPlace
  else if !portHere s port then .next s
  else
    let ep := enginePort s port
    .next (settleCommands (settlePort port (setEnginePort port { ep with
      calls := ep.calls.map (fun k => if k.id = call then { k with done := true } else k) } s)))

/-- A port of the part with room for another request, one per tag (R512). -/
def dmaRoom (ep : EnginePort) (tag : Nat) : Bool := decide (ep.dma.length < 512) && !ep.dma.any (fun d => d.1 == tag)

/-- An accepted request's pieces go to memory. -/
def startDma (port : Nat) (sl : Slice) (r : EngineDma) (ps : List Piece) (s : State) : State :=
  let o : Owner := .engine port r.call r.tag
  let ep := enginePort s port
  let s1 := openGather o (setEnginePort port { ep with dma := ep.dma ++ [(r.tag, r.call, r.write)] }
    (cachePages (.buffer (.port port) 0) sl r.va r.len s))
  let s2 := if r.write then writePieces sl.id 1 o ps (r.data.take r.len) (logWrite o sl .write r.va r.len s1)
    else (ps.foldl (fun (a : State × Nat) p => (readPiece sl.id 1 o (.answer a.2) p a.1, a.2 + p.len)) (s1, 0)).1
  settleGather (nameVa (sentCount s) ps noRow s2)

/-- The access kind of a DMA request. -/
def dmaAccess (r : EngineDma) : Access := if r.write then .write else .read

/-- A DMA request of an open call: it is translated and its rights are checked; one that fails is answered with status 2, and the
queue stops (R511). -/
def takeDma (port : Nat) (k : Call) (r : EngineDma) (s : State) : State :=
  match findSlice s k.slice with
  | none => s
  | some sl =>
    match xlatBound s (.buffer (.port port) 0) sl true (dmaAccess r) r.va r.len with
    | .ok ps => startDma port sl r ps s
    | .error st =>
      let f := match st with
        | .fault c va seg noseg => (c, va, detailWord sl.gen (dmaAccess r).code noseg seg noRow)
        | .miss _ _ va => (0x101, va, 0)
        | .unreadable pa => (0x502, pa, 0)
      settleCommands (portFault port r.call f.1 f.2.1 f.2.2 (emit (.dmaResponse port r.tag 2 []) s))

/-- ENGINE_DMA_REQUEST: refused with status 3 when its call is not open or it crosses a 256-byte boundary (R510, R511); it waits at
the port while there is no room (R512). -/
def execEngineDmaRequest (port : Nat) (r : EngineDma) (s : State) : Result :=
  if 8 ≤ port then .fault .noSuchPlace
  else if !portHere s port then .next s
  else
    match openCall s port r.call with
    | none => .next (emit (.dmaResponse port r.tag 3 []) (countPort port s))
    | some k =>
      if r.len = 0 ∨ 256 < r.va % 256 + r.len then .next (emit (.dmaResponse port r.tag 3 []) s)
      else if !dmaRoom (enginePort s port) r.tag then .next s
      else .next (takeDma port k r s)

/-- ENGINE_SIGNAL: applied to the call's context once the call's earlier writes are acknowledged (R510, R513). -/
def execEngineSignal (port call tally amount : Nat) (s : State) : Result :=
  if 8 ≤ port then .fault .noSuchPlace
  else if !portHere s port then .next s
  else
    match (if amount = 0 then none else openCall s port call) with
    | none => .next (countPort port s)
    | some k =>
      let ep := enginePort s port
      let h : HeldEngineSignal := { call := call, slice := k.slice, tally := tally, amount := amount, writes := callWrites ep call }
      .next (settlePort port (setEnginePort port { ep with signals := ep.signals ++ [h] } s))

/-- ENGINE_WAIT: a wait takes its slot, in place of any older one, and ends at once when its tally has come already (R510, R514). -/
def execEngineWait (port slot call tally threshold : Nat) (s : State) : Result :=
  if 8 ≤ port then .fault .noSuchPlace
  else if !portHere s port then .next s
  else
    match openCall s port call with
    | none => .next (countPort port s)
    | some k =>
      let ep := enginePort s port
      let w : EngineWait := { slot := slot % 4, call := call, slice := k.slice, tally := tally, threshold := threshold }
      .next (wakeEngineWaits (.port port) (setEnginePort port { ep with waits := ep.waits.filter (fun x => x.slot != w.slot) ++ [w] } s))

end Sys2Proof.Machine
end

