-- ==== Sys2Proof/Machine/Security.lean ====
section
/-! DEFINITION. The security unit (spec/14): attestation (R478, R479), key sessions and weight keys (R470, R471, R480), loading of
weights (R481, R482), fuses (R474, R525) and debug (R486, R487). -/

namespace Sys2Proof.Machine

def mapKeys (f : Keys → Keys) (s : State) : State := { s with keys := f s.keys }

/-- The slice is in its resurfacing chair (R479). -/
def beingResurfaced (s : State) (slice : Nat) : Bool :=
  ((findSlice s slice).bind Slice.resurf).any (fun r => decide (r.chair ≤ chairOf s))

/-! ### ATTEST (R478, R479) -/

def doAttest (c : CmdReq) (s : State) : State :=
  let named := fieldSlice c.sliceField
  let report := Config.attestReport s.free (c.params.take 32) named.isSome
  if (named.map (beingResurfaced s)).getD false then failCmd c stDenied s
  else if !bufferOk s (par c 32 8) (par c 40 4) then failCmd c stBadParam s
  else if par c 40 4 < report.length then finish c stBadParam report.length [] s
  else finishOk c 0 (leBytes report.length 4) (bufferWrite (par c 32 8) report { s with free := s.free + 1 })

/-- ATTEST: a signed measurement report (R478). Its bytes are free (log 11). -/
def execAttest (seq : Word32) (s : State) : Result := cmdStep 0x0601 seq doAttest s

/-! ### OPEN_KEY_SESSION (R471, R480) -/

/-- A session of purpose 1 gives a port group its session keys; a trained group then carries traffic (R470, R471). -/
def relayLink (g : Nat) (s : State) : State :=
  linkKey g (mapGroup g (fun x => { x with enc := true, tagBlocks := 0, up := x.up || x.lanes != 0 }) s)

/-- A session opens: its response goes into the message's buffer. -/
def openSession (c : CmdReq) (purpose : Nat) (bytes : List Byte) (s : State) : State :=
  let id := s.keys.nextSession
  let s1 := mapKeys (fun k => { k with
    sessions := k.sessions ++ [{ id := id, purpose := purpose, slice := cmdSlice c, isOpen := true }], nextSession := id + 1 })
    (bufferWrite (par c 8 8) bytes { s with free := s.free + 1 })
  finishOk c 0 (leBytes id 4) s1

def doOpenSession (c : CmdReq) (s : State) : State :=
  let purpose := par c 0 1
  if 2 ≤ purpose ∨ !bufferOk s (par c 8 8) Config.spdmLength then failCmd c stBadParam s
  else if purpose = 0 ∧ beingResurfaced s (cmdSlice c) then failCmd c stDenied s
  else
    match bufferRead s (par c 8 8) Config.spdmLength with
    | none => bufferBad c (par c 8 8) s
    | some msg =>
      let g := (msg.headD 0).toNat
      if purpose = 1 ∧ 8 ≤ g then failCmd c stBadParam s
      else if purpose = 1 ∧ !s.boot.image.linkEnc then failCmd c stDenied s
      else
        match Config.spdmResponse s.free msg with
        | none => failCmd c stIntegrity { s with free := s.free + 1 }
        | some r => openSession c purpose r (if purpose = 1 then relayLink g s else s)

/-- OPEN_KEY_SESSION: a session for weights, or a link partner's `KEY_EXCHANGE` relayed (R471, R480). -/
def execOpenKeySession (seq : Word32) (s : State) : Result := cmdStep 0x0602 seq doOpenSession s

/-! ### RELEASE_KEY (R480) -/

/-- The lowest of the 64 weight-key slots that is free. -/
def freeWeightSlot (s : State) : Option Nat := (List.range 64).find? (fun i => !s.keys.weight.any (fun w => w.1 == i))

def sessionOpen (s : State) (id slice : Nat) : Bool :=
  s.keys.sessions.any (fun k => k.id == id && k.purpose == 0 && k.slice == slice && k.isOpen)

def doReleaseKey (c : CmdReq) (s : State) : State :=
  let slice := cmdSlice c
  let id := par c 0 4
  if !bufferOk s (par c 8 8) (par c 16 4) then failCmd c stBadParam s
  else
    match (if !sessionOpen s id slice || s.boot.dbgUnlocked then none else freeWeightSlot s) with
    | none => failCmd c stDenied s
    | some k =>
      match bufferRead s (par c 8 8) (par c 16 4) with
      | none => bufferBad c (par c 8 8) s
      | some wrapped =>
        match Config.unwrapKey id wrapped with
        | none => failCmd c stIntegrity (writeRecord (plainRecord 0x802 0 0) s)
        | some (tag, hashOk) =>
          if tag ≠ sliceTag s slice ∨ !hashOk then failCmd c stDenied s
          else finishOk c 0 (leBytes k 4) (mapKeys (fun x => { x with
            weight := x.weight ++ [(k, slice, x.released)], released := x.released + 1 }) s)

/-- RELEASE_KEY: a wrapped weight key is unwrapped into a key slot (R480). -/
def execReleaseKey (seq : Word32) (s : State) : Result := cmdStep 0x0603 seq doReleaseKey s

/-! ### LOAD_WEIGHTS (R481, R482) -/

/-- How a load ends: done, a tag that fails, or a source that cannot be read; with the bytes loaded. -/
inductive LoadEnd where
  | done (bytes : Nat)
  | badTag (bytes : Nat)
  | badRead (pa bytes : Nat)
  deriving DecidableEq, Repr

/-- Load chunk after chunk of 64 KiB, each with a 16-byte tag: a chunk is checked before it is written (R481, R482). -/
def loadChunks (o : Owner) (sl : Slice) (key : Nat) : Nat → Nat → Nat → Nat → Nat → State → State × LoadEnd
  | 0, _, _, _, done, s => (s, .done done)
  | n + 1, src, dst, left, done, s =>
    let m := min left 65536
    match bufferRead s src (m + 16) with
    | none => (s, .badRead src done)
    | some chunk =>
      match Config.openChunk key dst (sliceTag s sl.id) chunk with
      | none => (s, .badTag done)
      | some plain =>
        match xlatBound s .l2 sl true .write dst m with
        | .error _ => (s, .badTag done)
        | .ok ps =>
          loadChunks o sl key n (src + m + 16) (dst + m) (left - m) (done + m)
            (writePieces sl.id 1 .none ps (plain.take m) (logWrite o sl .write dst m (cachePages .l2 sl dst m s)))

/-- The destination lies in one segment of the slice with `WR`, and its pages translate (R481, log 45). -/
def destOk (s : State) (sl : Slice) (dst len : Nat) : Bool :=
  match xlatBound s .l2 sl true .write dst len with
  | .ok _ => true
  | .error _ => false

def doLoadWeights (c : CmdReq) (s : State) : State :=
  let src := par c 8 8
  let dst := par c 16 8
  let len := par c 24 8
  let n := (len + 65535) / 65536
  match findSlice s (cmdSlice c), s.keys.weight.find? (fun w => w.1 == par c 0 4 && w.2.1 == cmdSlice c) with
  | some sl, some w =>
    if !bufferOk s src (len + 16 * n) || !destOk s sl dst len then failCmd c stBadParam s
    else
      match loadChunks .none sl w.2.2 n src dst len 0 s with
      | (s1, .done b) => finishOk c 0 (leBytes b 8) s1
      | (s1, .badTag b) => finish c stIntegrity 0 (leBytes b 8) s1
      | (s1, .badRead pa b) => finish c stIntegrity 0 (leBytes b 8) (writeRecord (plainRecord 0x502 pa 0) s1)
  | _, _ => failCmd c stBadParam s

/-- LOAD_WEIGHTS: encrypted weights are checked, decrypted and written into slice memory (R481, R482). -/
def execLoadWeights (seq : Word32) (s : State) : Result := cmdStep 0x0604 seq doLoadWeights s

/-! ### Fuses (R474, R525) -/

/-- The blown bits of the anti-rollback field (R473). -/
def rollbackCount (s : State) : Nat := ((List.range 64).filter (fun i => s.boot.antiRollback.getLsbD i)).length

/-- Blow counter bits up to the running image's security version, one bit per `FUSE_PGM` (R474, R525). -/
def blowFuses (s : State) : State :=
  let want := ((List.range 64).filter (fun i => !s.boot.antiRollback.getLsbD i)).take (s.fw.security.toNat - rollbackCount s)
  match want with
  | [] => s
  | b :: _ => emit (.fuseProgram b) { s with boot := { s.boot with fuseWanted := want } }

/-- FUSE_PGM_DONE: the fuse macro has programmed a bit; the next follows (R525). -/
def execFusePgmDone (bit : Nat) (s : State) : Result :=
  match s.boot.fuseWanted with
  | [] => .next s
  | b :: bs =>
    if bit ≠ b then .next s
    else
      let s1 := { s with boot := { s.boot with antiRollback := s.boot.antiRollback ||| (1#64 <<< b), fuseWanted := bs } }
      match bs with
      | [] => .next s1
      | d :: _ => .next (emit (.fuseProgram d) s1)

/-! ### Debug (R486, R487) -/

/-- Every memory-key slot takes a fresh key (R464, R487). -/
def rekeyAll (s : State) : State := mapKeys (fun k => { k with trng := k.trng + 1, base := k.trng + 1, slots := [] }) s

/-- The keys that a twin shares are sent again (R465). -/
def resendKeys (s : State) : State :=
  if keysMirrored s then
    emitAll (((s.keys.bound.filter (fun e => (findContext s e.2).isSome)).map Prod.fst).map (fun k => Output.tether (.key k (keyNumber s k)))) s
  else s

/-- DEBUG_UNLOCK: a challenge signed by the debug key opens the ports, replaces every memory key and destroys every weight key; any
other opens nothing (R486, R487). -/
def execDebugUnlock (signed : Bool) (s : State) : Result :=
  if !signed then .next s
  else .next (resendKeys (mapKeys (fun k => { k with weight := [] })
    (rekeyAll { s with boot := { s.boot with dbgUnlocked := true, dbgEver := true } })))

/-- DEBUG_DENIED: a debug access while locked is refused and recorded (R487). -/
def execDebugDenied (s : State) : Result :=
  if s.boot.dbgUnlocked then .next s else .next (writeRecord (plainRecord 0x801 0 0) s)

end Sys2Proof.Machine
end

