-- ==== Sys2Proof/Machine/Firmware.lean ====
section
/-! DEFINITION. Firmware slots, update and hand-off (R473 to R477, R533 to R535). -/

namespace Sys2Proof.Machine

def mapFw (f : Firmware → Firmware) (s : State) : State := { s with fw := f s.fw }

/-- Slot 0 is A and 1 is B. -/
def fwSlot (s : State) (n : Nat) : FlashSlot := if n = 0 then s.fw.slotA else s.fw.slotB
def setFwSlot (n : Nat) (x : FlashSlot) (s : State) : State :=
  mapFw (fun f => if n = 0 then { f with slotA := x } else { f with slotB := x }) s
def inactiveSlot (s : State) : Nat := 1 - s.boot.slot

/-- Programming flash turns bits from 1 to 0 (R533). -/
def programByte (a : Nat) (b : Byte) (x : FlashSlot) : FlashSlot :=
  if a = 8 then { x with conf := x.conf &&& b }
  else if a = 9 then { x with retired := x.retired &&& b }
  else if 10 ≤ a ∧ a < 14 then { x with actCount := x.actCount &&& ~~~((~~~b).setWidth 32 <<< (8 * (a - 10))) }
  else { x with bytes := Sparse.set 0xFF x.bytes a (Sparse.get 0xFF x.bytes a &&& b) }

def programBytes : Nat → List Byte → FlashSlot → FlashSlot
  | _, [], x => x
  | a, b :: bs, x => programBytes (a + 1) bs (programByte a b x)

/-- An image that the checks of R473 accept. -/
def imageOk (s : State) (x : FlashSlot) : Bool :=
  Config.imageVerifies x.bytes && decide (rollbackCount s ≤ (Config.imageSecurity x.bytes).toNat)

/-- A slot is marked empty: `RETIRED` set while `CONF` stays (R535). -/
def markEmpty (x : FlashSlot) : FlashSlot := { x with retired := 0 }

/-! ### FW_UPDATE_BEGIN and FW_UPDATE_STAGE -/

/-- The inactive slot is erased and opened for an image of a length (R535). -/
def beginUpdate (len : Nat) (s : State) : State :=
  setFwSlot (inactiveSlot s) {} (mapFw (fun f => { f with opened := some len, staged := [], verified := false }) s)

def doFwBegin (c : CmdReq) (s : State) : State :=
  if 2 ^ 24 < par c 0 4 then failCmd c stBadParam s
  else if s.fw.opened.isSome || s.fw.handoff.isSome then failCmd c stBusy s
  else finishOk c 0 (leBytes (inactiveSlot s) 4) (passOn (otherBlocks s) c (beginUpdate (par c 0 4) s))

/-- FW_UPDATE_BEGIN: opens and erases the inactive slot, and names it (R535). -/
def execFwUpdateBegin (seq : Word32) (s : State) : Result := cmdStep 0x0802 seq doFwBegin s

/-- Join a range (first byte, end) to the ranges staged so far, which are apart and in order. -/
def joinRange (a b : Nat) : List (Nat × Nat) → List (Nat × Nat)
  | [] => [(a, b)]
  | (x, y) :: rs =>
    if b < x then (a, b) :: (x, y) :: rs
    else if y < a then (x, y) :: joinRange a b rs
    else joinRange (min a x) (max b y) rs

def stagedBytes (rs : List (Nat × Nat)) : Nat := (rs.map (fun r => r.2 - r.1)).sum

/-- Every byte of the image is staged: the checks of R473, and the slot marked empty when they fail. -/
def verifyStaged (s : State) : State :=
  let x := fwSlot s (inactiveSlot s)
  if imageOk s x then mapFw (fun f => { f with verified := true, newRevision := Config.imageRevision x.bytes }) s
  else writeRecord (plainRecord 0x803 0 0) (setFwSlot (inactiveSlot s) (markEmpty x) (mapFw (fun f => { f with opened := none, staged := [] }) s))

/-- A part is written to flash. -/
def stagePart (off : Nat) (bs : List Byte) (s : State) : State :=
  mapFw (fun f => { f with staged := if bs.isEmpty then f.staged else joinRange off (off + bs.length) f.staged })
    (setFwSlot (inactiveSlot s) (programBytes off bs (fwSlot s (inactiveSlot s))) s)

def doFwStage (c : CmdReq) (s : State) : State :=
  let off := par c 0 4
  let len := par c 16 4
  match s.fw.opened with
  | none => failCmd c stBadParam s
  | some total =>
    if s.fw.verified ∨ total < off + len ∨ !bufferOk s (par c 8 8) len then failCmd c stBadParam s
    else
      match bufferRead s (par c 8 8) len with
      | none => bufferBad c (par c 8 8) s
      | some bs =>
        let s1 := passOn (otherBlocks s) c (stagePart off bs s)
        let n := stagedBytes s1.fw.staged
        if n < total then finishOk c 0 (leBytes n 4) s1
        else
          let s2 := verifyStaged s1
          if s2.fw.verified then finishOk c 0 (leBytes n 4) s2 else failCmd c stIntegrity s2

/-- FW_UPDATE_STAGE: a part of the image goes to flash; when it is whole, it is checked (R473). -/
def execFwUpdateStage (seq : Word32) (s : State) : Result := cmdStep 0x0803 seq doFwStage s

/-! ### Hand-off (R476, R477) -/

def doFwHandoff (c : CmdReq) (s : State) : State :=
  if c.phase ≠ .fresh then s
  else if s.fw.handoff.isSome then failCmd c stBusy s
  else if !s.fw.verified then failCmd c stBadParam s
  else passOn (otherBlocks s) c (setPhase c.seq .waiting (mapFw (fun f => { f with handoff := some (c.seq, none) }) s))

/-- FW_HANDOFF: the hand-off begins in the next relay zone (R476). -/
def execFwHandoff (seq : Word32) (s : State) : Result := cmdStep 0x0804 seq doFwHandoff s

/-- A slot is confirmed: its count, then `CONF`, then the other slot is retired (R535). -/
def confirmSlot (n : Nat) (s : State) : State :=
  let other := fwSlot s (1 - n)
  let count : Word32 := if other.conf = 0 then other.actCount + 1 else 1
  setFwSlot (1 - n) { other with retired := 0 } (setFwSlot n { fwSlot s n with actCount := count, conf := 0 } s)

/-- A hand-off ends: core 3 serves again, source 10 is raised, and the command that asked is answered. -/
def endHandoff (reply : CmdReq → State → State) (s : State) : State :=
  match s.fw.handoff with
  | none => s
  | some (seq, _) =>
    let s1 := raiseSource 10 { s with
      fw := { s.fw with handoff := none }, recovery := { s.recovery with schedDown := s.recovery.schedDown &&& 7#4 } }
    match cmdAt s1 seq 0x0804 with
    | some c => reply c s1
    | none => s1

/-- The new image runs: its slot becomes the active one (R477), and its fuses follow (R474). -/
def activateImage (s : State) : State :=
  let n := inactiveSlot s
  let x := fwSlot s n
  blowFuses (confirmSlot n { s with
    boot := { s.boot with slot := n }
    fw := { s.fw with
      revision := s.fw.newRevision, security := Config.imageSecurity x.bytes, opened := none, staged := [], verified := false } })

/-- FW_HANDOFF_ACK: the new image acknowledges, or gives up on the schema (R477). -/
def execFwHandoffAck (schemaRead : Bool) (s : State) : Result :=
  match s.fw.handoff with
  | some (_, some _) =>
    if schemaRead then .next (endHandoff (fun c s => finishOk c 0 (leBytes s.fw.revision.toNat 4) s) (activateImage s))
    else .next (endHandoff (fun c s => failCmd c stIntegrity s) s)
  | _ => .next s

/-- FW_HANDOFF_TIMEOUT: no acknowledgement within 1,562,500 ticks of the new image's start (R477). -/
def execFwHandoffTimeout (s : State) : Result :=
  match s.fw.handoff with
  | some (_, some start) =>
    if now s < start + 1562500 then .next s else .next (endHandoff (fun c s => failCmd c stTimedOut s) s)
  | _ => .next s

/-! ### A member's part -/

/-- What a member does for a firmware command that the lead passes on; the bytes of a part lie in the lead's memory. -/
def memberFirmware (op : Nat) (ps : List Byte) (s : State) : State :=
  if op = 0x0802 then beginUpdate (byteField ps 0 4) s
  else if op = 0x0803 then
    match s.fw.opened, bufferRead s (byteField ps 8 8) (byteField ps 16 4) with
    | some total, some bs =>
      let s1 := stagePart (byteField ps 0 4) bs s
      if stagedBytes s1.fw.staged < total then s1 else verifyStaged s1
    | _, _ => s
  else if op = 0x0804 then (if s.fw.verified then mapFw (fun f => { f with handoff := some (0, none) }) s else s)
  else s

end Sys2Proof.Machine
end

