-- ==== Sys2Proof/Machine/StartUp.lean ====
section
/-! DEFINITION. Resets (R491, R493, R496), the start-up sequence (R530 to R532), the choice of the image (R533, R534), the election
(R536 to R539), and `READY` (R544, R545). -/

namespace Sys2Proof.Machine

def mapBoot (f : Boot → Boot) (s : State) : State := { s with boot := f s.boot }

/-! ### Resets -/

/-- What a fall of `BLK_RST_N` leaves: the always-on unit (lift counter, locks, wake watcher, retirements, wear history), flash, fuses,
and the levels that the surroundings hold. An update that was not verified leaves its slot marked empty (R529). -/
def blockReset (s : State) : State :=
  let empty := fun (n : Nat) (x : FlashSlot) => if s.fw.opened.isSome && !s.fw.verified && n == inactiveSlot s then markEmpty x else x
  { State.reset with
    pending := s.pending, sent := s.sent, free := s.free
    lift := { s.lift with src := 0, holdover := false, adrift := false, error := 0, slewNs := 0, evict := [], load := [] }
    boot := { State.reset.boot with blkId := s.boot.blkId, hpPresent := s.boot.hpPresent, epPresent := s.boot.epPresent, antiRollback := s.boot.antiRollback }
    pins := { s.pins with blkRst := false }
    keys := { trng := s.keys.trng }
    fab := { lanes := s.fab.lanes.map (fun e => (e.1, { sigdet := e.2.sigdet, cdrLock := e.2.cdrLock })), paths := s.fab.paths }
    recovery := { retiredClusters := s.recovery.retiredClusters, retiredArrays := s.recovery.retiredArrays }
    mbx := (s.mbx.filter (fun e => e.2.lock.isSome)).map (fun e => (e.1, { lock := e.2.lock }))
    icu := { wakeSel := s.icu.wakeSel, latched := s.icu.latched }
    power := { history := s.power.history }
    fw := { slotA := empty 0 s.fw.slotA, slotB := empty 1 s.fw.slotB } }

/-- BLK_RST_N: its fall, or that of a rail's power-good, resets the block; its rise samples the straps and starts phase 1 (R491, R494,
R496). -/
def execBlkRstN (level : Bool) (straps : Straps) (s : State) : Result :=
  if level == s.pins.blkRst then .next s
  else if !level then .next (blockReset s)
  else .next (mapBoot (fun b => { b with
    blkId := straps.blkId % 8, hpPresent := straps.hpPresent, epPresent := straps.epPresent, phase := 1 })
    { s with pins := { s.pins with blkRst := true } })

/-- AO_RST_N: its fall, or that of `VDD_AO_PG`, resets the always-on unit: lift counter, locks, wake watcher, held retirements, wear
history (R496, R531, R564). -/
def execAoRstN (level : Bool) (s : State) : Result :=
  let s1 := { s with pins := { s.pins with aoRst := level } }
  if level || !s.pins.aoRst then .next s1
  else .next { s1 with
    lift := {}
    mbx := s.mbx.filterMap (fun e => let b := { e.2 with lock := none }; if b = {} then none else some (e.1, b))
    icu := { s.icu with wakeSel := [], latched := [] }
    recovery := { s.recovery with retiredClusters := 0, retiredArrays := 0 }
    power := { s.power with history := [] } }

/-! ### The sequence (R530 to R532) -/

/-- The status frame of this block (R536). -/
def ownFrame (s : State) : StatusFrame :=
  { blkId := s.boot.blkId, eligible := s.boot.hpPresent && s.boot.calFail == 0, calFail := s.boot.calFail, configHash := s.boot.image.hash }

/-- Send a frame on each die-to-die port whose partner is present. -/
def reportPorts (f : StatusFrame) (s : State) : State :=
  emitAll (((List.range 3).filter (fun n => s.pins.d2dPresent.getLsbD n)).map (fun n => Output.portStatus n f)) s

/-- R532: the sequence stops with a code, and the ports report it. -/
def stopWith (code : Nat) (s : State) : State :=
  let s1 := mapBoot (fun b => { b with calFail := code, stopped := true, eligible := false }) s
  reportPorts (ownFrame s1) s1

/-- The sequence runs: out of reset, not stopped, not ready. -/
def starting (s : State) : Bool := s.pins.blkRst && !s.boot.stopped && !s.boot.ready

def toPhase (p : Nat) (s : State) : State := mapBoot (fun b => { b with phase := p }) s

/-- Phase 3 retires what failed its tests, and a cluster with more than two retired arrays (R531). -/
def retireTested (r : PhaseReport) (s : State) : State :=
  let arrays := r.arraysFailed.foldl (fun (m : BitVec 128) e => m ||| (1#128 <<< (4 * e.1 + e.2))) s.recovery.retiredArrays
  let bad := fun (c : Nat) => r.clustersFailed.contains c || decide (2 < ((List.range 4).filter (fun i => arrays.getLsbD (4 * c + i))).length)
  let clusters := ((List.range 32).filter bad).foldl (fun (m : BitVec 32) c => m ||| (1#32 <<< c)) s.recovery.retiredClusters
  { s with recovery := { s.recovery with retiredArrays := arrays, retiredClusters := clusters } }

/-! ### Choosing the image (R533, R534) -/

def slotConfirmed (x : FlashSlot) : Bool := x.conf == 0
def slotLive (x : FlashSlot) : Bool := x.retired == 0xFF

/-- Slots of one rank, the higher `ACTCOUNT` first. -/
def byCount (s : State) (f : FlashSlot → Bool) : List Nat :=
  let ns := [0, 1].filter (fun n => f (fwSlot s n))
  if ns = [0, 1] ∧ (fwSlot s 0).actCount < (fwSlot s 1).actCount then [1, 0] else ns

/-- The order in which the slots are tried (R534). -/
def slotOrder (s : State) : List Nat :=
  byCount s (fun x => slotConfirmed x && slotLive x) ++ byCount s (fun x => slotConfirmed x && !slotLive x) ++
  [0, 1].filter (fun n => !slotConfirmed (fwSlot s n) && slotLive (fwSlot s n))

/-- The fields of the configuration block of R522. -/
def readConfig (b : BitVec 512) : ImageConfig :=
  let n := b.toNat
  let byte := fun (i k : Nat) => n / 2 ^ (8 * i) % 2 ^ (8 * k)
  { chan := byte 0 1, linkEnc := bitOf 0 (byte 1 1), laneRate := byte 2 1, memLog2 := byte 3 1, tjLimit := byte 4 2, patrolLog2 := byte 6 2
    epPmax := (List.range 8).map (fun i => byte (8 + 2 * i) 2), hash := Config.configHash b }

/-- The block boots a slot's image. -/
def bootSlot (n : Nat) (fallback : Bool) (s : State) : State :=
  let x := fwSlot s n
  let cfg := readConfig (Config.imageConfig x.bytes)
  mapFw (fun f => { f with revision := Config.imageRevision x.bytes, security := Config.imageSecurity x.bytes })
    (mapBoot (fun b => { b with slot := n, fallback := fallback, image := cfg }) { s with chan := { s.chan with
      kind := cfg.chan % 4, ringBase := if cfg.chan = 0 then Config.ringPlace.toNat * 2 ^ 16 else 0 } })

/-- A slot that fails is retired with count 0, and a record is owed (R473, R534). -/
def failSlot (n : Nat) (s : State) : State :=
  setFwSlot n { fwSlot s n with retired := 0, actCount := 0 } (mapBoot (fun b => { b with rejected := b.rejected + 1 }) s)

/-- Try slots in order; the block boots the first that passes, and has no image when none does. -/
def trySlots (fallback : Bool) : List Nat → State → State
  | [], s => stopWith 0x08 s
  | n :: ns, s => if imageOk s (fwSlot s n) then toPhase 6 (bootSlot n fallback s) else trySlots true ns (failSlot n s)

/-- Firmware start: the block sends its status frame (R536). -/
def startFirmware (s : State) : State :=
  let s1 := trySlots false (slotOrder s) s
  if s1.boot.stopped then s1 else reportPorts (ownFrame s1) s1

/-! ### The end of a phase -/

/-- The passage from a phase whose checks pass (R530). -/
def endPhase (r : PhaseReport) (s : State) : State :=
  match s.boot.phase with
  | 1 => toPhase 2 s
  | 2 => toPhase 3 (mapBoot (fun b => { b with fuseLock := true }) s)
  | 3 =>
    let s1 := retireTested r s
    if s1.recovery.retiredClusters = BitVec.allOnes 32 then stopWith 0x05 s1 else toPhase 4 s1
  | 4 => toPhase 5 (rekeyAll s)
  | 5 => startFirmware s
  | 6 => if s.boot.elected then toPhase 7 s else s
  | 7 => toPhase 8 (mapBoot (fun b => { b with nodeIds := r.nodes.foldl (fun m (e : Nat × Nat) => Sparse.put m e.1 e.2) b.nodeIds }) s)
  | 8 => if s.lift.src = 0 then stopWith 0x10 s else toPhase 9 s
  | _ => s

/-- STARTUP_PHASE_END: a start-up phase ends (R530), or a check of it has failed (R532). -/
def execStartupPhaseEnd (r : PhaseReport) (s : State) : Result :=
  if !starting s then .next s
  else if r.code ≠ 0 then .next (stopWith (r.code % 256) s)
  else .next (endPhase r s)

/-- PHASE_LIMIT: a phase outruns its limit, which ends phase 7 and closes nothing in phase 6, or a check fails (R532, R537, R541). -/
def execPhaseLimit (code : Nat) (s : State) : Result :=
  if !starting s || code == 0 then .next s
  else if code = 0x11 ∧ s.boot.phase = 6 then .next s
  else if code = 0x11 ∧ s.boot.phase = 7 then .next (toPhase 8 s)
  else .next (stopWith (code % 256) s)

/-! ### The election (R536 to R539) -/

/-- STATUS_FRAME: another block's frame arrives, is kept until the close, and goes on to the other ports (R536). -/
def execStatusFrame (f : StatusFrame) (s : State) : Result :=
  if !s.pins.blkRst || s.boot.elected then .next s
  else .next (reportPorts f (mapBoot (fun b => { b with frames := b.frames ++ [f] }) s))

/-- Two blocks report one block ID. -/
def duplicated (fs : List StatusFrame) (id : Nat) : Bool := decide (1 < (fs.filter (fun f => f.blkId == id)).length)

/-- The lead: the eligible block with the lowest block ID among the reports (R537, R538). -/
def electedLead (fs : List StatusFrame) : Option StatusFrame :=
  let ok := fs.filter (fun f => f.eligible && f.calFail == 0 && !duplicated fs f.blkId)
  (List.range 8).findSome? (fun i => ok.find? (fun f => f.blkId == i))

/-- The blocks that are admitted: reported, not failed, alone with their ID, and with the lead's configuration (R537, R538). -/
def admittedMask (fs : List StatusFrame) (lead : StatusFrame) : BitVec 8 :=
  BitVec.ofNat 8 (maskOf ((fs.filter (fun f => f.calFail == 0 && f.configHash == lead.configHash && !duplicated fs f.blkId)).map StatusFrame.blkId))

/-- The election closes with a lead; the records of rejected images are written now that there is a ring (log 47). -/
def closeElection (fs : List StatusFrame) (lead : StatusFrame) (s : State) : State :=
  let s1 := mapBoot (fun b => { b with
    elected := true, leadId := lead.blkId, isLead := lead.blkId == b.blkId, eligible := (ownFrame s).eligible
    admitted := admittedMask fs lead, rejected := 0 }) (setRoutes s)
  (List.range s.boot.rejected).foldl (fun s _ => writeRecord (plainRecord 0x803 0 0) s) s1

/-- ELECTION_CLOSE: every reachable block has reported, or the time is up (R537, R538). -/
def execElectionClose (s : State) : Result :=
  if !starting s || s.boot.phase != 6 || s.boot.elected then .next s
  else
    let fs := ownFrame s :: s.boot.frames
    if duplicated fs s.boot.blkId then .next (stopWith 0x0B s)
    else
      match electedLead fs with
      | none => .next (stopWith 0x0D s)
      | some lead => if lead.configHash ≠ s.boot.image.hash then .next (stopWith 0x0C s) else .next (closeElection fs lead s)

/-- LEAD_LOST: the lead stops answering before `READY` (R539). -/
def execLeadLost (s : State) : Result :=
  if starting s && s.boot.elected && !s.boot.isLead then .next (stopWith 0x0E s) else .next s

/-! ### READY (R474, R535, R544, R545) -/

/-- The state that R545 gives at `READY`. -/
def readyState (s : State) : State :=
  { s with
    boot := { s.boot with ready := true }
    cfg := {}, slices := [], queues := [], contexts := [], units := [], current := []
    mgr := { s.mgr with holder := none, expiry := 0, warned := false }
    icu := { s.icu with gdis := true }
    twin := {} }

/-- READY: an admitted block that has ended phase 8 is ready; its image is confirmed and its fuses follow (R535, R544). -/
def execReady (s : State) : Result :=
  if !starting s || s.boot.phase != 9 || !s.boot.elected then .next s
  else
    let s1 := readyState s
    .next (blowFuses (if slotConfirmed (fwSlot s1 s1.boot.slot) then s1 else confirmSlot s1.boot.slot s1))

end Sys2Proof.Machine
end

