-- ==== Sys2Proof/Machine/Mgmt.lean ====
section
/-! DEFINITION. Part-internal management traffic that reaches a block in `MGMT` packets (R33, R92, R301, R341, R376). The manual gives
it no byte layout; its messages are the model's own (log 1). -/

namespace Sys2Proof.Machine

/-- A member stages the lead's set in this relay zone, brings in the contexts that it pins, and confirms it (R96, R97,
R109). -/
def takeStaged (set : CfgSet) (chair : Nat) (s : State) : State :=
  sendD2d s.boot.leadId (.confirm set.serial.toNat)
    (loadPinned { s with cfg := { s.cfg with commit := some { seq := 0, chair := chair - 1, next := set, confirms := [], go := none } } })

/-- The staged set that a go or an abort names. -/
def commitNamed (s : State) (serial : Nat) : Option Commit :=
  match s.cfg.commit with
  | some k => if k.next.serial.toNat = serial then some k else none
  | none => none

def takeGo (serial : Nat) (s : State) : State :=
  match commitNamed s serial with
  | some k => { s with cfg := { s.cfg with commit := some { k with go := some true } } }
  | none => s

def takeAbortMsg (serial : Nat) (s : State) : State :=
  if (commitNamed s serial).isSome then { s with cfg := { s.cfg with commit := none } } else s

/-- The instance table of a member takes the lead's active set (R33). -/
def takeMirrorSet (set : CfgSet) (s : State) : State := applyRts (swapSlices s { s with cfg := { s.cfg with active := set } })

/-- What a block does with a message of the part's management traffic. Messages to a member act at a member only, and messages to the
lead at the lead only. -/
def takeMgmt (m : MgmtMsg) (s : State) : State :=
  if s.boot.isLead then
    match m with
    | .queueReport r => takeQueueReport r s
    | .blockReport r => takeBlockReport r s
    | .logReady slice segment block => takeLogReady slice segment block s
    | .dispatch slice r => takeDispatch slice r s
    | .runDone slice queue desc node => takeRunDone slice queue desc node s
    | .dropQueue slice queue => stopQueueWork slice queue .none true false s
    | .queueStop slice queue status seq => takeQueueStop slice queue status seq s
    | .dirtyBit pa bit => if paNode pa = ownNode s then setBitHere pa bit s else s
    | _ => s
  else
    match m with
    | .mirrorSet set => takeMirrorSet set s
    | .stageSet set chair => takeStaged set chair s
    | .go serial => takeGo serial s
    | .abort serial => takeAbortMsg serial s
    | .syncPrepare slice gen => prepareSync slice gen s
    | .syncSwitch slice gen tick => mapSync slice (fun y => if y.gen = gen then { y with switchTick := some tick } else y) s
    | .syncAbort slice gen => if ((findSlice s slice).bind Slice.sync).any (fun y => y.gen == gen) then
        mapSlice slice (fun x => { x with sync := none }) s else s
    | .liftCount count => takeLeadCount (BitVec.ofNat 64 count) s
    | .slew tick ns => takeSlew tick ns s
    | .dispatch slice r => takeDispatch slice r s
    | .runDone slice queue desc node => takeRunDone slice queue desc node s
    | .dropQueue slice queue => stopQueueWork slice queue .none true false s
    | .queueStop slice queue status seq => takeQueueStop slice queue status seq s
    | .joinSlice slice gen inForce staged queues logs => takeJoin slice gen inForce staged queues logs s
    | .install slice im => installSlice slice im s
    | .logPrepare slice segment => takeLogPrepare slice segment s
    | .logSwitch slice segment stop tick => takeLogSwitch slice segment stop tick s
    | .command op slice ps tick => memberFirmware op ps (memberCommand op slice ps tick s)
    | .dirtyBit pa bit => if paNode pa = ownNode s then setBitHere pa bit s else s
    | .powerGrant levels => takeGrant levels s
    | _ => s

/-- Whether the packet comes from another block of the part. -/
def fromPart (s : State) (p : Packet) : Bool := (otherBlocks s).any (fun b => nodeOf s b == p.snode)

/-- MGMT: a packet of part-internal management traffic arrives (R341); one from outside the part has no effect, and one whose payload cannot be
corrected is not applied (R316). -/
def execMgmt (p : Packet) (m : MgmtMsg) (s : State) : Result :=
  acceptType 0x0A p (checkedPayload p (fun s => respond p 0 0 [] (if fromPart s p then takeMgmt m s else s))) s

end Sys2Proof.Machine
end

