-- ==== Sys2Proof/Machine/Special.lean ====
section
/-! DEFINITION. The special functions of the vector unit (spec/04 R160): what the correctly rounded FP32 result is, and the results
within 2 ulp of it, among which the block's fixed function of the input bits chooses (log 9). Values in the making are integers that
count 2^-256. -/

namespace Sys2Proof.Machine

/-- 1 in the numbers below. -/
def spOne : Nat := 2 ^ 256

/-- Twice the inverse hyperbolic tangent of `z`, by its series. -/
def spAtanh2 (z : Nat) : Nat :=
  2 * ((List.range 90).foldl (fun (a : Nat × Nat) j => (a.1 * z / spOne * z / spOne, a.2 + a.1 / (2 * j + 1))) (z, 0)).2

/-- The natural logarithm of 2. -/
def spLn2 : Nat := spAtanh2 (spOne / 3)

/-- The exponential of `m` × 2^`e`, for a magnitude below 256; beyond it a number that rounds as the exponential does. -/
def spExp (m : Int) (e : Int) : Dy :=
  if pow2 (8 - e) ≤ m.natAbs * pow2 (e - 8) then { m := 1, e := if m < 0 then -400 else 400 } else
    let x := m * pow2 (e + 256)
    let n := Int.fdiv x spLn2
    let r := (x - n * spLn2).toNat
    let series := (List.range 64).foldl (fun (a : Nat × Nat) k => (a.1 * r / spOne / (k + 1), a.2 + a.1)) (spOne, 0)
    { m := series.2, e := n - 256 }

/-- The natural logarithm of `m` × 2^`e`, `m` not 0. -/
def spLog (m : Nat) (e : Int) : Dy :=
  let top := Nat.log2 m
  let f := m * spOne / 2 ^ top
  { m := ((top : Int) + e) * (spLn2 : Int) + (spAtanh2 ((f - spOne) * spOne / (f + spOne)) : Int), e := -256 }

/-- The reciprocal square root of `m` × 2^`e`, `m` not 0. -/
def spRsqrt (m : Nat) (e : Int) : Dy :=
  let even := Int.emod e 2 = 0
  let m' := if even then m else 2 * m
  let e' := if even then e else e - 1
  { m := (Nat.sqrt (spOne * spOne / m') : Nat), e := -256 - e' / 2 }

/-- The logistic sigmoid of `m` × 2^`e`: the reciprocal of 1 + exp(-x) from 0 up, exp(x) over 1 + exp(x) below. -/
def spSigmoid (m : Int) (e : Int) : Dy :=
  let d := spExp (-(m.natAbs : Int)) e
  let below := 2 ^ 512 + d.m.toNat * pow2 (d.e + 512)
  if m < 0 then { m := (d.m.toNat * 2 ^ 512 * spOne / below : Nat), e := d.e - 256 }
  else { m := (2 ^ 512 * spOne / below : Nat), e := -256 }

/-- The exact magnitude that FP32 bits stand for, in units of 2^-149; infinity stands one step beyond the largest finite number. -/
def spUnits (w : Word32) : Int :=
  let n := w.toNat % 2 ^ 31
  let exp := n / 2 ^ 23
  let mag : Nat := if exp = 0 then n else (2 ^ 23 + n % 2 ^ 23) * 2 ^ (exp - 1)
  if w.toNat < 2 ^ 31 then (mag : Int) else -(mag : Int)

/-- One ulp of FP32 bits, in units of 2^-149. -/
def spUlp (w : Word32) : Nat := 2 ^ (min (w.toNat % 2 ^ 31 / 2 ^ 23) 254 - 1)

/-- R160: `w` is no NaN and lies within 2 ulp of the correctly rounded result for `d`; a result that is not exactly zero is not -0
(R580: exp, rsqrt and sigmoid round to zero from above). -/
def withinTwoUlp (d : Dy) (w : Word32) : Bool :=
  let ref := fp32OfEV (.fin d)
  !isNan32 w && (w != 0x80000000 || d.m == 0) && decide ((spUnits w - spUnits ref).natAbs ≤ 2 * spUlp ref)

/-- The block's result: its fixed function's, which R160 keeps within 2 ulp of the correctly rounded one. -/
def boundedTo (d : Dy) (w : Word32) : Word32 := if withinTwoUlp d w then w else fp32OfEV (.fin d)

/-- R160 on finite inputs for which the function has a value; for the others the manual states no result (log 9). -/
def specialFn (f : Nat) (a : Word32) : Word32 :=
  match f, fp32 a with
  | 0x10, .fin n m e => boundedTo (spExp (if n then -(m : Int) else m) e) (Config.sfExp a)
  | 0x10, _ => Config.sfExp a
  | 0x11, .fin false m e => if m = 0 then Config.sfLog a else boundedTo (spLog m e) (Config.sfLog a)
  | 0x11, _ => Config.sfLog a
  | 0x12, .fin false m e => if m = 0 then Config.sfRsqrt a else boundedTo (spRsqrt m e) (Config.sfRsqrt a)
  | 0x12, _ => Config.sfRsqrt a
  | _, .fin n m e => boundedTo (spSigmoid (if n then -(m : Int) else m) e) (Config.sfSigmoid a)
  | _, _ => Config.sfSigmoid a

/-- What `specialFn` gives where the function has a value: a word within the bound, or the correctly rounded one. -/
theorem boundedTo_cases (d : Dy) (w : Word32) :
    (boundedTo d w = w ∧ withinTwoUlp d w = true) ∨ boundedTo d w = fp32OfEV (.fin d) := by
  unfold boundedTo
  split
  · exact .inl ⟨rfl, by assumption⟩
  · exact .inr rfl

end Sys2Proof.Machine
end

