-- ==== Sys2Proof/Machine/Vpu.lean ====
section
/-! DEFINITION. The vector unit (spec/04 "Vector unit", spec/05 "The vector unit and format conversion"): `VOP` (R160,
R190 to R193, R224) and `VRED` (R161, R589), with the checks of R586. -/

namespace Sys2Proof.Machine

/-! ### Items -/

/-- The elements of one item. -/
def itemElems (s : State) (x : UnitCtx) (fmt addr len : Nat) : List Nat :=
  unpack ((fmtBits fmt).getD 0) (elemCount fmt len) (sramRead s x.slice x.unit addr len)

/-- FP32 elements of one item. -/
def itemFp (s : State) (x : UnitCtx) (addr len : Nat) : List Word32 := (itemElems s x 8 addr len).map (BitVec.ofNat 32)

def fpBytes (ws : List Word32) : List Byte := (ws.map (fun w => leBytes w.toNat 4)).flatten

/-! ### Element-wise operations (R224) -/

/-- What a `VSUB` takes: one source, two, three, a constant, or one constant for each row. -/
inductive VKind where
  | unary
  | binary
  | ternary
  | const
  | perRow
  deriving DecidableEq

def vKind (v : Nat) : VKind :=
  if v = 3 then .ternary else if v ≤ 2 ∨ v = 4 ∨ v = 5 then .binary else if v = 6 then .const
  else if v = 0x22 ∨ v = 0x23 then .perRow else .unary

/-- The operation on one element; `b` is the second source or the constant, `c` the addend. -/
def vApply (v : Nat) (a b c : Word32) : Word32 :=
  match v with
  | 0x00 => fAdd a b
  | 0x01 => fSub a b
  | 0x02 => fMul a b
  | 0x03 => fFma a b c
  | 0x04 => fMax a b
  | 0x05 => fMin a b
  | 0x06 => fMul a b
  | 0x07 => fAbs a
  | 0x10 | 0x11 | 0x12 | 0x13 => specialFn v a
  | 0x22 => fSub a b
  | _ => fMul a b

/-- Zip three lists of one length. -/
def vZip (v : Nat) : List Word32 → List Word32 → List Word32 → List Word32
  | a :: as, b :: bs, c :: cs => vApply v a b c :: vZip v as bs cs
  | _, _, _ => []

/-- The tiles besides t`D` and t`S1` that an operation reads. -/
def vOthers (e : EngInsn) (v : Nat) : List TileReg :=
  match vKind v with
  | .binary => [s2T e]
  | .ternary => [s2T e, e.tS3]
  | _ => []

/-- Every item of a tile, walked in the shape of t`S1` (R585), lies in the partition. -/
def walkFits (s : State) (x : UnitCtx) (shape t : TileReg) (len : Nat) : Bool :=
  (itemAddrs shape t).all (fun a => sramFits s x.slice x.unit a len)

/-- The FP32 result of item `i` of a walk. -/
def vopItem (s : State) (x : UnitCtx) (e : EngInsn) (v len i : Nat) : List Word32 :=
  let src := fun (t : TileReg) => itemFp s x ((itemAddrs (s1T e) t).getD i 0) len
  let a := src (s1T e)
  let const := fun (w : Word32) => a.map (fun _ => w)
  match vKind v with
  | .unary => vZip v a a a
  | .binary => vZip v a (src (s2T e)) a
  | .ternary => vZip v a (src (s2T e)) (src e.tS3)
  | .const => vZip v a (const (e.sX.truncate 32)) a
  | .perRow => vZip v a (const (BitVec.ofNat 32 (leNat (sramRead s x.slice x.unit (e.sX.toNat + 4 * i) 4)))) a

def doElementwise (x : UnitCtx) (e : EngInsn) (v : Nat) (s : State) : State :=
  let t := s1T e
  let len := tLen0 t
  let addrs := itemAddrs t (dT e)
  if (t :: dT e :: vOthers e v).any (fun y => tFmt y != 8) then insnFault x e 0x30B 0 0 s
  else if len % 4 ≠ 0 then insnFault x e 0x30C 0 0 s
  else if !statusOk s x e then insnFault x e 0x307 0 0 s
  else if tEmpty t then actWhole x e [] 0 s
  else if !(t :: dT e :: vOthers e v).all (fun y => walkFits s x t y len) ||
      (vKind v == .perRow && !sramFits s x.slice x.unit e.sX.toNat (4 * addrs.length)) then insnFault x e 0x307 0 0 s
  else readSram x e (((t :: vOthers e v).map (fun y => (itemAddrs t y).map (fun a => (a, len)))).flatten ++
      (if vKind v = .perRow then [(e.sX.toNat, 4 * addrs.length)] else []))
    (actWhole x e (((List.range addrs.length).zip addrs).map (fun p => (p.2, fpBytes (vopItem s x e v len p.1)))) 0) s

/-! ### Conversion (R191 to R193, R587) -/

/-- The pairs that `CVT` accepts (R193). -/
def cvtOk (src dst : Nat) : Bool :=
  (src ≤ 6 && dst == 8) || ((src == 10 || src == 11) && (dst == 8 || dst == 9)) ||
  (src == 8 && (dst ≤ 6 || dst == 9 || dst == 10 || dst == 11)) || (src == 9 && dst == 8)

/-- The FP32 of a value: a zero keeps its sign (R580); what lies beyond the largest finite FP32 becomes an infinity (R193, log 82). -/
def fpOfValue (v : FV) : Word32 :=
  match v with
  | .fin n 0 _ => if n then 0x80000000 else 0
  | v => fp32OfEV v.toEV

/-- One item converted: destination elements, the scales of a destination with block scales, and `INVALID`. -/
structure Converted where
  elems : List Nat
  scales : List Nat := []
  invalid : Bool := false

/-- Cut a list into blocks of 32. -/
def blocks32 {α : Type} (l : List α) : List (List α) := (List.range ((l.length + 31) / 32)).map (fun i => (l.drop (32 * i)).take 32)

def cvtItem (src dst : Nat) (anchor : Int) (elems scales : List Nat) : Converted :=
  let vals := ((List.range elems.length).zip elems).map (fun p =>
    applyScale (if fmtScaled src then scales[p.1 / 32]? else none) (decodeElem src p.2))
  if dst = 9 then { elems := vals.map (fun v => xrEncode (xrConvert anchor v)) }
  else if src = 9 then { elems := elems.map (fun n => (xrToFp32 (xrDecode n)).toNat) }
  else if dst = 8 then { elems := vals.map (fun v => (fpOfValue v).toNat) }
  else if fmtScaled dst then
    let bs := (blocks32 vals).map (narrowBlock dst)
    { elems := (bs.map (fun b => b.2.1)).flatten, scales := bs.map Prod.fst, invalid := bs.any (fun b => b.2.2) }
  else
    let w := match dst with | 5 => 8 | 6 => 4 | 10 => 32 | _ => 64
    let es := vals.map (fun v => if dst = 4 then narrow 4 v else toInt w v)
    { elems := es.map Prod.fst, invalid := es.any Prod.snd }

/-- Bytes of a destination item and of its scales. -/
def cvtLen (src dst len : Nat) : Nat := elemCount src len * (fmtBits dst).getD 0 / 8

/-- Item `i`'s scale bytes (R587). -/
def scaleRange (t : TileReg) (fmt n i : Nat) : Nat × Nat :=
  if fmtScaled fmt then (tScale t * 64 + i * (n / 32), n / 32) else (0, 0)

/-- R586: sizes that a conversion does not take. -/
def cvtBadSize (src dst len : Nat) : Bool :=
  let n := elemCount src len
  !wholeElems src len || n * (fmtBits dst).getD 0 % 8 != 0 || ((fmtScaled src || fmtScaled dst) && n % 32 != 0)

def doCvt (x : UnitCtx) (e : EngInsn) (s : State) : State :=
  let t := s1T e
  let d := dT e
  let src := tFmt t
  let dst := tFmt d
  let len := tLen0 t
  let n := elemCount src len
  let ins := itemAddrs t t
  let outs := itemAddrs t d
  let is := List.range ins.length
  let sAddr := fun i => scaleRange t src n i
  let dAddr := fun i => scaleRange d dst n i
  if !cvtOk src dst then insnFault x e 0x30B 0 0 s
  else if cvtBadSize src dst len then insnFault x e 0x30C 0 0 s
  else if !statusOk s x e then insnFault x e 0x307 0 0 s
  else if tEmpty t then actWhole x e [] 0 s
  else if !walkFits s x t t len || !walkFits s x t d (cvtLen src dst len) ||
      !is.all (fun i => sramFits s x.slice x.unit (sAddr i).1 (sAddr i).2 && sramFits s x.slice x.unit (dAddr i).1 (dAddr i).2) then
    insnFault x e 0x307 0 0 s
  else
    let rs := (is.zip ins).map (fun p => cvtItem src dst (decodeInt 11 (e.sX.toNat % 2 ^ 11)) (itemElems s x src p.2 len)
      ((sramRead s x.slice x.unit (sAddr p.1).1 (sAddr p.1).2).map BitVec.toNat))
    let data := (outs.zip rs).map (fun p => (p.1, pack ((fmtBits dst).getD 0) p.2.elems))
    let scales := if fmtScaled dst then (is.zip rs).map (fun p => ((dAddr p.1).1, p.2.scales.map (BitVec.ofNat 8))) else []
    readSram x e (ins.map (fun a => (a, len)) ++ is.map sAddr)
      (actWhole x e (data ++ scales) (if rs.any Converted.invalid then 1 else 0)) s

/-! ### XADD (R187, R190) -/

/-- One pair of elements of `XADD`: the write of their sum, or the mismatch with its place and anchors. -/
def xaddOne (addr : Nat) (a b : Nat) : Except (Nat × Nat) (Nat × List Byte) :=
  match xrSum (xrDecode a) (xrDecode b) with
  | some v => .ok (addr, leBytes (xrEncode v) 32)
  | none => .error (addr, bitsOf 207 192 a * 2 ^ 16 + bitsOf 207 192 b)

def doXadd (x : UnitCtx) (e : EngInsn) (s : State) : State :=
  let t := s1T e
  let len := tLen0 t
  if [t, s2T e, dT e].any (fun y => tFmt y != 9) then insnFault x e 0x30B 0 0 s
  else if len % 32 ≠ 0 then insnFault x e 0x30C 0 0 s
  else if !statusOk s x e then insnFault x e 0x307 0 0 s
  else if tEmpty t then actWhole x e [] 0 s
  else if !([t, s2T e, dT e].all (fun y => walkFits s x t y len)) then insnFault x e 0x307 0 0 s
  else
    let items := (itemAddrs t (dT e)).zip ((itemAddrs t t).zip (itemAddrs t (s2T e)))
    let sums := (items.map (fun p =>
      let as := itemElems s x 9 p.2.1 len
      let bs := itemElems s x 9 p.2.2 len
      ((List.range as.length).zip (as.zip bs)).map (fun q => xaddOne (p.1 + 32 * q.1) q.2.1 q.2.2))).flatten
    let ws := sums.filterMap (fun r => match r with | .ok w => some w | .error _ => none)
    readSram x e ((itemAddrs t t ++ itemAddrs t (s2T e)).map (fun a => (a, len))) (fun s =>
      match sums.findSome? (fun r => match r with | .error b => some b | .ok _ => none) with
      | some b => insnFault x e 0x404 b.1 b.2 (putWrites x ws s)
      | none => actWhole x e ws 0 s) s

def doVop (x : UnitCtx) (e : EngInsn) (_ : Slice) (s : State) : State :=
  let v := fld 79 72 e.word
  if e.issued then s
  else if v = 0x20 then doCvt x e s
  else if v = 0x21 then doXadd x e s
  else doElementwise x e v s

/-- VOP (R160, R190 to R193, R224). -/
def execVop (unit : UnitId) (ph : Phase) (s : State) : Result := engineStep 0x60 unit true doVop ph s

/-! ### VRED (R161, R589) -/

/-- The reduction of one group: sum, maximum, minimum, or sum of squares. -/
def reduceGroup (r : Nat) (vs : List Word32) : Word32 :=
  match r with
  | 1 => (pairwise fMax vs.length (vs.map (fun v => fMax v v))).getD 0
  | 2 => (pairwise fMin vs.length (vs.map (fun v => fMin v v))).getD 0
  | 3 => fAdd ((pairwise fAdd vs.length (vs.map (fun v => fMul v v))).getD 0) 0
  | _ => fAdd ((pairwise fAdd vs.length vs).getD 0) 0

/-- The rank of a value in top-k: every NaN above every number (R161). -/
def topRank (w : Word32) : Int := if isNan32 w then 2 ^ 40 else orderKey 32 w.toNat

/-- Put a value behind every one that is not smaller; later indices follow earlier ones. -/
def insertTop (p : Nat × Word32) : List (Nat × Word32) → List (Nat × Word32)
  | [] => [p]
  | y :: ys => if topRank y.2 ≤ topRank p.2 then p :: y :: ys else y :: insertTop p ys

/-- The elements of a group with their indices, largest first, ties by lower index. -/
def rankTop : List (Nat × Word32) → List (Nat × Word32)
  | [] => []
  | p :: ps => insertTop p (rankTop ps)

/-- The values and indices of a `TOPK` (R589). -/
def topK (k : Nat) (vs : List Word32) : List Word32 × List Nat :=
  let sel := (rankTop ((List.range vs.length).zip vs)).take k
  let pad := k - sel.length
  (sel.map (fun p => if isNan32 p.2 then nan32 else p.2) ++ List.replicate pad 0xFF800000,
    sel.map Prod.fst ++ List.replicate pad 0xFFFFFFFF)

def vredWrites (e : EngInsn) (groups : List (List Word32)) : Writes :=
  let r := fld 79 72 e.word
  let k := fld 63 48 e.word
  let gs := (List.range groups.length).zip groups
  if r = 4 then
    (gs.map (fun g =>
      let t := topK k g.2
      [(sramBase (dT e) + g.1 * tPitch1 (dT e), fpBytes t.1),
        (sramBase (s2T e) + g.1 * tPitch1 (s2T e), (t.2.map (fun i => leBytes i 4)).flatten)])).flatten
  else gs.map (fun g => (sramBase (dT e) + 4 * g.1, leBytes (reduceGroup r g.2).toNat 4))

def doVred (x : UnitCtx) (e : EngInsn) (_ : Slice) (s : State) : State :=
  let t := s1T e
  let len := tLen0 t
  if e.issued then s
  else if tFmt t ≠ 8 then insnFault x e 0x30B 0 0 s
  else if len % 4 ≠ 0 then insnFault x e 0x30C 0 0 s
  else if !statusOk s x e then insnFault x e 0x307 0 0 s
  else if tEmpty t then actWhole x e [] 0 s
  else if !walkFits s x t t len then insnFault x e 0x307 0 0 s
  else
    let items := (itemAddrs t t).map (fun a => itemFp s x a len)
    let ws := vredWrites e (if flgOf e.word 0 then items else [items.flatten])
    readSram x e ((itemAddrs t t).map (fun a => (a, len)))
      (fun s => if !writesFit s x ws then insnFault x e 0x307 0 0 s else actWhole x e ws 0 s) s

/-- VRED (R161, R589). -/
def execVred (unit : UnitId) (ph : Phase) (s : State) : Result := engineStep 0x61 unit true doVred ph s

end Sys2Proof.Machine
end

