-- ==== Sys2Proof/Machine/Intake.lean ====
section
/-! DEFINITION. How manager commands come in: the checks of a packet and its acceptance (R355 to R364), the host channel's requests
(R397 to R407), and the sideband (R523). -/

namespace Sys2Proof.Machine

/-! ### Acceptance (R357, R362 to R364) -/

/-- The command touches a block's work (R453 step 2): every command but those of the role, the caps, the fault ring and
telemetry (log 28). -/
def touchesBlock (op : Nat) : Bool := !([0x0801, 0x0505, 0x0805, 0x0806, 0x0807].contains op)

/-- What the firmware does for an opcode. -/
def runCmd (op : Nat) : CmdReq → State → State :=
  match op with
  | 0x0101 | 0x0102 | 0x0106 | 0x0204 | 0x0307 | 0x0308 | 0x0701 => doSetDirect
  | 0x0103 | 0x0105 => doStop
  | 0x0104 => doResume
  | 0x0201 => doCreateQueue
  | 0x0202 => doDestroyQueue
  | 0x0203 => doSetTimeout
  | 0x0301 => doMap
  | 0x0302 => doUnmap
  | 0x0303 => doSyncTables
  | 0x0304 => doStartLog
  | 0x0305 | 0x0306 => doSwapLog
  | 0x0401 => doDump
  | 0x0402 => doSetTally
  | 0x0501 => doPairTwin
  | 0x0502 => doUnpair
  | 0x0503 => doFailover
  | 0x0504 => doSnapshot
  | 0x0505 => doReadFaults
  | 0x0601 => doAttest
  | 0x0602 => doOpenSession
  | 0x0603 => doReleaseKey
  | 0x0604 => doLoadWeights
  | 0x0605 => doResurface
  | 0x0702 => doSetSchuss
  | 0x0703 => doLaneTest
  | 0x0704 => doLaneState
  | 0x0801 => doCaps
  | 0x0802 => doFwBegin
  | 0x0803 => doFwStage
  | 0x0804 => doFwHandoff
  | 0x0805 => doTelemetry
  | 0x0806 => doClaim
  | 0x0807 => doRenew
  | 0x0808 => doEdit
  | 0x0809 => doCommit
  | _ => fun _ s => s

/-- The command as it is accepted now (R356). -/
def accepted (s : State) (c : CmdReq) : CmdReq := { c with tick := now s }

/-- The command's own checks would find a parameter out of range: its reply would be `BAD_PARAM`. Parameters come before conflicts
(R362). -/
def refusesParams (s : State) (c : CmdReq) : Bool :=
  let c := accepted s c
  (runCmd c.opcode c { s with mgr := { s.mgr with accepted := s.mgr.accepted ++ [c] } }).mgr.log.any (fun e => e.1 == c.seq && e.2.status == stBadParam)

/-- The conflicts that end a command before it is accepted: a hand-off or 16 commands in progress, or a failover (R361, R453, R477). -/
def conflict (s : State) (c : CmdReq) : Option Nat :=
  if (s.fw.handoff.map (fun h => h.2.isSome)).getD false || decide (16 ≤ s.mgr.accepted.length) then some stBusy
  else if failingOver s && touchesBlock c.opcode then some stInFailover
  else none

/-- The checks of R362 before a command is accepted, in order: the status of the first that fails, or a logged reply. -/
def packetCheck (s : State) (c : CmdReq) (fmt : Nat) (formOk : Bool) : Option (Nat ⊕ Reply) :=
  if fmt ≠ 5 then some (.inl stVersion)
  else if !roleOk s c.sender c.opcode then some (.inl stNotManager)
  else
    match s.mgr.log.find? (fun e => e.1 == c.seq) with
    | some e => some (.inr e.2)
    | none =>
      if s.mgr.accepted.any (fun x => x.seq == c.seq) then some (.inl stBusy)
      else if !(sliceOps ++ noSliceOps ++ eitherOps).contains c.opcode then some (.inl stBadOpcode)
      else if !formOk || !paramsOk c.opcode c.params || !sliceOk s c.opcode c.sliceField c.params then some (.inl stBadParam)
      else (conflict s c).map (fun st => .inl (if refusesParams s c then stBadParam else st))

/-- A command is accepted. A renewal takes effect at once, so that no expiry comes between (R356, R359). -/
def acceptCmd (c : CmdReq) (s : State) : State :=
  let s1 := { s with mgr := { s.mgr with accepted := s.mgr.accepted ++ [accepted s c] } }
  if c.opcode = 0x0807 then grantLease c.sender (now s) s1 else s1

/-- The command of a packet of bytes. -/
def packetCmd (bs : List Byte) (who : Agent) (buffer : Nat) : CmdReq :=
  { seq := BitVec.ofNat 32 (byteField bs 4 4), opcode := byteField bs 0 2, sliceField := BitVec.ofNat 16 (byteField bs 10 2),
    params := (bs.drop 16).take (byteField bs 8 2), sender := who, buffer := buffer }

/-- The header's reserved bytes are 0 and the packet carries exactly `LENGTH` bytes, at most 4,080 (R360). -/
def packetForm (bs : List Byte) : Bool :=
  byteField bs 3 1 == 0 && byteField bs 12 4 == 0 && decide (byteField bs 8 2 ≤ 4080) && bs.length == 16 + byteField bs 8 2

/-- The management processor takes a packet: it accepts the command, or answers at once (R357, R362 to R364). -/
def takePacket (bs : List Byte) (who : Agent) (buffer : Nat) (s : State) : State :=
  let c := packetCmd bs who buffer
  match packetCheck s c (byteField bs 2 1) (packetForm bs) with
  | some (.inl st) =>
    let r := makeReply c st 0 []
    deliver who buffer r (if statusLogged st then { s with mgr := { s.mgr with log := logReply r s.mgr.log } } else s)
  | some (.inr r) => deliver who buffer r s
  | none => acceptCmd c s

/-! ### Taking requests from the channel (R398 to R407) -/

/-- A message of mailbox `m` is acknowledged, with `ERR` as given (R401). -/
def ackMessage (m : Nat) (err : Bool) (s : State) : State := setMailbox m { mailbox s m with go := false, err := err } s

/-- R401: the message is discarded with every segment of its packet received so far. -/
def discardMessage (s : State) : State :=
  let s1 := ackMessage 0 true s
  { s1 with chan := { s1.chan with partRecv := [], partIndex := 0, exchange := false } }

def mbxBytes (b : Mailbox) : List Byte := ((List.range 16).map (fun i => leBytes (Sparse.get 0 b.data i).toNat 4)).flatten

/-- The sender of mailbox 0's message. -/
def mbxSender (b : Mailbox) : Agent := b.sender.getD manager0

/-- A format 1 message (R398): the packet lies in the message or in memory. -/
def takeFormat1 (s : State) : State :=
  let b := mailbox s 0
  let bs := mbxBytes b
  let w0 := byteField bs 0 4
  let n := w0 / 65536
  let ind := w0.testBit 8
  let buffer := byteField bs 4 8
  let pa := byteField bs 12 8
  if w0 % 256 ≠ 1 ∨ bitsOf 15 9 w0 ≠ 0 ∨ buffer = 0 ∨ buffer % 256 ≠ 0 ∨ n < 16 ∨ (if ind then 4096 else 52) < n ∨
      (ind && (pa % 16 != 0 || byteField bs 20 44 != 0)) then discardMessage s
  else if ind then
    match memRead s 0 (paLocal pa) n with
    | some ps => takePacket ps (mbxSender b) buffer (ackMessage 0 false s)
    | none => writeRecord (plainRecord 0x502 pa 0) (discardMessage s)
  else takePacket ((bs.drop 12).take n) (mbxSender b) buffer (ackMessage 0 false s)

/-- A format 2 segment (R400, R401). -/
def takeFormat2 (s : State) : State :=
  let b := mailbox s 0
  let bs := mbxBytes b
  let w0 := byteField bs 0 4
  let n := w0 / 65536
  let first := w0.testBit 8
  let last := w0.testBit 9
  let got := if first then [] else s.chan.partRecv
  let index := if first then 0 else s.chan.partIndex
  if w0 % 256 ≠ 2 ∨ n = 0 ∨ 60 < n ∨ (!last && n != 60) ∨ bitsOf 15 10 w0 ≠ index % 64 ∨ (!first && s.chan.partIndex == 0) ∨
      4096 < got.length + n then discardMessage s
  else
    let ps := got ++ (bs.drop 4).take n
    let s1 := ackMessage 0 false s
    if last then takePacket ps (mbxSender b) 0 { s1 with chan := { s1.chan with partRecv := [], partIndex := 0 } }
    else { s1 with chan := { s1.chan with partRecv := ps, partIndex := index + 1 } }

/-- The agent that wrote the count covering entry `c` of the request ring (log 29). -/
def entryWriter (c : Channel) : Agent := (c.writers.headD (c.reqTail.toNat, manager0)).2

/-- Entries of the request ring are taken. -/
def consumeEntries (n : Nat) (s : State) : State :=
  let c := s.chan
  let head := c.reqHead + BitVec.ofNat 32 n
  let rest := c.writers.dropWhile (fun w => decide ((BitVec.ofNat 32 w.1 - c.reqHead).toNat ≤ n))
  { s with chan := { c with reqHead := head, writers := rest } }

/-- The next packet of the request ring (R405, R407). -/
def takeRing (s : State) : State :=
  let c := s.chan
  let have' := (c.reqTail - c.reqHead).toNat
  if have' = 0 ∨ !c.replyQueue.isEmpty ∨ 16 ≤ s.mgr.accepted.length then s else
    let i := c.reqHead.toNat % 256
    let a := c.ringBase + 256 * i
    match memRead s 0 a 16 with
    | none => writeRecord (plainRecord 0x502 (ownNode s * 2 ^ 52 + a) 0) (consumeEntries 1 s)
    | some h =>
      let n := ringEntries (16 + byteField h 8 2)
      if byteField h 0 2 = 0 then consumeEntries (min have' (256 - i)) s
      else if 4080 < byteField h 8 2 then takePacket h (entryWriter c) 0 (consumeEntries 1 s)
      else if have' < n then s
      else if 256 < i + n then takePacket h (entryWriter c) 0 (consumeEntries n s)
      else
        match memRead s 0 a (16 + byteField h 8 2) with
        | none => writeRecord (plainRecord 0x502 (ownNode s * 2 ^ 52 + a) 0) (consumeEntries n s)
        | some bs => takePacket bs (entryWriter c) 0 (consumeEntries n s)

/-- CHANNEL_REQUEST_TAKE: the firmware takes the next request of the host channel (R397 to R407). -/
def execChannelRequestTake (s : State) : Result :=
  if !managerRuns s then .next s
  else if (mailbox s 0).go then
    .next (refreshLevels (if s.chan.kind = 1 then takeFormat1 s else if s.chan.kind = 2 then takeFormat2 s else discardMessage s))
  else if s.chan.kind = 0 then .next (refreshLevels (takeRing s))
  else .next s

/-! ### The sideband (R357, R523, R546) -/

/-- MCTP_MESSAGE: control messages are answered on every block; a vendor message on the lead carries one command packet
into mailbox 2; every other type is discarded (R523). -/
def execMctpMessage (eid : BitVec 8) (m : MctpMsg) (s : State) : Result :=
  match m with
  | .control bs =>
    let d := drawFree s
    .next (emit (.sideband (Config.mctpAnswer d.1 bs)) d.2)
  | .other _ => .next s
  | .vendor packet =>
    if !managerRuns s then .next s
    else .next (takePacket packet (.sideband eid) 0 (setMailbox 2 { mailbox s 2 with sender := some (.sideband eid) } s))

end Sys2Proof.Machine
end

