-- ==== Sys2Proof/Machine/Dispatch.lean ====
section
/-! DEFINITION. What each command does: one arm for each row of spec/opcode_table.json. -/

namespace Sys2Proof.Machine

/-- The effect of a command on everything but the queue of commands. -/
def exec (i : Instr) (s : State) : Host.Outcome State Fault Refusal :=
  match i with
  | .doorbellWrite id offset size value => Sys2Proof.Machine.execDoorbellWrite id offset size value s
  | .doorbellForward slice queue value => Sys2Proof.Machine.execDoorbellForward slice queue value s
  | .descriptorFetch slice queue => Sys2Proof.Machine.execDescriptorFetch slice queue s
  | .nop slice queue => Sys2Proof.Machine.execNop slice queue s
  | .launch slice queue => Sys2Proof.Machine.execLaunch slice queue s
  | .launchGraph slice queue => Sys2Proof.Machine.execLaunchGraph slice queue s
  | .copy slice queue => Sys2Proof.Machine.execCopy slice queue s
  | .fill slice queue => Sys2Proof.Machine.execFill slice queue s
  | .signal slice queue => Sys2Proof.Machine.execSignal slice queue s
  | .wait slice queue => Sys2Proof.Machine.execWait slice queue s
  | .waitReread slice queue => Sys2Proof.Machine.execWaitReread slice queue s
  | .fence slice queue => Sys2Proof.Machine.execFence slice queue s
  | .descriptorComplete slice queue index => Sys2Proof.Machine.execDescriptorComplete slice queue index s
  | .queueTimeout slice queue => Sys2Proof.Machine.execQueueTimeout slice queue s
  | .graphNodeStart slice handle launch node => Sys2Proof.Machine.execGraphNodeStart slice handle launch node s
  | .runStart unit slice => Sys2Proof.Machine.execRunStart unit slice s
  | .runComplete unit slice run => Sys2Proof.Machine.execRunComplete unit slice run s
  | .br unit => Sys2Proof.Machine.execBr unit s
  | .loop unit => Sys2Proof.Machine.execLoop unit s
  | .endloop unit => Sys2Proof.Machine.execEndloop unit s
  | .halt unit => Sys2Proof.Machine.execHalt unit s
  | .add unit => Sys2Proof.Machine.execAdd unit s
  | .shl unit => Sys2Proof.Machine.execShl unit s
  | .ldp unit => Sys2Proof.Machine.execLdp unit s
  | .mov unit => Sys2Proof.Machine.execMov unit s
  | .dmaLd unit ph => Sys2Proof.Machine.execDmaLd unit ph s
  | .dmaSt unit ph => Sys2Proof.Machine.execDmaSt unit ph s
  | .dmaCopy unit ph => Sys2Proof.Machine.execDmaCopy unit ph s
  | .dmaBcast unit ph => Sys2Proof.Machine.execDmaBcast unit ph s
  | .gather unit ph => Sys2Proof.Machine.execGather unit ph s
  | .scatter unit ph => Sys2Proof.Machine.execScatter unit ph s
  | .walk unit ph => Sys2Proof.Machine.execWalk unit ph s
  | .sort unit ph => Sys2Proof.Machine.execSort unit ph s
  | .merge unit ph => Sys2Proof.Machine.execMerge unit ph s
  | .isect unit ph => Sys2Proof.Machine.execIsect unit ph s
  | .union unit ph => Sys2Proof.Machine.execUnion unit ph s
  | .mma unit => Sys2Proof.Machine.execMma unit s
  | .mmaC unit => Sys2Proof.Machine.execMmaC unit s
  | .mmaX unit => Sys2Proof.Machine.execMmaX unit s
  | .mmaCx unit => Sys2Proof.Machine.execMmaCx unit s
  | .arrayInstructionStart unit eng => Sys2Proof.Machine.execArrayInstructionStart unit eng s
  | .arrayWriteback unit eng quad => Sys2Proof.Machine.execArrayWriteback unit eng quad s
  | .vop unit ph => Sys2Proof.Machine.execVop unit ph s
  | .vred unit ph => Sys2Proof.Machine.execVred unit ph s
  | .put unit ph => Sys2Proof.Machine.execPut unit ph s
  | .get unit ph => Sys2Proof.Machine.execGet unit ph s
  | .atom unit ph => Sys2Proof.Machine.execAtom unit ph s
  | .reduce unit ph => Sys2Proof.Machine.execReduce unit ph s
  | .psig unit ph => Sys2Proof.Machine.execPsig unit ph s
  | .sig unit ph => Sys2Proof.Machine.execSig unit ph s
  | .waitge unit ph => Sys2Proof.Machine.execWaitge unit ph s
  | .waitgeWake unit eng => Sys2Proof.Machine.execWaitgeWake unit eng s
  | .pairchkDeclare unit ph => Sys2Proof.Machine.execPairchkDeclare unit ph s
  | .pairchkDissolve unit ph => Sys2Proof.Machine.execPairchkDissolve unit ph s
  | .gate unit ph => Sys2Proof.Machine.execGate unit ph s
  | .epcall unit ph => Sys2Proof.Machine.execEpcall unit ph s
  | .engineInstructionComplete unit eng => Sys2Proof.Machine.execEngineInstructionComplete unit eng s
  | .liftTick => Sys2Proof.Machine.execLiftTick s
  | .chairBoundary => Sys2Proof.Machine.execChairBoundary s
  | .planFix => Sys2Proof.Machine.execPlanFix s
  | .relayZoneOpen => Sys2Proof.Machine.execRelayZoneOpen s
  | .stagedSetConfirm block => Sys2Proof.Machine.execStagedSetConfirm block s
  | .commitGo => Sys2Proof.Machine.execCommitGo s
  | .slotEnd unit => Sys2Proof.Machine.execSlotEnd unit s
  | .contextSaveDone slice unit => Sys2Proof.Machine.execContextSaveDone slice unit s
  | .contextLoadDone slice unit => Sys2Proof.Machine.execContextLoadDone slice unit s
  | .liftPacket source count => Sys2Proof.Machine.execLiftPacket source count s
  | .liftRefEdge => Sys2Proof.Machine.execLiftRefEdge s
  | .liftHoldover => Sys2Proof.Machine.execLiftHoldover s
  | .fabricRead p => Sys2Proof.Machine.execFabricRead p s
  | .fabricWrite p => Sys2Proof.Machine.execFabricWrite p s
  | .fabricAtom p => Sys2Proof.Machine.execFabricAtom p s
  | .fabricReduce p => Sys2Proof.Machine.execFabricReduce p s
  | .fabricSig p => Sys2Proof.Machine.execFabricSig p s
  | .gateArrive p a => Sys2Proof.Machine.execGateArrive p a s
  | .gateRelease p gate gen => Sys2Proof.Machine.execGateRelease p gate gen s
  | .syncOrder unit source epoch => Sys2Proof.Machine.execSyncOrder unit source epoch s
  | .tether p m => Sys2Proof.Machine.execTether p m s
  | .mgmt p m => Sys2Proof.Machine.execMgmt p m s
  | .stepCtlAbort p => Sys2Proof.Machine.execStepCtlAbort p s
  | .stepCtlRestart p => Sys2Proof.Machine.execStepCtlRestart p s
  | .fabricResponse p => Sys2Proof.Machine.execFabricResponse p s
  | .fabricRetryResend txid => Sys2Proof.Machine.execFabricRetryResend txid s
  | .linkFrame group f => Sys2Proof.Machine.execLinkFrame group f s
  | .linkRetrainDone group up => Sys2Proof.Machine.execLinkRetrainDone group up s
  | .laneInject lane => Sys2Proof.Machine.execLaneInject lane s
  | .laneSignalChange lane sigdet cdrLock => Sys2Proof.Machine.execLaneSignalChange lane sigdet cdrLock s
  | .laneStateExitDone group => Sys2Proof.Machine.execLaneStateExitDone group s
  | .fabricTrainingDone group trained lanes node session => Sys2Proof.Machine.execFabricTrainingDone group trained lanes node session s
  | .phyCalDone group ok => Sys2Proof.Machine.execPhyCalDone group ok s
  | .translationWalkReturn slice segment page => Sys2Proof.Machine.execTranslationWalkReturn slice segment page s
  | .syncPrepare slice gen => Sys2Proof.Machine.execSyncPrepare slice gen s
  | .syncAck slice block => Sys2Proof.Machine.execSyncAck slice block s
  | .syncAckTimeout slice => Sys2Proof.Machine.execSyncAckTimeout slice s
  | .syncSwitch slice => Sys2Proof.Machine.execSyncSwitch slice s
  | .syncDrainDone slice block => Sys2Proof.Machine.execSyncDrainDone slice block s
  | .createSlice seq => Sys2Proof.Machine.execCreateSlice seq s
  | .destroySlice seq => Sys2Proof.Machine.execDestroySlice seq s
  | .quiesce seq => Sys2Proof.Machine.execQuiesce seq s
  | .resume seq => Sys2Proof.Machine.execResume seq s
  | .resetSlice seq => Sys2Proof.Machine.execResetSlice seq s
  | .assignPool seq => Sys2Proof.Machine.execAssignPool seq s
  | .createQueue seq => Sys2Proof.Machine.execCreateQueue seq s
  | .destroyQueue seq => Sys2Proof.Machine.execDestroyQueue seq s
  | .setTimeout seq => Sys2Proof.Machine.execSetTimeout seq s
  | .setRtShare seq => Sys2Proof.Machine.execSetRtShare seq s
  | .mapSegment seq => Sys2Proof.Machine.execMapSegment seq s
  | .unmapSegment seq => Sys2Proof.Machine.execUnmapSegment seq s
  | .syncTables seq => Sys2Proof.Machine.execSyncTables seq s
  | .startDirtyLog seq => Sys2Proof.Machine.execStartDirtyLog seq s
  | .readDirtyLog seq => Sys2Proof.Machine.execReadDirtyLog seq s
  | .stopDirtyLog seq => Sys2Proof.Machine.execStopDirtyLog seq s
  | .setWindow seq => Sys2Proof.Machine.execSetWindow seq s
  | .clearWindow seq => Sys2Proof.Machine.execClearWindow seq s
  | .dumpSync seq => Sys2Proof.Machine.execDumpSync seq s
  | .setTally seq => Sys2Proof.Machine.execSetTally seq s
  | .pairTwin seq => Sys2Proof.Machine.execPairTwin seq s
  | .pairTwinTimeout => Sys2Proof.Machine.execPairTwinTimeout s
  | .unpair seq => Sys2Proof.Machine.execUnpair seq s
  | .failover seq => Sys2Proof.Machine.execFailover seq s
  | .snapshot seq => Sys2Proof.Machine.execSnapshot seq s
  | .readFaults seq => Sys2Proof.Machine.execReadFaults seq s
  | .attest seq => Sys2Proof.Machine.execAttest seq s
  | .openKeySession seq => Sys2Proof.Machine.execOpenKeySession seq s
  | .releaseKey seq => Sys2Proof.Machine.execReleaseKey seq s
  | .loadWeights seq => Sys2Proof.Machine.execLoadWeights seq s
  | .resurface seq => Sys2Proof.Machine.execResurface seq s
  | .resurfaceZeroDone slice cluster => Sys2Proof.Machine.execResurfaceZeroDone slice cluster s
  | .setEnvelope seq => Sys2Proof.Machine.execSetEnvelope seq s
  | .setSchuss seq => Sys2Proof.Machine.execSetSchuss seq s
  | .laneTest seq => Sys2Proof.Machine.execLaneTest seq s
  | .laneState seq => Sys2Proof.Machine.execLaneState seq s
  | .queryCaps seq => Sys2Proof.Machine.execQueryCaps seq s
  | .fwUpdateBegin seq => Sys2Proof.Machine.execFwUpdateBegin seq s
  | .fwUpdateStage seq => Sys2Proof.Machine.execFwUpdateStage seq s
  | .fwHandoff seq => Sys2Proof.Machine.execFwHandoff seq s
  | .fwHandoffAck schemaRead => Sys2Proof.Machine.execFwHandoffAck schemaRead s
  | .fwHandoffTimeout => Sys2Proof.Machine.execFwHandoffTimeout s
  | .readTelemetry seq => Sys2Proof.Machine.execReadTelemetry seq s
  | .claimManager seq => Sys2Proof.Machine.execClaimManager seq s
  | .leaseRenew seq => Sys2Proof.Machine.execLeaseRenew seq s
  | .leaseWarning => Sys2Proof.Machine.execLeaseWarning s
  | .leaseExpiry => Sys2Proof.Machine.execLeaseExpiry s
  | .editShadow seq => Sys2Proof.Machine.execEditShadow seq s
  | .commitShadow seq => Sys2Proof.Machine.execCommitShadow seq s
  | .resetRung unit eng why => Sys2Proof.Machine.execResetRung unit eng why s
  | .rungLimitExpiry ladder => Sys2Proof.Machine.execRungLimitExpiry ladder s
  | .rungComplete ladder back => Sys2Proof.Machine.execRungComplete ladder back s
  | .schedWatchdog core => Sys2Proof.Machine.execSchedWatchdog core s
  | .schedRestart core ok => Sys2Proof.Machine.execSchedRestart core ok s
  | .lockstepMismatch => Sys2Proof.Machine.execLockstepMismatch s
  | .lockstepRestart => Sys2Proof.Machine.execLockstepRestart s
  | .faultRecordArrive rec => Sys2Proof.Machine.execFaultRecordArrive rec s
  | .patrolRun unit eng second third => Sys2Proof.Machine.execPatrolRun unit eng second third s
  | .patrolDiscard unit eng => Sys2Proof.Machine.execPatrolDiscard unit eng s
  | .stepImage slice => Sys2Proof.Machine.execStepImage slice s
  | .twinHeartbeatTimeout => Sys2Proof.Machine.execTwinHeartbeatTimeout s
  | .twinProbeTimeout => Sys2Proof.Machine.execTwinProbeTimeout s
  | .remapAck => Sys2Proof.Machine.execRemapAck s
  | .mbxDataWrite who mbx index value => Sys2Proof.Machine.execMbxDataWrite who mbx index value s
  | .mbxSend who mbx => Sys2Proof.Machine.execMbxSend who mbx s
  | .mbxAck who mbx => Sys2Proof.Machine.execMbxAck who mbx s
  | .mbxLockClaim who mbx num => Sys2Proof.Machine.execMbxLockClaim who mbx num s
  | .mbxLockRelease who mbx num => Sys2Proof.Machine.execMbxLockRelease who mbx num s
  | .resetMailbox mbx => Sys2Proof.Machine.execResetMailbox mbx s
  | .mbxReplyTimeout => Sys2Proof.Machine.execMbxReplyTimeout s
  | .channelLockIdle => Sys2Proof.Machine.execChannelLockIdle s
  | .reqTailWrite who value => Sys2Proof.Machine.execReqTailWrite who value s
  | .rplHeadWrite who value => Sys2Proof.Machine.execRplHeadWrite who value s
  | .channelRequestTake => Sys2Proof.Machine.execChannelRequestTake s
  | .interruptEvent source => Sys2Proof.Machine.execInterruptEvent source s
  | .interruptForward source => Sys2Proof.Machine.execInterruptForward source s
  | .icuPendWrite index value => Sys2Proof.Machine.execIcuPendWrite index value s
  | .icuGdisWrite gdis => Sys2Proof.Machine.execIcuGdisWrite gdis s
  | .interruptMessage => Sys2Proof.Machine.execInterruptMessage s
  | .icuHoldoffExpiry group => Sys2Proof.Machine.execIcuHoldoffExpiry group s
  | .coreInterruptTake core => Sys2Proof.Machine.execCoreInterruptTake core s
  | .wakeLatch source => Sys2Proof.Machine.execWakeLatch source s
  | .fqStatusWrite value => Sys2Proof.Machine.execFqStatusWrite value s
  | .registerWrite who offset size value => Sys2Proof.Machine.execRegisterWrite who offset size value s
  | .apertureRead id offset len tag => Sys2Proof.Machine.execApertureRead id offset len tag s
  | .apertureWrite id offset data => Sys2Proof.Machine.execApertureWrite id offset data s
  | .hostOtherTlp t => Sys2Proof.Machine.execHostOtherTlp t s
  | .hostLinkDown => Sys2Proof.Machine.execHostLinkDown s
  | .memoryReadResponse port tag err => Sys2Proof.Machine.execMemoryReadResponse port tag err s
  | .memoryWriteAck port tag => Sys2Proof.Machine.execMemoryWriteAck port tag s
  | .engineCallDone port call => Sys2Proof.Machine.execEngineCallDone port call s
  | .engineDmaRequest port r => Sys2Proof.Machine.execEngineDmaRequest port r s
  | .engineSignal port call tally amount => Sys2Proof.Machine.execEngineSignal port call tally amount s
  | .engineWait port slot call tally threshold => Sys2Proof.Machine.execEngineWait port slot call tally threshold s
  | .engineThrottleAck port level => Sys2Proof.Machine.execEngineThrottleAck port level s
  | .throttleAckTimeout port => Sys2Proof.Machine.execThrottleAckTimeout port s
  | .governorStage reading reports => Sys2Proof.Machine.execGovernorStage reading reports s
  | .vrAlert => Sys2Proof.Machine.execVrAlert s
  | .clampEnd => Sys2Proof.Machine.execClampEnd s
  | .thermalTrip block => Sys2Proof.Machine.execThermalTrip block s
  | .deepIdleWake why => Sys2Proof.Machine.execDeepIdleWake why s
  | .aoRstN level => Sys2Proof.Machine.execAoRstN level s
  | .blkRstN level straps => Sys2Proof.Machine.execBlkRstN level straps s
  | .startupPhaseEnd r => Sys2Proof.Machine.execStartupPhaseEnd r s
  | .phaseLimit code => Sys2Proof.Machine.execPhaseLimit code s
  | .statusFrame f => Sys2Proof.Machine.execStatusFrame f s
  | .electionClose => Sys2Proof.Machine.execElectionClose s
  | .leadLost => Sys2Proof.Machine.execLeadLost s
  | .ready => Sys2Proof.Machine.execReady s
  | .fusePgmDone bit => Sys2Proof.Machine.execFusePgmDone bit s
  | .debugUnlock signed => Sys2Proof.Machine.execDebugUnlock signed s
  | .debugDenied => Sys2Proof.Machine.execDebugDenied s
  | .mctpMessage eid m => Sys2Proof.Machine.execMctpMessage eid m s
  | .laneCheckerLock lane => Sys2Proof.Machine.execLaneCheckerLock lane s
  | .laneCheckerLoss lane => Sys2Proof.Machine.execLaneCheckerLoss lane s
  | .d2dPortStateChange port status present paths => Sys2Proof.Machine.execD2dPortStateChange port status present paths s
  | .linkKeyUpdate group => Sys2Proof.Machine.execLinkKeyUpdate group s
  | .coreVoltageReached => Sys2Proof.Machine.execCoreVoltageReached s
  | .powerDomainOn domain => Sys2Proof.Machine.execPowerDomainOn domain s

end Sys2Proof.Machine
end

