-- ==== Sys2Proof/Safety.lean ====
section
/-! DEFINITION. What counts as a safe run (no step stops the machine), and the situations that the statements speak of. -/

namespace Sys2Proof

/-- A step from `s` answers a next state. -/
def stepsOn (s : Machine.State) : Prop := ∃ t, Machine.step s = .next t

/-- A run of `k` steps from `s` never stops. -/
def safeFor (k : Nat) (s : Machine.State) : Prop := ∃ t, core.run k s = .next t

namespace Machine

/-- The sequencer of unit `u` can issue for context `x`, and the word at its program counter is the instruction `w`. -/
structure AtWord (s : State) (u : UnitId) (x : UnitCtx) (z : Seq) (sl : Slice) (w : InsnWord) : Prop where
  unit : currentUnit s u = some x
  seq : x.seq = some z
  slice : findSlice s x.slice = some sl
  issues : canIssue s x z sl = true
  word : readWord (fetchStep u sl z s) u sl z.run z.pc = .ok w
  decoded : decodes z.run.proxy w = true

/-- Instruction `e` is at the head of engine `eng`'s queue on unit `u`, and its engine can act on it. -/
structure AtHead (s : State) (u : UnitId) (eng : Nat) (x : UnitCtx) (e : EngInsn) (sl : Slice) : Prop where
  unit : currentUnit s u = some x
  head : headInsn x eng = some e
  slice : findSlice s x.slice = some sl
  runs : contextRuns s x.slice = true
  going : x.stopping = false
  free : stalled s x.slice (insnEngine x e) = false
  sound : e.fault = none

/-- Packet `p` of type `type` passes the checks of R321 at a block that serves: its request is done (R459, R460). -/
structure Arrives (s : State) (p : Packet) (type : Nat) : Prop where
  serving : serves s = true
  typed : p.type = type
  passes : headerCause s p = none

/-- Command `c` is accepted with opcode `op` and sequence number `seq`, and may take its step (R364, R436). -/
structure AtCommand (s : State) (seq : Word32) (op : Nat) (c : CmdReq) : Prop where
  accepted : cmdAt s seq op = some c
  runs : managerRuns s = true
  turn : heldBack s c = false

/-- The engine instructions whose issue does nothing but queue them, with their opcodes (R214). -/
def queuedCommands (u : UnitId) : List (Instr × Nat) :=
  [(.dmaLd u .issue, 0x20), (.dmaSt u .issue, 0x21), (.dmaCopy u .issue, 0x22), (.dmaBcast u .issue, 0x23), (.gather u .issue, 0x30),
    (.scatter u .issue, 0x31), (.walk u .issue, 0x32), (.sort u .issue, 0x40), (.merge u .issue, 0x41), (.isect u .issue, 0x42),
    (.union u .issue, 0x43), (.mma u, 0x50), (.mmaC u, 0x51), (.mmaX u, 0x52), (.mmaCx u, 0x53), (.vop u .issue, 0x60),
    (.vred u .issue, 0x61), (.put u .issue, 0x70), (.get u .issue, 0x71), (.atom u .issue, 0x72), (.reduce u .issue, 0x73),
    (.psig u .issue, 0x74), (.gate u .issue, 0x83), (.epcall u .issue, 0x90)]

/-- The tally instructions, which queue where their `ENG` is not 0, with the words that spell them (R214). -/
def tallyCommands (u : UnitId) (w : InsnWord) : List (Instr × Bool) :=
  [(.sig u .issue, opOf w == 0x80), (.waitge u .issue, opOf w == 0x81), (.pairchkDeclare u .issue, opOf w == 0x82 && subOf w == 0),
    (.pairchkDissolve u .issue, opOf w == 0x82 && subOf w == 1)]

end Machine

end Sys2Proof
end

