-- ==== Sys2Proof/WellFormed.lean ====
section
/-! DEFINITION. The bounds that the numbers in a command keep: the places that the block has. -/

namespace Sys2Proof

/-- 32 clusters and 8 engine ports (R38). -/
def UnitId.wellFormed : UnitId → Bool
  | .cluster c => decide (c < 32)
  | .port p => decide (p < 8)

/-- Engines 1 to 8 of a cluster; a proxy's call queue is 1 and its synchronisation queue 0 (R124, R230). -/
def Phase.wellFormed : Phase → Bool
  | .issue => true
  | .head e => decide (e ≤ 8)

/-- The ranges of the header fields of R314. -/
def Packet.wellFormed (p : Packet) : Bool :=
  decide (p.type < 256) && decide (p.tc < 16) && decide (p.dnode < 4096) && decide (p.snode < 4096) &&
  decide (p.stag < 2 ^ 22) && decide (p.win < 1024) && decide (p.txid < 65536) && decide (p.len ≤ 256) &&
  decide (p.addr < 2 ^ 64) && decide (p.key < 4096) && decide (p.badSyms ≤ 2)

/-- The fields of a licensee's request (spec/15 "Engine ports"): call ID 0 to 15, tag 0 to 511, 1 to 256 bytes at a 56-bit address, with data for a write. -/
def EngineDma.wellFormed (r : EngineDma) : Bool :=
  decide (r.call < 16) && decide (r.tag < 512) && decide (1 ≤ r.len) && decide (r.len ≤ 256) && decide (r.va < 2 ^ 56) &&
  (if r.write then r.data.length == r.len else r.data.isEmpty)

/-- The numbers that a command carries name places that the block has. -/
def Instr.wellFormed : Instr → Bool
  | .doorbellWrite _ off size _ => decide (off < 2 ^ 22) && decide (size ≤ 64)
  | .doorbellForward sl q _ => decide (sl < 1024) && decide (q < 64)
  | .laneInject k => decide (k < 48)
  | .laneSignalChange k _ _ => decide (k < 48)
  | .laneCheckerLock k => decide (k < 48)
  | .laneCheckerLoss k => decide (k < 48)
  | .linkFrame g _ => decide (g < 11)
  | .linkRetrainDone g _ => decide (g < 8)
  | .laneStateExitDone g => decide (g < 8)
  | .fabricTrainingDone g _ _ node _ => decide (g < 8) && decide (node < 4096)
  | .phyCalDone g _ => decide (g < 8)
  | .linkKeyUpdate g => decide (g < 8)
  | .d2dPortStateChange p st _ _ => decide (p < 3) && decide (st < 4)
  | .mbxDataWrite _ m i _ => decide (m < 16) && decide (i < 16)
  | .mbxSend _ m => decide (m < 16)
  | .mbxAck _ m => decide (m < 16)
  | .mbxLockClaim _ m _ => decide (m < 16)
  | .mbxLockRelease _ m _ => decide (m < 16)
  | .resetMailbox m => decide (m < 16)
  | .interruptEvent n => decide (n < 256)
  | .interruptForward n => decide (n < 256)
  | .icuPendWrite i _ => decide (i < 8)
  | .icuHoldoffExpiry g => decide (g < 16)
  | .wakeLatch n => decide (n < 256)
  | .memoryReadResponse p t _ => decide (p < 4) && decide (t < 1024)
  | .memoryWriteAck p t => decide (p < 4) && decide (t < 1024)
  | .engineCallDone p c => decide (p < 8) && decide (c < 16)
  | .engineDmaRequest p r => decide (p < 8) && r.wellFormed
  | .engineSignal p c i a => decide (p < 8) && decide (c < 16) && decide (i < 64) && decide (a < 65536)
  | .engineWait p w c i t => decide (p < 8) && decide (w < 4) && decide (c < 16) && decide (i < 64) && decide (t < 2 ^ 48)
  | .engineThrottleAck p l => decide (p < 8) && decide (l < 16)
  | .throttleAckTimeout p => decide (p < 8)
  | .schedWatchdog c => decide (c < 4)
  | .schedRestart c _ => decide (c < 4)
  | .powerDomainOn d => decide (d < 82)
  | .fusePgmDone b => decide (b < 64)
  | .fabricRead p => p.wellFormed
  | .fabricWrite p => p.wellFormed
  | .fabricAtom p => p.wellFormed
  | .fabricReduce p => p.wellFormed
  | .fabricSig p => p.wellFormed
  | .stepCtlAbort p => p.wellFormed
  | .stepCtlRestart p => p.wellFormed
  | .fabricResponse p => p.wellFormed
  | .gateArrive p a => p.wellFormed && decide (a.gate < 1024) && decide (a.expected ≤ 4096)
  | .gateRelease p g gen => p.wellFormed && decide (g < 1024) && decide (gen < 65536)
  | .tether p _ => p.wellFormed
  | .mgmt p _ => p.wellFormed
  | .syncOrder u src ep => u.wellFormed && decide (src < 4096) && decide (ep < 65536)
  | .descriptorFetch _ q => decide (q < 64)
  | .nop _ q => decide (q < 64)
  | .launch _ q => decide (q < 64)
  | .launchGraph _ q => decide (q < 64)
  | .copy _ q => decide (q < 64)
  | .fill _ q => decide (q < 64)
  | .signal _ q => decide (q < 64)
  | .wait _ q => decide (q < 64)
  | .waitReread _ q => decide (q < 64)
  | .fence _ q => decide (q < 64)
  | .queueTimeout _ q => decide (q < 64)
  | .descriptorComplete _ q _ => decide (q < 64)
  | .runStart u _ => u.wellFormed
  | .runComplete u _ _ => u.wellFormed
  | .br u => u.wellFormed
  | .loop u => u.wellFormed
  | .endloop u => u.wellFormed
  | .halt u => u.wellFormed
  | .add u => u.wellFormed
  | .shl u => u.wellFormed
  | .ldp u => u.wellFormed
  | .mov u => u.wellFormed
  | .mma u => u.wellFormed
  | .mmaC u => u.wellFormed
  | .mmaX u => u.wellFormed
  | .mmaCx u => u.wellFormed
  | .slotEnd u => u.wellFormed
  | .dmaLd u ph => u.wellFormed && ph.wellFormed
  | .dmaSt u ph => u.wellFormed && ph.wellFormed
  | .dmaCopy u ph => u.wellFormed && ph.wellFormed
  | .dmaBcast u ph => u.wellFormed && ph.wellFormed
  | .gather u ph => u.wellFormed && ph.wellFormed
  | .scatter u ph => u.wellFormed && ph.wellFormed
  | .walk u ph => u.wellFormed && ph.wellFormed
  | .sort u ph => u.wellFormed && ph.wellFormed
  | .merge u ph => u.wellFormed && ph.wellFormed
  | .isect u ph => u.wellFormed && ph.wellFormed
  | .union u ph => u.wellFormed && ph.wellFormed
  | .vop u ph => u.wellFormed && ph.wellFormed
  | .vred u ph => u.wellFormed && ph.wellFormed
  | .put u ph => u.wellFormed && ph.wellFormed
  | .get u ph => u.wellFormed && ph.wellFormed
  | .atom u ph => u.wellFormed && ph.wellFormed
  | .reduce u ph => u.wellFormed && ph.wellFormed
  | .psig u ph => u.wellFormed && ph.wellFormed
  | .sig u ph => u.wellFormed && ph.wellFormed
  | .waitge u ph => u.wellFormed && ph.wellFormed
  | .pairchkDeclare u ph => u.wellFormed && ph.wellFormed
  | .pairchkDissolve u ph => u.wellFormed && ph.wellFormed
  | .gate u ph => u.wellFormed && ph.wellFormed
  | .epcall u ph => u.wellFormed && ph.wellFormed
  | .waitgeWake u e => u.wellFormed && decide (e ≤ 8)
  | .engineInstructionComplete u e => u.wellFormed && decide (e ≤ 8)
  | .arrayInstructionStart u e => u.wellFormed && decide (1 ≤ e) && decide (e ≤ 4)
  | .arrayWriteback u e q => u.wellFormed && decide (1 ≤ e) && decide (e ≤ 4) && decide (q < 4)
  | .contextSaveDone _ u => u.wellFormed
  | .contextLoadDone _ u => u.wellFormed
  | .stagedSetConfirm b => decide (b < 8)
  | .syncAck _ b => decide (b < 8)
  | .syncDrainDone _ b => decide (b < 8)
  | .thermalTrip b => decide (b < 8)
  | .translationWalkReturn _ seg _ => decide (seg < 16)
  | .resurfaceZeroDone _ c => decide (c < 32)
  | .resetRung u e _ => u.wellFormed && decide (e ≤ 8)
  | .patrolRun u e _ _ => u.wellFormed && decide (1 ≤ e) && decide (e ≤ 4)
  | .patrolDiscard u e => u.wellFormed && decide (1 ≤ e) && decide (e ≤ 4)
  | .coreInterruptTake c => decide (c < 256)
  | _ => true

end Sys2Proof
end

