-- ==== Sys2Proof/Certificates/Slice0/Obligations.lean ====
section
/-! DEFINITION. The statements for the provers: what the commands do, what they leave unchanged, and what every step keeps. -/

open Sys2Proof Sys2Proof.Machine

/-! ### The queue of commands, reset -/

/-- A step takes the command at the front of the queue and answers what `exec` answers on it with the queue's rest; on an empty queue the
block idles and answers the state unchanged (the model's choice, log 2). No row of the table gives bits: no word spells a command, so
placing a word changes nothing. -/
def Obligations.StepRunsFrontCommand : Prop :=
  (∀ (c : Instr) (rest : List Instr) (s : State), s.pending = c :: rest → step s = exec c { s with pending := rest }) ∧
  (∀ s : State, s.pending = [] → step s = .next s) ∧
  (∀ (n w : Nat) (s : State), decodeTableWord n w = none ∧ s.withFetchWord n w = s)

/-- Every command whose numbers name places that the block has answers a next state, in every state; and no command is ever refused. A
command that stops names a lane, port, group, mailbox, core, source, register or power domain that the block does not have. -/
def Obligations.WellFormedCommandsNeverStop : Prop :=
  (∀ (c : Instr) (s : State), c.wellFormed = true → ∃ t, exec c s = .next t) ∧
  (∀ (c : Instr) (s : State) (r : Refusal), exec c s ≠ .refused r) ∧
  (∀ (c : Instr) (s : State) (f : Fault), exec c s = .fault f → c.wellFormed = false)


/-! ### The AQI front end (spec/02, spec/03) -/

/-- R40: a write to a slice's page under another identity than the bound one (function and PASID) is discarded and counted, and
changes nothing else. -/
def Obligations.DoorbellIdentityIsChecked : Prop :=
  ∀ (s : State) (id : Requester) (offset size : Nat) (v : Word64) (c : SliceCfg),
    s.boot.ready = true → s.boot.isLead = true → sliceCfg s (offset / 4096) = some c → c.identity ≠ id →
    exec (.doorbellWrite id offset size v) s =
      .next (mapSlice (offset / 4096) (fun x => { x with rejectedWrites := x.rejectedWrites + 1 }) s)

/-- R47: a value lower than or equal to the posted count is ignored, and `DB_STALE` is set. -/
def Obligations.DoorbellStaleValueIsIgnored : Prop :=
  ∀ (s : State) (id : Requester) (slice q : Nat) (v : Word64) (c : SliceCfg) (x : Queue),
    q < 64 → s.boot.ready = true → s.boot.isLead = true → sliceCfg s slice = some c → c.identity = id →
    findQueue s slice q = some x → x.owner = s.boot.blkId → v.toNat ≤ x.posted →
    exec (.doorbellWrite id (4096 * slice + 64 * q) 8 v) s = .next (mapQueue slice q (fun y => { y with stale := true }) s)

/-- Doorbells (R42, R44, R48, R49, R116, R34, R35). An accepted write posts its value, clears `DB_STALE` and makes the queue active, and an
armed idle queue has its rung bit set; the tick of its acceptance at the lead is kept. A value beyond the ring stops the queue (`RING_OVERRUN`,
0x0D, record 0x302; that the record names the first descriptor not complete is the model's choice, log 76); a write of another size or
alignment, and any write to a stopped or quiesced queue, sets `DB_STALE` and nothing else; a member reports how its queue stands; the lead
forwards a write to a queue of another block with that tick, where it does the same. -/
def Obligations.DoorbellsPostAndStop : Prop :=
  ∀ (s : State) (slice q tick : Nat) (v : Word64) (x : Queue),
    findQueue s slice q = some x →
    (x.owner = s.boot.blkId → queueOpen x = true → x.quiescing = false → x.posted < v.toNat →
      let s1 := mapQueue slice q (fun y => { y with
        posted := v.toNat, stale := false, state := .active, rung := y.rung || y.armed
        rings := y.rings ++ [{ posted := v.toNat, tick := tick, load := rtInFlight s slice }]
        waitingSince := if y.completed = y.posted then now s else y.waitingSince }) s
      let k := x.completed + donePrefix x.descs
      (v.toNat ≤ x.completed + 2 ^ x.ringLog2 →
        exec (.doorbellForward slice q { value := v, tick := tick }) s = .next (reportQueue slice q s1)) ∧
      (x.completed + 2 ^ x.ringLog2 < v.toNat →
        exec (.doorbellForward slice q { value := v, tick := tick }) s = .next (stopQueue slice q 0x0D
          { cause := 0x302, desc := k % 2 ^ 44, tag := descTag s slice q k, detail := 0x0D } s1))) ∧
    (x.owner = s.boot.blkId → queueOpen x = false →
      exec (.doorbellForward slice q { value := v, tick := tick }) s =
        .next (reportQueue slice q (mapQueue slice q (fun y => { y with stale := true }) s))) ∧
    (∀ (c : SliceCfg) (reg size : Nat), q < 64 → reg < 8 → s.boot.ready = true → s.boot.isLead = true → sliceCfg s slice = some c →
      let v' := if reg = 0 ∧ size = 8 then v else 0
      (x.owner = s.boot.blkId → exec (.doorbellWrite c.identity (4096 * slice + 64 * q + reg) size v) s =
        exec (.doorbellForward slice q { value := v', tick := now s }) s) ∧
      (x.owner ≠ s.boot.blkId → exec (.doorbellWrite c.identity (4096 * slice + 64 * q + reg) size v) s =
        .next (sendD2d x.owner (.doorbell slice q v' (now s)) s)))

/-- Fetching (R77, R117, R55, R70, R83): with nothing left to fetch the front end arms the queue; a descriptor that passes every check
is listed and its context is wanted; one that fails ends in a status that applies, and its queue stops (record 0x301). -/
def Obligations.DescriptorFetchListsOrRejects : Prop :=
  ∀ (s : State) (slice q : Nat) (sl : Slice) (x : Queue) (c : SliceCfg),
    findSlice s slice = some sl → findQueue s slice q = some x → sliceCfg s slice = some c → x.owner = s.boot.blkId →
    queueOpen x = true → x.quiescing = false → s.recovery.halted = false → stalled s slice (frontEngine s slice q) = false →
    (x.posted ≤ x.fetched →
      exec (.descriptorFetch slice q) s = .next (mapQueue slice q (fun y => { y with armed := true }) s)) ∧
    (∀ d : List Byte, x.fetched < x.posted →
      let va := x.ring + 64 * (x.fetched % 2 ^ x.ringLog2)
      let s1 := cachePages .l2 sl va 64 (stepFree s)
      readNow s1 sl .fetch va 64 = .ok d →
      let tag := byteField d 4 4
      (∀ o, checkDesc s1 sl c d = .ok ([], some o) →
        exec (.descriptorFetch slice q) s = .next (reportQueue slice q (wantContext slice (mapQueue slice q (fetchedQueue (now s)
          { index := x.fetched, tag := BitVec.ofNat 32 tag, ordered := byteField d 1 1 == 1, op := o, phase := .fetched }) s1)))) ∧
      (∀ b bad o, checkDesc s1 sl c d = .ok (b :: bad, o) → ∃ st ∈ b :: bad,
        exec (.descriptorFetch slice q) s = .next (stopQueue slice q st
          { cause := 0x301, desc := x.fetched % 2 ^ 44, tag := tag, detail := st } s1))) ∧
    (∀ (d : Desc) (y : Queue), ∃ e, fetchedQueue (now s) d y = { y with
        fetched := y.fetched + 1, armed := false, rung := false, state := .active, descs := y.descs ++ [e]
        rings := y.rings.filter (fun r => decide (y.fetched + 1 < r.posted))
        waitingSince := if y.descs.isEmpty then now s else y.waitingSince } ∧
      e.index = d.index ∧ e.tag = d.tag ∧ e.ordered = d.ordered ∧ e.op = d.op ∧ e.phase = d.phase)

/-- R56: a `TYPE` value outside the table is rejected with `BAD_TYPE` (0x01). -/
def Obligations.BadTypeIsRejected : Prop :=
  ∀ (s : State) (slice q : Nat) (sl : Slice) (x : Queue) (c : SliceCfg) (d : List Byte),
    findSlice s slice = some sl → findQueue s slice q = some x → sliceCfg s slice = some c → x.owner = s.boot.blkId →
    queueOpen x = true → x.quiescing = false → s.recovery.halted = false → stalled s slice (frontEngine s slice q) = false →
    x.fetched < x.posted →
    let va := x.ring + 64 * (x.fetched % 2 ^ x.ringLog2)
    let s1 := cachePages .l2 sl va 64 (stepFree s)
    readNow s1 sl .fetch va 64 = .ok d → 7 < byteField d 0 1 →
    exec (.descriptorFetch slice q) s = .next (stopQueue slice q 0x01
      { cause := 0x301, desc := x.fetched % 2 ^ 44, tag := byteField d 4 4, detail := 0x01 } s1)

/-- Stopping a queue (R83, R84) of this block: it is stopped with its status, mark and record's `SEQ`, and holds nothing in flight;
`COMPLETED` counts the descriptors from the oldest that are done, as far as a twin has acknowledged them, and no more. The queue of
another block is as it was here. Every other queue, and all of memory, SRAM, tallies and gates are unchanged. -/
def Obligations.StoppingAQueueTouchesNoOther : Prop :=
  ∀ (s : State) (slice q st : Nat) (r : FaultRecord) (x : Queue), findQueue s slice q = some x →
    let t := stopQueue slice q st r s
    let n := if mirroring s = true then min (donePrefix x.descs) (x.mirrored - x.completed) else donePrefix x.descs
    (x.owner = s.boot.blkId → ∃ y, findQueue t slice q = some y ∧
      y.state = .stopped ∧ y.dstatus = st ∧ y.guilty = decide (1 ≤ st ∧ st ≤ 13) ∧ y.victim = decide (st = 14) ∧ y.descs = [] ∧
      y.completed = x.completed + n ∧ y.fetched = y.completed ∧ y.posted = x.posted ∧ y.armed = false ∧ y.rung = false ∧ y.timer = 0 ∧
      y.quiescing = false ∧ y.faultSeq = some (nextSeq s) ∧ y.owner = x.owner ∧ y.ring = x.ring ∧ y.ringLog2 = x.ringLog2 ∧
      y.timeout = x.timeout ∧ y.stale = x.stale ∧ y.rt = x.rt) ∧
    (x.owner ≠ s.boot.blkId → findQueue t slice q = some x) ∧
    (∀ sl' q', ¬(sl' = slice ∧ q' = q) → findQueue t sl' q' = findQueue s sl' q') ∧
    t.mem = s.mem ∧ t.memKeys = s.memKeys ∧ t.sram = s.sram ∧ t.tallies = s.tallies ∧ t.gates = s.gates ∧ t.cfg = s.cfg ∧
    t.contexts = s.contexts

/-- Descriptors that complete as they start (R59, R66), and `LAUNCH` (R60): `INSTANCES` runs with numbers from 0, each with the same
parameter block, are dispatched. Where the slice's pool for the target lies on this block alone, all of them wait here for a unit; how runs are
shared among several blocks is the model's choice (log 77). Nothing else changes. -/
def Obligations.DescriptorsStartInOrder : Prop :=
  (∀ (s : State) (slice q : Nat) (sl : Slice) (x : Queue) (d : Desc), startable s slice q = some (sl, x, d) →
    (d.op = .nop → exec (.nop slice q) s = .next (startDesc slice q d.index .done s)) ∧
    (d.op = .fence → exec (.fence slice q) s = .next (startDesc slice q d.index .done s)) ∧
    (∀ prog p params plen inst target, d.op = .launch prog p params plen inst target →
      exec (.launch slice q) s = .next
        (mapDesc slice q d.index (fun e => { e with runsLeft := inst }) (startDesc slice q d.index .started
          (addRuns slice q target (fun id i => { p with
              id := id, queue := q, desc := d.index, node := none, prog := prog, param := [], paramVa := some (params, plen), instNo := i
              instances := inst, rt := x.rt, ready := now s, bases := [], tag := d.tag, since := d.freeAt.getD (now s), load := d.load })
            inst s))))) ∧
  (∀ (s : State) (slice q target n : Nat) (mk : Nat → Nat → Run), runBlocks s slice q target = [s.boot.blkId] →
    addRuns slice q target mk n s = mapSlice slice (fun y => { y with
      runs := y.runs ++ (List.range n).map (fun i => mk (y.nextRun + i) i), nextRun := y.nextRun + n }) s)

/-- Descriptors that move data (R59, R61 to R65) where their translations go ahead: `COPY` writes each piece that it reads on to its destination,
`FILL` writes its pattern, `SIGNAL` adds its value atomically modulo 2^64 (operation 0, 64-bit unsigned), and `WAIT` completes exactly when
its word is at least its value, on its first reading and on every later one, which a standing `WAIT` makes each time it is asked. Writes are in
the dirty log before they are done (R307), and requests that go to other nodes carry their virtual addresses (R292). -/
def Obligations.DescriptorsMoveData : Prop :=
  (∀ (s : State) (slice q : Nat) (sl : Slice) (x : Queue) (d : Desc),
      startable s slice q = some (sl, x, d) → stalled s slice (moverEngine s slice q) = false →
      let tc := if x.rt then 0 else 1
      let own := Owner.desc slice q d.index
      let started := startDesc slice q d.index .started (stepFree s)
      let logged := fun k va n t => logWrite own sl k va n (cachePages .l2 sl va n t)
      let named := fun ps (t : State) (u : State) => nameVa (sentCount t) ps noRow u
      (∀ src dst n ps qs, d.op = .copy src dst n →
        xlatBound (stepFree s) .l2 sl true .read src n = .ok ps → xlatBound (stepFree s) .l2 sl true .write dst n = .ok qs →
        let t := logged .write dst n (cachePages .l2 sl src n started)
        exec (.copy slice q) s = .next (named ps t ((zipPieces (ps.length + qs.length) ps qs).foldl (fun s z =>
          readPiece slice tc own (.writeOn z.2.1 z.2.2.1 slice z.2.2.2) z.1 s) t))) ∧
      (∀ dst n psize pattern qs, d.op = .fill dst n psize pattern → xlatBound (stepFree s) .l2 sl true .write dst n = .ok qs →
        let t := logged .write dst n started
        exec (.fill slice q) s = .next (named qs t (writePieces slice tc own qs
          ((List.range n).map (fun i => BitVec.ofNat 8 (pattern.toNat >>> (8 * (i % psize))))) t))) ∧
      (∀ va v p, d.op = .signal va v → xlatBound (stepFree s) .l2 sl true .atomic va 8 = .ok [p] →
        let t := logged .atomic va 8 started
        exec (.signal slice q) s = .next (named [p] t (atomPiece slice tc own .discard p.pa p.key 8 0 3 v.toNat 0 t))) ∧
      (∀ va v bs, d.op = .wait va v → sl.id = slice → readNow started sl .read va 8 = .ok bs →
        exec (.wait slice q) s = .next (mapDesc slice q d.index (fun e => { e with
          phase := if v.toNat ≤ leNat bs then .done else .started }) started))) ∧
  (∀ (s : State) (slice q : Nat) (sl : Slice) (x : Queue) (d : Desc) (va : Nat) (v : Word64) (bs : List Byte),
      findSlice s slice = some sl → sl.id = slice → findQueue s slice q = some x → queueOpen x = true → contextRuns s slice = true →
      stalled s slice (moverEngine s slice q) = false →
      x.descs.find? standingWait = some d →
      d.op = .wait va v → readNow (stepFree s) sl .read va 8 = .ok bs →
      exec (.waitReread slice q) s = .next (mapDesc slice q d.index (fun e => { e with
        phase := if v.toNat ≤ leNat bs then .done else .started }) (stepFree s)))

/-- Completion (R77, R81) where nothing waits for a twin: `COMPLETED` moves past the descriptor and every done one behind it, the timer
restarts, and the queue goes idle when everything posted is complete; descriptors that may start now are marked so (R120), and other
queues are unchanged. A head descriptor whose timer has
reached the timeout stops its queue (R83, R268), guilty with `TIMEOUT` (0x0C, record 0x601), or as a victim (0x0E, record 0x602) where its run
waits at a start gate. -/
def Obligations.DescriptorsEndOrTimeOut : Prop :=
  (∀ (s : State) (slice q : Nat) (sl : Slice) (x : Queue) (d : Desc) (rest : List Desc),
      findSlice s slice = some sl → findQueue s slice q = some x → queueOpen x = true → x.quiescing = false → mirroring s = false →
      x.descs = d :: rest → (∀ e ∈ rest, e.index ≠ d.index) → descFinished s sl q d = true →
      ∃ t, exec (.descriptorComplete slice q d.index) s = .next t ∧
        findQueue t slice q = some { x with
          completed := x.completed + 1 + donePrefix rest, timer := 0, waitingSince := now s
          descs := (markFree (now s) [] ({ d with phase := .done } :: rest)).drop (1 + donePrefix rest)
          state := if x.completed + 1 + donePrefix rest = x.posted then .idle else x.state } ∧
        (∀ sl' q', ¬(sl' = slice ∧ q' = q) → findQueue t sl' q' = findQueue s sl' q') ∧
        t.tallies = s.tallies ∧ t.units = s.units) ∧
  (∀ (s : State) (slice q : Nat) (x : Queue), findQueue s slice q = some x → queueOpen x = true → x.descs.all descDone = false → x.timeout ≤ x.timer →
      let k := x.completed + donePrefix x.descs
      let tag := descTag s slice q k
      (openGate s slice q = none → exec (.queueTimeout slice q) s =
        .next (stopQueue slice q 0x0C { cause := 0x601, desc := k % 2 ^ 44, tag := tag, detail := 0x0C } s)) ∧
      (∀ u e, openGate s slice q = some (u, e) → ∃ addr, exec (.queueTimeout slice q) s =
        .next (stopQueue slice q 0x0E {
          cause := 0x602, engine := engineId s u.unit e.eng, pc := e.pc, desc := k % 2 ^ 44, tag := tag, addr := addr } s)))

/-! ### Stored graphs and runs (spec/02, spec/06) -/

/-- R71: a launch of a graph sees what the launch before it saw, with its own patches applied in entry order, the first launch the image's
initial values; a word that patches name takes the last one's value, and every other word keeps its value. -/
def Obligations.PatchesApplyInOrder : Prop :=
  (∀ (q k n t : Nat) (o : Bool) (ps : List (Nat × Word32)) (g : Graph),
    let seen := fun (g : Graph) (i : Nat) => if i % 2 = 0 then g.even else g.odd
    let g' := launchGraph q k n t o ps g
    g'.next = g.next + 1 ∧
    (g.next ≠ 0 → seen g' g.next = applyPatches (seen g (g.next - 1)) ps) ∧ (g.next = 0 → seen g' 0 = applyPatches (seen g 0) ps)) ∧
  (∀ (w : List Word32) (ps qs : List (Nat × Word32)) (i : Nat) (v : Word32), i < w.length → (∀ p ∈ qs, p.1 ≠ i) →
    (applyPatches w (ps ++ (i, v) :: qs))[i]? = some v ∧ (applyPatches w qs)[i]? = w[i]?) ∧
  (∀ (h b l gen q : Nat) (im : GraphImage), (freshGraph h b l gen q im).even = im.init ∧ (freshGraph h b l gen q im).next = 0)

/-- `LAUNCH_GRAPH` (R71 to R76, R236, R448): the launch of a graph whose check is not due starts with its patches applied to the graph's parameter
state; the first launch of a handle checks the image and starts from its initial values; a patch beyond the block is rejected
(`BAD_PATCH`, 0x0A). Here no twin holds the launch back. `GRAPH_NODE_START` (R235, R73, R74): a node that may start gets its runs, with
its own words of the launch's buffer as parameters. -/
def Obligations.GraphLaunches : Prop :=
  (∀ (s : State) (slice q : Nat) (sl : Slice) (x : Queue) (d : Desc) (h image len gen : Nat) (ps : List (Nat × Word32)),
      startable s slice q = some (sl, x, d) → d.op = .launchGraph h image len gen ps → stepMayStart (stepFree s) sl = true →
      stalled s slice (frontEngine s slice q) = false →
      let go := fun (g : Graph) => if g.even.length = 0 ∨ ps.any (fun p => decide (g.even.length ≤ p.1)) = true
        then rejectDesc slice q d.index d.tag.toNat 0x0A (stepFree s)
        else startDesc slice q d.index .started (mirrorParams slice h
          (mapSlice slice (putGraph (launchGraph q d.index (sl.step + 1) (now s) d.ordered ps g)) (stepFree s)))
      (∀ g, sl.graphs.find? (fun g => g.handle == h) = some g → g.base = image → g.len = len → g.gen = gen → q ∈ g.queues →
        g.launches.length < 2 → exec (.launchGraph slice q) s = .next (go g)) ∧
      (∀ im, sl.graphs.find? (fun g => g.handle == h) = none → sl.graphs.length < 64 →
        checkGraph (stepFree s) sl image len = .ok (some im) →
        exec (.launchGraph slice q) s = .next (go (freshGraph h image len gen q im)))) ∧
  (∀ (s : State) (slice h l n : Nat) (sl : Slice) (g : Graph) (gl : GLaunch) (nd : GNode) (x : Queue),
      findSlice s slice = some sl → sl.graphs.find? (fun g => g.handle == h) = some g → g.launches.find? (fun y => y.number == l) = some gl →
      g.nodes[n]? = some nd → findQueue s slice gl.queue = some x → nodeMayStart s g gl n = true → contextRuns s slice = true →
      sl.aborted = false → queueOpen x = true →
      let d := x.descs.find? (fun e => e.index == gl.desc)
      exec (.graphNodeStart slice h l n) s = .next
        (mapSlice slice (mapLaunch h l (fun y => { y with nodes := y.nodes.set n (some nd.instances) }))
          (addRuns slice gl.queue nd.target (fun id i => { nd.program with
              id := id, queue := gl.queue, desc := gl.desc, node := some (h, l, n), prog := nd.prog, param := nodeParams g gl nd
              paramVa := none, instNo := i, instances := nd.instances, rt := x.rt, ready := now s, bases := []
              tag := (d.map Desc.tag).getD 0, since := (d.bind Desc.freeAt).getD (now s), load := (d.map Desc.load).getD 0 })
            nd.instances s)))

/-- Runs start and complete (R60, R106, R201, R204, R205, R246). A unit that serves the slice and whose sequencer is free takes the first run in the order
of R106: the run leaves the slice's list, its registers hold what R201 gives, and its tally bases are the tallies' `E`. A halted run with no
instruction left in any engine queue leaves its unit, its pairs are dissolved, and its descriptor has one run fewer to wait for, or the block
that dispatched it is told. The scheduler core that dispatches a run has given a sign of progress (R435). -/
def Obligations.RunsStartAndComplete : Prop :=
  (∀ (s : State) (u : UnitId) (slice : Nat) (x : UnitCtx) (sl : Slice) (r : Run),
      findUnit s u slice = some x → findSlice s slice = some sl → currentSlice s u = some slice → contextRuns s slice = true →
      x.seq = none → x.stopping = false → sl.aborted = false → pickRun s slice (sl.runs.filter (unitTakes s slice u)) = some r →
      r.rt = false → r.paramVa = none → stalled s slice (u, 0, 2 ^ 33 + r.id) = false →
      (r.tallyCount = 0 ∨ r.tallyFirst + r.tallyCount ≤ tallyCount (stepFree s) slice u) →
      exec (.runStart u slice) s = .next (mapContext slice (fun c => { c with lastDispatch := now s })
        (mapUnit u slice (fun y => { y with seq := some {
            run := { r with bases := (List.range r.tallyCount).map (fun i => (expectOf y (r.tallyFirst + i)).toNat) }
            s := initialRegs r r.param } })
          (coreSigns r (mapSlice slice (fun y => { y with runs := y.runs.filter (fun z => z.id != r.id) }) (stepFree s)))))) ∧
  (∀ (s : State) (u : UnitId) (slice run : Nat) (x : UnitCtx) (r : Run),
      findUnit s u slice = some x → x.draining.find? (fun r => r.id == run) = some r → (∀ e ∈ x.insns, e.run ≠ run) →
      let t := mapUnit u slice (fun y => { y with draining := y.draining.filter (fun z => z.id != run) }) (dissolveRunPairs u slice run s)
      (r.home = none → r.node = none → exec (.runComplete u slice run) s = .next
        (mapDesc slice r.queue r.desc (fun d => { d with runsLeft := d.runsLeft - 1 }) t)) ∧
      (∀ b, r.home = some b → exec (.runComplete u slice run) s = .next (sendD2d b (.mgmt (.runDone slice r.queue r.desc r.node)) t)))

/-- R201: when a sequencer takes a run, its s registers hold the parameter words that `REG_INIT` names, the instance number in s30, the
number of instances in s31 and 0 elsewhere, and every a and t register is 0. -/
def Obligations.InitialRegisters : Prop :=
  ∀ (r : Run) (param : List Byte) (x : UnitCtx), r.instNo < 2 ^ 64 → r.instances < 2 ^ 64 →
    ∃ z, (beginRun r param x).seq = some z ∧ z.run.param = param ∧ z.pc = 0 ∧ (∀ j, aReg z j = 0 ∧ tReg z j = 0) ∧
      ∀ i, i < 32 → (sReg z i).toNat =
        if i = 30 then r.instNo else if i = 31 then r.instances
        else if r.regInit.testBit i then leNat ((param.drop (8 * i)).take 8) else 0

/-! ### The sequencer (spec/06, spec/04) -/

/-- Scalar instructions (R220, R221, R584, spec/06 "Control and scalar"): `ADD` wraps modulo 2^64 and takes the sign-extended immediate with
`FLG`[0]; `MOV` does what its `SUB` says; `LDP` reads the parameter block at a word offset, or SRAM with `FLG`[0]. `SHL` shifts left (`SUB` 0),
right with zeros (1) or right with copies of the sign (2); amounts of 64 and more give 0, and all sign bits for `SUB` 2; with `FLG`[0] the
amount is bits [5:0] of the immediate, otherwise all of register s*b*. Each writes one register and goes on to the next word; nothing
else changes. An `LDP` that finds a word of SRAM with two bad symbols faults (`SRAM_UNCORRECTABLE` 0x501, R138). -/
def Obligations.ScalarInstructions : Prop :=
  (∀ (s : State) (u : UnitId) (x : UnitCtx) (z : Seq) (sl : Slice) (w : InsnWord),
      AtWord s u x z sl w → z.pc + 1 < z.run.nwords →
      let put := fun (z' : Seq) => putSeq x { z' with pc := z.pc + 1 } (fetchStep u sl z s)
      let d := rd w
      let a := sReg z (ra w)
      (opOf w = 0x10 → exec (.add u) s =
        .next (put (setS d (a + (if flgOf w 0 then (BitVec.ofNat 32 (fld 31 0 w)).signExtend 64 else sReg z (rb w))) z))) ∧
      (opOf w = 0x13 →
        (subOf w = 0 → exec (.mov u) s = .next (put (setS d (BitVec.ofNat 64 (fld 63 0 w)) z))) ∧
        (subOf w = 1 → exec (.mov u) s = .next (put (setS d a z))) ∧
        (subOf w = 2 → exec (.mov u) s = .next (put (setA d a z))) ∧
        (subOf w = 3 → exec (.mov u) s = .next (put (setS d (aReg z (ra w)) z))) ∧
        (subOf w = 4 → exec (.mov u) s = .next (put (setA d (aReg z (ra w) + sReg z (rb w)) z))) ∧
        (subOf w = 5 → exec (.mov u) s = .next (put (setT d (setTileField (fld 98 96 w) a (tReg z d)) z))) ∧
        (subOf w = 6 → exec (.mov u) s = .next (put (setT d (tReg z (ra w)) z)))) ∧
      (opOf w = 0x12 →
        let n := if subOf w = 2 then 32 else 8
        let dest := fun (bs : List Byte) =>
          if subOf w = 0 then setS d (BitVec.ofNat 64 (leNat bs)) z
          else if subOf w = 1 then setA d (BitVec.ofNat 64 (leNat bs)) z else setT d (BitVec.ofNat 256 (leNat bs)) z
        let o := 4 * fld 31 0 w
        let i := (a + BitVec.ofNat 64 (fld 31 0 w)).toNat
        (flgOf w 0 = false → o % n = 0 → o + n ≤ z.run.param.length →
          exec (.ldp u) s = .next (put (dest ((z.run.param.drop o).take n)))) ∧
        (flgOf w 0 = true → i % n = 0 → i + n ≤ sramSize (fetchStep u sl z s) x.slice x.unit →
          (badWords (fetchStep u sl z s) x.slice x.unit [(i, n)] = [] →
            exec (.ldp u) s = .next (put (dest (sramRead (fetchStep u sl z s) x.slice x.unit i n)))) ∧
          (2 ∈ badWords (fetchStep u sl z s) x.slice x.unit [(i, n)] → exec (.ldp u) s = .next (seqFault x z z.pc 0x501 0 0 (fetchStep u sl z s)))) ∧
        (flgOf w 0 = false → (o % n ≠ 0 ∨ z.run.param.length < o + n) →
          exec (.ldp u) s = .next (seqFault x z z.pc 0x306 0 0 (fetchStep u sl z s))))) ∧
  (∀ (s : State) (u : UnitId) (x : UnitCtx) (z : Seq) (sl : Slice) (w : InsnWord),
      AtWord s u x z sl w → opOf w = 0x11 → z.pc + 1 < z.run.nwords →
      let v := sReg z (ra w)
      let n := if flgOf w 0 then fld 5 0 w else (sReg z (rb w)).toNat
      ∃ r : Word64, exec (.shl u) s = .next (putSeq x { setS (rd w) r z with pc := z.pc + 1 } (fetchStep u sl z s)) ∧
        (subOf w = 0 → r.toNat = v.toNat * 2 ^ n % 2 ^ 64) ∧ (subOf w = 1 → r.toNat = v.toNat / 2 ^ n) ∧
        (subOf w = 2 → r.toInt = v.toInt / 2 ^ n))

/-- R218, R217, R219: where a branch and a loop continue, which loops a branch closes, and where they fault (`PC_RANGE` 0x304,
`LOOP_DEPTH` 0x305). -/
def Obligations.BranchesAndLoops : Prop :=
  ∀ (s : State) (u : UnitId) (x : UnitCtx) (z : Seq) (sl : Slice) (w : InsnWord), AtWord s u x z sl w →
    let s1 := fetchStep u sl z s
    let t := (z.pc : Int) + imm32 w
    let a := sReg z (rd w)
    let b := sReg z (ra w)
    let taken := if subOf w = 0 then true else if subOf w = 1 then decide (a = 0) else if subOf w = 2 then decide (a ≠ 0)
      else if subOf w = 3 then decide (a.toInt < b.toInt) else if subOf w = 4 then decide (b.toInt ≤ a.toInt) else decide (a.toNat < b.toNat)
    (opOf w = 0x01 →
      ((t < 0 ∨ (z.run.nwords : Int) ≤ t) → exec (.br u) s = .next (seqFault x z z.pc 0x304 0 0 s1)) ∧
      (0 ≤ t → t < (z.run.nwords : Int) →
        (taken = true → exec (.br u) s = .next (putSeq x { z with loops := closeLoops t.toNat z.loops, pc := t.toNat } s1)) ∧
        (taken = false → z.pc + 1 < z.run.nwords → exec (.br u) s = .next (putSeq x { z with pc := z.pc + 1 } s1)))) ∧
    (opOf w = 0x02 →
      ((imm32 w ≤ 0 ∨ (z.run.nwords : Int) ≤ t) → exec (.loop u) s = .next (seqFault x z z.pc 0x304 0 0 s1)) ∧
      (∀ v, 0 < imm32 w → t < (z.run.nwords : Int) → readWord s1 u sl z.run t.toNat = .ok v →
        (opOf v ≠ 0x03 → exec (.loop u) s = .next (seqFault x z z.pc 0x304 0 0 s1)) ∧
        (opOf v = 0x03 →
          (4 ≤ z.loops.length → exec (.loop u) s = .next (seqFault x z z.pc 0x305 0 0 s1)) ∧
          (z.loops.length < 4 → a = 0 → t.toNat + 1 < z.run.nwords → exec (.loop u) s = .next (putSeq x { z with pc := t.toNat + 1 } s1)) ∧
          (z.loops.length < 4 → a ≠ 0 → z.pc + 1 < z.run.nwords → exec (.loop u) s = .next (putSeq x { setS (ra w) 0 z with
            loops := { start := z.pc, stop := t.toNat, left := a.toNat, index := ra w, pass := 0 } :: z.loops, pc := z.pc + 1 } s1))))) ∧
    (opOf w = 0x03 →
      (z.loops = [] → exec (.endloop u) s = .next (seqFault x z z.pc 0x305 0 0 s1)) ∧
      (∀ l ls, z.loops = l :: ls →
        (1 < l.left → l.start + 1 < z.run.nwords → exec (.endloop u) s = .next (putSeq x { setS l.index (BitVec.ofNat 64 (l.pass + 1)) z with
          loops := { l with left := l.left - 1, pass := l.pass + 1 } :: ls, pc := l.start + 1 } s1)) ∧
        (l.left ≤ 1 → z.pc + 1 < z.run.nwords → exec (.endloop u) s = .next (putSeq x { z with loops := ls, pc := z.pc + 1 } s1)))) ∧
    (opOf w = 0x04 → exec (.halt u) s = .next (mapUnit x.unit x.slice (fun y => { haltExpect z.run y with
      seq := none, draining := y.draining ++ [z.run] }) s1))

/-- R204: `HALT` adds `INC` to `E` for each tally in the run's range, and to no other. -/
def Obligations.HaltRaisesExpectations : Prop :=
  ∀ (r : Run) (x : UnitCtx) (i : Nat), Sparse.sorted x.expect = true →
    expectOf (haltExpect r x) i =
      if r.tallyFirst ≤ i ∧ i < r.tallyFirst + r.tallyCount then expectOf x i + BitVec.ofNat 48 (r.incs.getD (i - r.tallyFirst) 0)
      else expectOf x i

/-! ### Engine queues and engine instructions (spec/04, spec/06, spec/07) -/

/-- R124, R125: an instruction of an engine goes to the tail of its engine's queue, with the register values it names, and the sequencer
goes on; with 16 instructions in that queue it issues nothing. All of `DMA_LD`, `DMA_ST`, `DMA_COPY`, `DMA_BCAST`, `GATHER`, `SCATTER`,
`WALK`, `SORT`, `MERGE`, `ISECT`, `UNION`, `MMA`, `MMA_C`, `MMA_X`, `MMA_CX`, `VOP`, `VRED`, `PUT`, `GET`, `ATOM`, `REDUCE`, `PSIG`, `GATE`,
`EPCALL`, and `SIG`, `WAITGE` and both `PAIRCHK`s where their `ENG` is not 0. -/
def Obligations.EngineInstructionsQueue : Prop :=
  ∀ (s : State) (u : UnitId) (x : UnitCtx) (z : Seq) (sl : Slice) (w : InsnWord) (c : Instr), AtWord s u x z sl w →
    ((c, opOf w) ∈ queuedCommands u ∨ ((c, true) ∈ tallyCommands u w ∧ engOf w ≠ 0)) →
    let full := 16 ≤ (x.insns.filter (fun e => e.eng == engOf w)).length
    (full → exec c s = .next (fetchStep u sl z s)) ∧
    (¬full → z.pc + 1 < z.run.nwords → exec c s = .next
      (putSeq x { z with pc := z.pc + 1 }
        (mapUnit x.unit x.slice (fun y => { y with insns := y.insns ++ [capture x z w], nextInsn := y.nextInsn + 1 }) (fetchStep u sl z s))))

/-- Tally instructions (R133, R215, R238, R241, R243, R244, R246) at a queue head behind no other instruction, and of the sequencer itself
(`ENG` 0) as they are issued, on tallies in range: `SIG` adds its amount; `WAITGE` completes when its tally has reached the threshold and waits
otherwise, on its first look and on every later one; `PAIRCHK` declares a valid pair and dissolves one that stands, and faults `SYNC_PAIR`
(0x203) otherwise. Here the run that issued the instruction is still on its unit. -/
def Obligations.TallyInstructions : Prop :=
  (∀ (s : State) (u : UnitId) (eng : Nat) (x : UnitCtx) (e : EngInsn) (sl : Slice) (r : Run),
    AtHead s u eng x e sl → oldest x e = true → insnRun x e = some r →
    let s1 := stepFree s
    let done := retire x e.id s1
    let i := fld 55 48 e.word
    let c := fld 63 56 e.word
    let t := tally s1 x.slice x.unit i
    let met := fld 47 0 e.word + (if flgOf e.word 0 then r.bases.getD (i - r.tallyFirst) 0 else 0) +
      (if flgOf e.word 1 then e.sX.toNat else 0) ≤ t.value.toNat
    (opOf e.word = 0x80 → tallyOk s1 x r i = true → exec (.sig u (.head eng)) s =
      .next (addTallyFrom { eng := e.eng, pc := e.pc } x.unit x.slice i (fld 47 32 e.word) done)) ∧
    (opOf e.word = 0x81 → tallyOk s1 x r i = true → t.poison = false → t.sat = false →
      (met → exec (.waitge u (.head eng)) s = .next done) ∧
      (met → e.started = true → eng ≠ 0 → exec (.waitgeWake u eng) s = .next done) ∧
      (¬met → exec (.waitge u (.head eng)) s = .next (mapInsn x e.id (fun y => { y with started := true }) s1))) ∧
    (opOf e.word = 0x82 → tallyOk s1 x r i = true → tallyOk s1 x r c = true →
      (subOf e.word = 0 → pairInvalid s1 x e.word = false →
        exec (.pairchkDeclare u (.head eng)) s = .next (declarePair x r e.word done)) ∧
      (subOf e.word = 0 → pairInvalid s1 x e.word = true →
        exec (.pairchkDeclare u (.head eng)) s = .next (insnFault x e 0x203 (syncAddr s1 x.unit i c) 0 s1)) ∧
      (subOf e.word = 1 → pairStands x e.word = true →
        exec (.pairchkDissolve u (.head eng)) s = .next (dissolvePair x e.word done)) ∧
      (subOf e.word = 1 → pairStands x e.word = false →
        exec (.pairchkDissolve u (.head eng)) s = .next (insnFault x e 0x203 (syncAddr s1 x.unit i c) 0 s1)))) ∧
  (∀ (s : State) (u : UnitId) (x : UnitCtx) (z : Seq) (sl : Slice) (w : InsnWord), AtWord s u x z sl w → engOf w = 0 →
    let s1 := fetchStep u sl z s
    let i := fld 55 48 w
    let c := fld 63 56 w
    let t := tally s1 x.slice x.unit i
    let met := fld 47 0 w + (if flgOf w 0 then z.run.bases.getD (i - z.run.tallyFirst) 0 else 0) +
      (if flgOf w 1 then (sReg z (rd w)).toNat else 0) ≤ t.value.toNat
    tallyOk s1 x z.run i = true →
    (opOf w = 0x80 → exec (.sig u .issue) s = .next (goNextIf x z (addTallyFrom { pc := z.pc } x.unit x.slice i (fld 47 32 w) s1))) ∧
    (opOf w = 0x81 → t.poison = false → t.sat = false → z.pc + 1 < z.run.nwords →
      (met → exec (.waitge u .issue) s = .next (putSeq x { z with pc := z.pc + 1 } s1) ∧
        exec (.waitgeWake u 0) s = .next (putSeq x { z with pc := z.pc + 1 } s1)) ∧
      (¬met → exec (.waitge u .issue) s = .next s1)) ∧
    (opOf w = 0x82 → tallyOk s1 x z.run c = true →
      (subOf w = 0 → pairInvalid s1 x w = false → exec (.pairchkDeclare u .issue) s = .next (goNextIf x z (declarePair x z.run w s1))) ∧
      (subOf w = 1 → pairStands x w = true → exec (.pairchkDissolve u .issue) s = .next (goNextIf x z (dissolvePair x w s1)))))

/-- R240: a `WAITGE` on a tally with `SAT` faults `SYNC_SATURATED` (0x202) whatever its threshold, at its queue head, waiting, or on `ENG` 0;
with `POISON` it faults `SYNC_ORPHAN` (0x207), whether or not `SAT` is set. -/
def Obligations.WaitOnSaturatedFaults : Prop :=
  (∀ (s : State) (u : UnitId) (eng : Nat) (x : UnitCtx) (e : EngInsn) (sl : Slice) (r : Run),
    AtHead s u eng x e sl → opOf e.word = 0x81 → insnRun x e = some r →
    let s1 := stepFree s
    let i := fld 55 48 e.word
    let t := tally s1 x.slice x.unit i
    tallyOk s1 x r i = true → (t.sat = true ∨ t.poison = true) →
    let out := Host.Outcome.next (insnFault x e (if t.poison then 0x207 else 0x202) (syncAddr s1 x.unit i 0) 0 s1)
    exec (.waitge u (.head eng)) s = out ∧ (e.started = true → eng ≠ 0 → exec (.waitgeWake u eng) s = out)) ∧
  (∀ (s : State) (u : UnitId) (x : UnitCtx) (z : Seq) (sl : Slice) (w : InsnWord),
    AtWord s u x z sl w → opOf w = 0x81 → engOf w = 0 →
    let s1 := fetchStep u sl z s
    let i := fld 55 48 w
    let t := tally s1 x.slice x.unit i
    tallyOk s1 x z.run i = true → (t.sat = true ∨ t.poison = true) →
    let out := Host.Outcome.next (seqFault x z z.pc (if t.poison then 0x207 else 0x202) (syncAddr s1 x.unit i 0) 0 s1)
    exec (.waitge u .issue) s = out ∧ exec (.waitgeWake u 0) s = out)

/-- An increment (R239, R245, R253): a poisoned tally discards it; otherwise `VALUE` becomes the smaller of the sum and 2^48 - 1, `SAT` is
set when it is that, and no increment ever clears `SAT`; no other tally changes. Here no pair is broken by it. -/
def Obligations.IncrementsSaturate : Prop :=
  ∀ (s : State) (u : UnitId) (slice i amount k : Nat), tallyKey s slice u i = some k → Sparse.sorted s.tallies = true →
    let t := addTally u slice i amount s
    let old := tallyAt s k
    (old.poison = true → t = s) ∧
    (old.poison = false → (∀ x, findUnit s u slice = some x → x.pairs = []) →
      tallyAt t k = { old with
        value := BitVec.ofNat 48 (min (old.value.toNat + amount) (2 ^ 48 - 1))
        sat := old.sat || decide (2 ^ 48 - 1 ≤ old.value.toNat + amount) } ∧
      (∀ j, j ≠ k → tallyAt t j = tallyAt s j) ∧ t.mem = s.mem ∧ t.sram = s.sram ∧ t.queues = s.queues ∧ t.units = s.units)

/-- Start gates (R263 to R266): a `GATE` at the head sends its arrival once, to the gate at its own node or as a packet, and stays; one whose
expected count is not 1 to 4,096 faults with `MALFORMED` (0x703: the sender's own refusal is the model's choice, log 23); at
the gate an arrival of another tag, generation or expected count, or a second one of the same participant, is refused, and the gate is
unchanged; an accepted one is counted and listed, and a met count releases every listed participant and opens the next generation. -/
def Obligations.StartGates : Prop :=
  (∀ (s : State) (u : UnitId) (eng : Nat) (x : UnitCtx) (e : EngInsn) (sl : Slice), AtHead s u eng x e sl → oldest x e = true →
    opOf e.word = 0x83 → e.started = false → insnTallyOk (stepFree s) x e (fld 47 40 e.word) = true →
    let a := gateArrival (stepFree s) x e.word
    let s1 := mapInsn x e.id (fun y => { y with started := true }) (stepFree s)
    let home := fld 75 64 e.word
    ((a.expected = 0 ∨ 4096 < a.expected) → exec (.gate u (.head eng)) s = .next (insnFault x e 0x703 0 0 s1)) ∧
    (1 ≤ a.expected → a.expected ≤ 4096 → home = ownNode s → s.fab.assumed.contains home = false →
      (∀ g, arriveAt a (gateAt s a.gate) = .ok g → exec (.gate u (.head eng)) s = .next (placeArrival a.gate g s1)) ∧
      (∀ c, arriveAt a (gateAt s a.gate) = .error c → exec (.gate u (.head eng)) s = .next (insnFault x e c 0 0 s1))) ∧
    (1 ≤ a.expected → a.expected ≤ 4096 → home ≠ ownNode s → s.fab.assumed.contains home = false → ∃ payload, exec (.gate u (.head eng)) s = .next
      (sendRequest x.slice { blankPacket with
        type := 6, tc := classOf (stepFree s) sl.id e.queue, dnode := home, len := 16, payload := payload }
        (.insn x.unit x.slice e.id) .discard s1))) ∧
  (∀ (a : Arrival) (g : Gate), g.free = false → g.takeNext = false →
    arriveAt a g =
      if g.tag ≠ a.tag then .error 0x20A else if g.gen.toNat ≠ a.gen then .error 0x20B
      else if 0 < g.count ∧ g.expected ≠ a.expected then .error 0x20C else if a.who ∈ g.list then .error 0x20D
      else .ok { g with expected := if g.count = 0 then a.expected else g.expected, count := g.count + 1, list := g.list ++ [a.who] }) ∧
  (∀ (s : State) (k : Nat) (g : Gate), Sparse.sorted s.gates = true →
    gateAt (placeArrival k g s) k = (if g.count = g.expected then { g with gen := g.gen + 1, count := 0, list := [] } else g) ∧
    (∀ j, j ≠ k → gateAt (placeArrival k g s) j = gateAt s j))

/-- DMA instructions (R126, R133, R162, R163, R209, R213, R577, R585): at the head of queue 8 with nothing before it, an instruction with an
empty source moves nothing and is whole; one whose SRAM places lie outside the partition faults (`SRAM_RANGE`, 0x307); any other asks for
each item of its walk in turn, cut where its memory side reaches a multiple of 512 bytes: a read landing in SRAM (`DMA.LD`), a write of SRAM
bytes (`DMA.ST`), a read written on (`DMA.COPY`), and a landing in every cluster named that the context holds, `BCAST_TARGET` (0x309) otherwise
(`DMA.BCAST`). `AR` applies to the first tile whose `SPACE` is 1 and `AR2` to the next. Two bad symbols in a word that a `DMA.ST` reads are a
fault (`SRAM_UNCORRECTABLE` 0x501, R138). -/
def Obligations.DmaInstructionsMove : Prop :=
  (∀ (s : State) (u : UnitId) (eng : Nat) (x : UnitCtx) (e : EngInsn) (sl : Slice), AtHead s u eng x e sl → oldest x e = true →
    let s1 := stepFree s
    let src := s1T e
    let dst := dT e
    let n := tLen0 src
    let from' := walkOf src src
    let to' := walkOf src dst
    let sa := memBase src (addrReg e 1)
    let da := memBase dst (addrReg e 0)
    let whole := mapInsn x e.id (fun y => { y with started := true, issued := true }) s1
    let out := Host.Outcome.next (insnFault x e 0x307 0 0 s1)
    let reads := fun (units : List UnitId) => (cutItems sa n (List.zip from' to')).map (fun o => ({
      row := noRow, tile := o.1, refs := [{ va := o.2.1, len := o.2.2.2, seg := bindSegment sl.inForce sa, access := .read }]
      act := .land units (sramBase dst + o.2.2.1) } : Job))
    (tEmpty src = true →
      (opOf e.word = 0x20 → exec (.dmaLd u (.head eng)) s = .next whole) ∧
      (opOf e.word = 0x21 → exec (.dmaSt u (.head eng)) s = .next whole) ∧
      (opOf e.word = 0x22 → exec (.dmaCopy u (.head eng)) s = .next whole) ∧
      (opOf e.word = 0x23 → exec (.dmaBcast u (.head eng)) s = .next whole)) ∧
    (tEmpty src = false →
      (opOf e.word = 0x20 → sramOk s1 x x.unit (sramBase dst) to' n = false → exec (.dmaLd u (.head eng)) s = out) ∧
      (opOf e.word = 0x21 → sramOk s1 x x.unit (sramBase src) from' n = false → exec (.dmaSt u (.head eng)) s = out) ∧
      (opOf e.word = 0x20 → sramOk s1 x x.unit (sramBase dst) to' n = true →
        exec (.dmaLd u (.head eng)) s = .next (goJobs x e sl (reads [x.unit]) s1)) ∧
      (opOf e.word = 0x21 → sramOk s1 x x.unit (sramBase src) from' n = true → e.started = false →
        2 ∈ badWords s1 x.slice x.unit (walkRanges (sramBase src) from' n) →
        exec (.dmaSt u (.head eng)) s = .next (insnFault x e 0x501 0 0 s1)) ∧
      (opOf e.word = 0x21 → sramOk s1 x x.unit (sramBase src) from' n = true →
        badWords s1 x.slice x.unit (walkRanges (sramBase src) from' n) = [] → exec (.dmaSt u (.head eng)) s =
        .next (goJobs x e sl ((cutItems da n (List.zip to' from')).map (fun o =>
          { row := noRow, tile := o.1, refs := [{ va := o.2.1, len := o.2.2.2, seg := bindSegment sl.inForce da, access := .write }]
            act := .put (sramBase src + o.2.2.1) })) s1)) ∧
      (opOf e.word = 0x22 → exec (.dmaCopy u (.head eng)) s =
        .next (goJobs x e sl ((cutItems sa n (List.zip from' to')).map (fun o =>
          { row := noRow, tile := o.1
            refs := [{ va := o.2.1, len := o.2.2.2, seg := bindSegment sl.inForce sa, access := .read },
              { va := da + o.2.2.1, len := o.2.2.2, seg := bindSegment sl.inForce da, access := .write }]
            act := .copy })) s1)) ∧
      (opOf e.word = 0x23 →
        let named := maskUnits (fld 31 0 e.word)
        let fits := named.all (fun v => sramOk s1 x v (sramBase dst) to' n)
        (e.started = false → named.all (holdsCluster s1 x.slice) = false →
          exec (.dmaBcast u (.head eng)) s = .next (insnFault x e 0x309 0 0 s1)) ∧
        (e.started = false → named.all (holdsCluster s1 x.slice) = true → fits = false → exec (.dmaBcast u (.head eng)) s = out) ∧
        ((e.started = true ∨ (named.all (holdsCluster s1 x.slice) = true ∧ fits = true)) →
          (tMem src = true → exec (.dmaBcast u (.head eng)) s = .next (goJobs x e sl (reads named) s1)) ∧
          (tMem src = false → sramOk s1 x x.unit (sramBase src) from' n = true →
            badWords s1 x.slice x.unit (walkRanges (sramBase src) from' n) = [] →
            exec (.dmaBcast u (.head eng)) s = .next (goJobs x e sl (((List.range from'.length).zip (List.zip from' to')).map (fun o =>
              { row := noRow, tile := o.1, refs := [], act := .spread named (sramBase src + o.2.1) (sramBase dst + o.2.2) n })) s1)))))) ∧
  (∀ (e : EngInsn), opOf e.word ≠ 0x30 → opOf e.word ≠ 0x31 → opOf e.word ≠ 0x32 →
    addrReg e 0 = (if tMem (dT e) = true then e.ar else 0) ∧
    addrReg e 1 = (if tMem (s1T e) = false then 0 else if tMem (dT e) = true then e.ar2 else e.ar))

/-- `GATHER`, `SCATTER` and `WALK` (R147, R149, R150, R152 to R155): rows at the list's indices, read into SRAM or, departing, written on
(packed into full payloads where they are short and follow each other); rows stored or added; a row size out of range is `BAD_SIZE` (0x30C) and a format that cannot be added `BAD_FORMAT` (0x30B); `WALK` with `SUB` 1
clears the filter, and otherwise walks its frontier. -/
def Obligations.GatherScatterWalk : Prop :=
  ∀ (s : State) (u : UnitId) (eng : Nat) (x : UnitCtx) (e : EngInsn) (sl : Slice), AtHead s u eng x e sl → oldest x e = true →
    let s1 := stepFree s
    let idx := indexList s1 x (s2T e)
    (opOf e.word = 0x30 →
      (rowSizeOk (tLen0 (s1T e)) (tPitch1 (dT e)) = false → exec (.gather u (.head eng)) s = .next (insnFault x e 0x30C 0 0 s1)) ∧
      (rowSizeOk (tLen0 (s1T e)) (tPitch1 (dT e)) = true → tEmpty (s1T e) = false → tEmpty (s2T e) = false → indexOk s1 x (s2T e) = true →
        (subOf e.word ≠ 0 ∨ sramOk s1 x x.unit (sramBase (dT e)) ((List.range (tLen1 (s2T e))).map (fun j => j * tPitch1 (dT e)))
          (tLen0 (s1T e)) = true) → badWords s1 x.slice x.unit (indexRanges (s2T e)) = [] →
        exec (.gather u (.head eng)) s = .next ((if packedRows e then goPacked else goJobs) x e sl (gatherJobs sl x e idx) s1))) ∧
    (opOf e.word = 0x31 → e.issued = false →
      (flgOf e.word 0 = true → scatterAdd (tFmt (dT e)) = none → exec (.scatter u (.head eng)) s = .next (insnFault x e 0x30B 0 0 s1)) ∧
      ((flgOf e.word 0 = false ∨ scatterAdd (tFmt (dT e)) ≠ none) → rowSizeOk (tLen0 (dT e)) (tPitch1 (s1T e)) = true →
        tLen0 (dT e) ≠ 0 → tLen1 (s1T e) ≠ 0 → tLen2 (s1T e) ≠ 0 → tEmpty (s2T e) = false → indexOk s1 x (s2T e) = true →
        sramOk s1 x x.unit (sramBase (s1T e)) ((List.range (tLen1 (s2T e))).map (fun j => j * tPitch1 (s1T e))) (tLen0 (dT e)) = true →
        badWords s1 x.slice x.unit (indexRanges (s2T e) ++ walkRanges (sramBase (s1T e))
          ((List.range (tLen1 (s2T e))).map (fun j => j * tPitch1 (s1T e))) (tLen0 (dT e))) = [] →
        exec (.scatter u (.head eng)) s = .next (goJobs x e sl (scatterJobs sl e idx) s1))) ∧
    (opOf e.word = 0x32 → e.issued = false → statusOk s1 x e = true →
      (subOf e.word = 1 → exec (.walk u (.head eng)) s = .next (writeStatus x e 0
        (mapInsn x e.id (fun y => { y with started := true, issued := true }) (mapUnit x.unit x.slice (fun y => { y with visited := [] }) s1)))) ∧
      (subOf e.word = 0 → flgOf e.word 0 = false → tEmpty (s1T e) = false → tEmpty (s2T e) = false →
        sramOk s1 x x.unit (sramBase (s2T e)) ((List.range (tLen1 (s2T e))).map (fun j => j * tPitch1 (s2T e))) 4 = true →
        sramOk s1 x x.unit (sramBase (dT e)) ((List.range (tLen1 (dT e))).map (fun j => j * tPitch1 (dT e))) 4 = true →
        badWords s1 x.slice x.unit (walkRanges (sramBase (s2T e)) ((List.range (tLen1 (s2T e))).map (fun j => j * tPitch1 (s2T e))) 4) = [] →
        exec (.walk u (.head eng)) s = .next (walkStep x { e with started := true } sl (mapInsn x e.id (fun y => { y with started := true }) s1))))

/-- The visited-set filter of `WALK` (R152 to R155): of one row of neighbours, those appended are at most the room left, in row order, no ID
twice, none of them all ones, each one new to the filter and known to it afterwards; what the filter knew it still knows. -/
def Obligations.WalkFilterSuppressesVisited : Prop :=
  ∀ (room : Nat) (ids : List Nat) (f : List (Nat × Bool)), Sparse.sorted f = true →
    let r := probeRow room ids f
    r.1.length ≤ room ∧ r.1.Nodup ∧ r.1.Sublist ids ∧
    (∀ v ∈ r.1, v ≠ 0xFFFFFFFF ∧ visitedId f v = false ∧ visitedId r.2.1 v = true) ∧
    (∀ v, visitedId f v = true → visitedId r.2.1 v = true)

/-- Fabric instructions (R226, R227, R309, R330, R332, R333, R215) at the head of queue 8 behind no other instruction and not issued before:
without `WIN`, `PUT` writes, `GET` reads, `ATOM` and `REDUCE` change translated memory; with `WIN` they travel as window packets of TC2; a
misaligned atomic faults (`ATOM_ALIGN`, 0x705) and a misaligned or odd-sized reduction faults (`REDUCE_ALIGN` 0x706, `BAD_SIZE` 0x30C) before
anything is sent; `PSIG` sends one `SIG` packet. -/
def Obligations.FabricInstructions : Prop :=
  ∀ (s : State) (u : UnitId) (eng : Nat) (x : UnitCtx) (e : EngInsn) (sl : Slice), AtHead s u eng x e sl → oldest x e = true →
    e.issued = false →
    let s1 := stepFree s
    let own := Owner.insn x.unit x.slice e.id
    let whole := mapInsn x e.id (fun y => { y with started := true, issued := true }) s1
    let from' := walkOf (s1T e) (s1T e)
    let to' := walkOf (s1T e) (dT e)
    let n := if flgOf e.word 0 then 8 else 4
    let v := e.sX.toNat % 2 ^ (8 * n)
    let c := e.sY.toNat % 2 ^ (8 * n)
    let fmt := (if flgOf e.word 0 then 1 else 0) + (if flgOf e.word 1 then 0 else 2)
    (opOf e.word = 0x70 → tEmpty (s1T e) = false → sramOk s1 x x.unit (sramBase (s1T e)) from' (tLen0 (s1T e)) = true →
      badWords s1 x.slice x.unit (walkRanges (sramBase (s1T e)) from' (tLen0 (s1T e))) = [] →
      exec (.put u (.head eng)) s = .next (goJobs x e sl (if flgOf e.word 0 then winJobs s1 x e true else storeJobs sl e) s1)) ∧
    (opOf e.word = 0x71 → tEmpty (s1T e) = false → sramOk s1 x x.unit (sramBase (dT e)) to' (tLen0 (s1T e)) = true →
      exec (.get u (.head eng)) s = .next (goJobs x e sl (if flgOf e.word 0 then winJobs s1 x e false else loadJobs sl [x.unit] e) s1)) ∧
    (opOf e.word = 0x72 → sramFits s1 x.slice x.unit (sramBase (dT e)) 8 = true →
      (flgOf e.word 2 = false → memBase (s1T e) (addrReg e 1) % n ≠ 0 → exec (.atom u (.head eng)) s = .next (insnFault x e 0x705 0 0 s1)) ∧
      (flgOf e.word 2 = false → memBase (s1T e) (addrReg e 1) % n = 0 → exec (.atom u (.head eng)) s = .next (goJobs x e sl
        [{ row := noRow, tile := 0, refs := [{ va := memBase (s1T e) (addrReg e 1), len := n, seg := bindSegment sl.inForce (memBase (s1T e) (addrReg e 1)), access := .atomic }]
           act := .atom (sramBase (dT e)) (subOf e.word) fmt v c }] s1)) ∧
      (flgOf e.word 2 = true → winBase (s1T e) (addrReg e 1) % n = 0 → exec (.atom u (.head eng)) s = .next (sendRequest x.slice
        { blankPacket with
          tc := 2, type := 3, winv := true, win := fld 61 52 e.word, dnode := winBase (s1T e) (addrReg e 1) / 2 ^ 52 % 2 ^ 12
          addr := winBase (s1T e) (addrReg e 1), len := 16, payload := leBytes v 8 ++ leBytes c 8, sub := subOf e.word, fmt := fmt }
        own (.landSram [x.unit] x.slice (sramBase (dT e))) whole))) ∧
    (opOf e.word = 0x73 → ∀ f, reduceFmt (subOf e.word) (tFmt (s1T e)) = some f →
      let base := if flgOf e.word 0 then winBase (dT e) (addrReg e 0) else memBase (dT e) (addrReg e 0)
      (tLen0 (s1T e) % 256 ≠ 0 → exec (.reduce u (.head eng)) s = .next (insnFault x e 0x30C 0 0 s1)) ∧
      (tLen0 (s1T e) % 256 = 0 → tEmpty (s1T e) = false → (∃ o ∈ to', (base + o) % 256 ≠ 0) →
        exec (.reduce u (.head eng)) s = .next (insnFault x e 0x706 0 0 s1)) ∧
      (tLen0 (s1T e) % 256 = 0 → tEmpty (s1T e) = false → (∀ o ∈ to', (base + o) % 256 = 0) →
        sramOk s1 x x.unit (sramBase (s1T e)) from' (tLen0 (s1T e)) = true →
        badWords s1 x.slice x.unit (walkRanges (sramBase (s1T e)) from' (tLen0 (s1T e))) = [] →
        exec (.reduce u (.head eng)) s = .next (goJobs x e sl (if flgOf e.word 0 then winReduceJobs s1 x e f else reduceJobs sl e f) s1))) ∧
    (opOf e.word = 0x74 → e.started = false → exec (.psig u (.head eng)) s = .next (sendRequest x.slice { blankPacket with
        type := 5, tc := classOf s1 x.slice e.queue, dnode := fld 75 64 e.word, len := 16
        payload := sigPayload (e.word.getLsbD 63) (fld 60 56 e.word) (fld 55 48 e.word) (fld 47 32 e.word) 0 } own .discard whole))

/-- Set instructions (R156 to R158, R213, R225, R586) whose places lie in the partition: `SORT` writes its keys in ascending order, with
their payloads when asked, to places that meet no input, and its status word; `MERGE`, `ISECT` and `UNION` write what they emit and the
count; keys out of order fault (`SET_UNSORTED`, 0x405). -/
def Obligations.SetInstructions : Prop :=
  ∀ (s : State) (u : UnitId) (eng : Nat) (x : UnitCtx) (e : EngInsn) (sl : Slice), AtHead s u eng x e sl → oldest x e = true →
    e.issued = false → statusOk (stepFree s) x e = true → tEmpty (s1T e) = false →
    let s1 := stepFree s
    (opOf e.word = 0x40 → flgOf e.word 0 = false → tLen1 (s1T e) ≤ 4096 →
      let ins := itemAddrs (s1T e) (s1T e)
      let outs := itemAddrs (s1T e) (dT e)
      (ins ++ outs).all (fun a => sramFits s1 x.slice x.unit a 4) = true →
      (itemsMeet ins outs = true → exec (.sort u (.head eng)) s = .next (insnFault x e 0x308 0 0 s1)) ∧
      (itemsMeet ins outs = false → badWords s1 x.slice x.unit (ins.map (fun a => (a, 4))) = [] →
        let keys := keysAt s1 x ins
        exec (.sort u (.head eng)) s = .next (actWhole x e
          ((outs.zip ((sortKeys (keys.zip keys)).map Prod.fst)).map (fun p => (p.1, leBytes p.2 4))) keys.length s1))) ∧
    (∀ op c, (op = .merge ∧ c = Instr.merge u (.head eng) ∧ opOf e.word = 0x41) ∨ (op = .isect ∧ c = Instr.isect u (.head eng) ∧ opOf e.word = 0x42) ∨
        (op = .union ∧ c = Instr.union u (.head eng) ∧ opOf e.word = 0x43) →
      tEmpty (s2T e) = false →
      let as := listAddrs (s1T e)
      let bs := listAddrs (s2T e)
      let out := listRun op (as.length + bs.length + 1) (tLen1 (dT e)) (0, none, keysAt s1 x as) (0, none, keysAt s1 x bs)
      let ws := listWrites op e out.keys
      (as ++ bs).all (fun a => sramFits s1 x.slice x.unit a 4) = true → writesFit s1 x ws = true →
      badWords s1 x.slice x.unit ((as ++ bs).map (fun a => (a, 4))) = [] →
      (out.bad = none → exec c s = .next (actWhole x e ws (listStatus out.keys.length out.full) s1)) ∧
      (∀ b, out.bad = some b → ∃ addr detail, exec c s = .next (insnFault x e 0x405 addr detail (putWrites x ws s1))))

/-- R156: a `SORT` gives its keys in ascending order, with their payloads, and is stable: those of one key keep their order. -/
def Obligations.SortIsStableAndAscending : Prop :=
  ∀ (l : List (Nat × Nat)),
    (sortKeys l).Perm l ∧ (sortKeys l).Pairwise (fun a b => a.1 ≤ b.1) ∧
    ∀ k, (sortKeys l).filter (fun p => p.1 == k) = l.filter (fun p => p.1 == k)

/-- R157: on lists in order and with room for everything, `MERGE` emits every key of both in ascending order; no list operation ever
emits more keys than it has room for. -/
def Obligations.MergeEmitsEveryKeyInOrder : Prop :=
  (∀ (as bs : List Nat), as.Pairwise (· ≤ ·) → bs.Pairwise (· ≤ ·) →
    let out := listRun .merge (as.length + bs.length + 1) (as.length + bs.length + 1) (0, none, as) (0, none, bs)
    out.bad = none ∧ out.full = false ∧ (out.keys.map Prod.fst).Perm (as ++ bs) ∧ (out.keys.map Prod.fst).Pairwise (· ≤ ·)) ∧
  (∀ op n room (as bs : List Nat), (listRun op n room (0, none, as) (0, none, bs)).keys.length ≤ room)

/-- Vector instructions (R160, R190 to R193, R213, R224, R586, R589) on FP32 tiles that fit: `VOP` writes, item by item, the operation
on the elements of its sources; `VRED` writes its reductions, of each item or of the whole tile; each then writes status 0. A tile of
another format is `BAD_FORMAT` (0x30B), an item that is no whole number of elements `BAD_SIZE` (0x30C), two bad symbols in a word that
a `VOP` reads are `SRAM_UNCORRECTABLE` (0x501, R138). -/
def Obligations.VectorInstructions : Prop :=
  ∀ (s : State) (u : UnitId) (eng : Nat) (x : UnitCtx) (e : EngInsn) (sl : Slice), AtHead s u eng x e sl → oldest x e = true →
    e.issued = false →
    let s1 := stepFree s
    let v := fld 79 72 e.word
    let n := tLen0 (s1T e)
    let outs := itemAddrs (s1T e) (dT e)
    let tiles := s1T e :: dT e :: vOthers e v
    (opOf e.word = 0x60 → v ≠ 0x20 → v ≠ 0x21 →
      ((∃ t ∈ tiles, tFmt t ≠ 8) → exec (.vop u (.head eng)) s = .next (insnFault x e 0x30B 0 0 s1)) ∧
      ((∀ t ∈ tiles, tFmt t = 8) → n % 4 ≠ 0 → exec (.vop u (.head eng)) s = .next (insnFault x e 0x30C 0 0 s1)) ∧
      ((∀ t ∈ tiles, tFmt t = 8 ∧ walkFits s1 x (s1T e) t n = true) → n % 4 = 0 → statusOk s1 x e = true → tEmpty (s1T e) = false →
        (vKind v = .perRow → sramFits s1 x.slice x.unit e.sX.toNat (4 * outs.length) = true) →
        let bad := badWords s1 x.slice x.unit (((s1T e :: vOthers e v).map (fun y => (itemAddrs (s1T e) y).map (fun a => (a, n)))).flatten ++
          (if vKind v = .perRow then [(e.sX.toNat, 4 * outs.length)] else []))
        (bad = [] → exec (.vop u (.head eng)) s = .next (actWhole x e
          (((List.range outs.length).zip outs).map (fun p => (p.2, fpBytes (vopItem s1 x e v n p.1)))) 0 s1)) ∧
        (2 ∈ bad → e.started = false → exec (.vop u (.head eng)) s = .next (insnFault x e 0x501 0 0 s1)))) ∧
    (opOf e.word = 0x61 → tFmt (s1T e) = 8 → n % 4 = 0 → statusOk s1 x e = true → tEmpty (s1T e) = false →
      walkFits s1 x (s1T e) (s1T e) n = true →
      badWords s1 x.slice x.unit ((itemAddrs (s1T e) (s1T e)).map (fun a => (a, n))) = [] →
      let items := (itemAddrs (s1T e) (s1T e)).map (fun a => itemFp s1 x a n)
      let ws := vredWrites e (if flgOf e.word 0 then items else [items.flatten])
      (writesFit s1 x ws = true → exec (.vred u (.head eng)) s = .next (actWhole x e ws 0 s1)) ∧
      (writesFit s1 x ws = false → exec (.vred u (.head eng)) s = .next (insnFault x e 0x307 0 0 s1)))

/-- Array instructions (R126, R138, R142 to R145, R194, R195, R213): one that passes its checks starts when all its quadrants are free, an
array that two queues share is its queue's to take, and no earlier instruction of its queue is still to write what it reads, and not before; two bad symbols in a word that it reads are `SRAM_UNCORRECTABLE`
(0x501); held accumulators of another mode, format or anchor are `ACC_MISMATCH` (0x401); the end of a tile frees its quadrants and
writes its tile unless it accumulates in place, and the end of the last one writes the status word and ends the instruction. -/
def Obligations.ArrayInstructions : Prop :=
  (∀ (s : State) (u : UnitId) (eng : Nat) (x : UnitCtx) (e : EngInsn) (sl : Slice), AtHead s u eng x e sl → isArray e.word = true →
    arrayCheck (stepFree s) x e = none →
    let s1 := stepFree s
    let reads := badWords s1 x.slice x.unit ((arrParts e).map (partReads e)).flatten
    (((∃ q ∈ arrQuads e, (quadAt x e.eng q).busy ≠ none) ∨ arrayTurn s1 x e = false ∨ awaitsTile x e = true) → exec (.arrayInstructionStart u eng) s = .next s1) ∧
    ((∀ q ∈ arrQuads e, (quadAt x e.eng q).busy = none) → arrayTurn s1 x e = true → awaitsTile x e = false →
      (mismatched x e = [] → reads = [] → exec (.arrayInstructionStart u eng) s = .next
        (noteTurn x e (mapUnit x.unit x.slice (busyQuads e (runTiles x e (arrParts e) s1).1)
          (mapInsn x e.id (fun y => noteTiles y (runTiles x e (arrParts e) s1).1) (runTiles x e (arrParts e) s1).2)))) ∧
      (mismatched x e = [] → e.started = false → 2 ∈ reads → exec (.arrayInstructionStart u eng) s = .next (insnFault x e 0x501 0 0 s1)) ∧
      (∀ q h rest, mismatched x e = (q, h) :: rest → exec (.arrayInstructionStart u eng) s = .next
        (insnFault x e 0x401 (((q, h) :: rest).foldl (fun m p => m + 2 ^ p.1) 0) (mismatchDetail e h) s1)))) ∧
  (∀ (s : State) (u : UnitId) (eng q i : Nat) (x y : UnitCtx) (e : EngInsn), currentUnit s u = some x → (quadAt x eng q).busy = some i →
    x.insns.find? (fun e => e.id == i) = some e → contextRuns s x.slice = true → x.stopping = false →
    findUnit (writeTile x e q s) u x.slice = some y →
    ((∃ k ∈ arrQuads e, (quadAt y eng k).busy = some i) → exec (.arrayWriteback u eng q) s = .next (writeTile x e q s)) ∧
    ((∀ k ∈ arrQuads e, (quadAt y eng k).busy ≠ some i) → exec (.arrayWriteback u eng q) s = .next (endArray y e (writeTile x e q s))))

/-- `EPCALL` (R232, R509) and the completion of engine instructions (R126, R215, R582): the call leaves with a call ID that is free; an
instruction issued whole leaves its queue once every request it made is answered and its call has ended, and a release store then
clears the live bits that it covers. -/
def Obligations.CallsAndCompletions : Prop :=
  (∀ (s : State) (p eng : Nat) (x : UnitCtx) (e : EngInsn) (sl : Slice), AtHead s (.port p) eng x e sl → x.unit = .port p →
    opOf e.word = 0x90 → (enginePort s p).calls.length < 16 →
    ∃ i < 16, (∀ c ∈ (enginePort s p).calls, c.id ≠ i) ∧ exec (.epcall (.port p) (.head eng)) s = .next
      (emit (.call p i (BitVec.ofNat 96 e.word.toNat) (x.slice % 1024) (contextSlot s x.slice))
        (mapInsn x e.id (fun y => { y with started := true, issued := true, count := i })
          (setEnginePort p { enginePort s p with calls := (enginePort s p).calls ++ [{ id := i, slice := x.slice, insn := e.id, done := false }] }
            (stepFree s))))) ∧
  (∀ (s : State) (u : UnitId) (eng : Nat) (x : UnitCtx) (e : EngInsn), currentUnit s u = some x → finishing x eng = some e →
    opOf e.word ≠ 0x90 → e.fault = none →
    (outstanding s (.insn u x.slice e.id) = true → exec (.engineInstructionComplete u eng) s = .next s) ∧
    (outstanding s (.insn u x.slice e.id) = false → exec (.engineInstructionComplete u eng) s = .next
      (mapUnit x.unit x.slice (fun y => { y with
          live := (coveredRegions (releaseItems e)).foldl (fun l r => Sparse.set false l r false) y.live })
        (mapUnit x.unit x.slice (fun y => { y with insns := y.insns.filter (fun i => i.id != e.id) }) s))))

/-! ### The lift clock and chairs (spec/03, spec/11, spec/14) -/

/-- The lift clock (R81, R82, R89 to R96, R107, R308, R319, R349, R373). With a locked source, and on every reference edge of a part that runs from
`LIFT_REF`, the count rises by one, modulo 2^64; a correction of one nanosecond is made; a multiple of 16,384 opens the events of a new chair; a
queue whose head descriptor has started on a resident context counts the tick; while no dump, log swap, half-chair cluster, locked checker or
waiting frame is there, nothing else changes but what is kept of the tick. Before lock, in phase 8 or later, the lead takes the count of a
packet from a group that carries traffic, and a member the lead's; after it, the difference is recorded, saturated to 8 bits, and slewed
away, and one of more than 1,024 ticks is also recorded and sets `ADRIFT`; 4,096 ticks without a packet set `HOLDOVER`. -/
def Obligations.LiftClockCounts : Prop :=
  (∀ (s : State),
      (s.lift.src = 1 → exec .liftTick s = .next (tickOnce s)) ∧
      (s.boot.isLead = true → s.lift.src = 2 → exec .liftRefEdge s = .next (tickOnce s)) ∧
      (s.boot.isLead = true → s.lift.src = 0 → s.boot.phase = 8 → anyGroupUp s = false →
        exec .liftRefEdge s = .next (emitD2d (otherBlocks s) (.mgmt (.liftCount 0))
          { s with lift := { s.lift with src := 2, count := 0 }, boot := { s.boot with standalone := true } })) ∧
      (s.tick.dumps = [] →
        let t := tickOnce s
        now t = (now s + 1) % 2 ^ 64 ∧ t.lift.sincePacket = s.lift.sincePacket + 1 ∧
        t.lift.slewNs.natAbs = s.lift.slewNs.natAbs - 1 ∧
        t.lift.tickNs = (if 0 < s.lift.slewNs then 63 else if s.lift.slewNs < 0 then 65 else 64) ∧
        (t.lift.chairDone = (s.lift.chairDone && decide ((now s + 1) % 16384 ≠ 0))) ∧
        (∀ sl q x, findQueue s sl q = some x → findQueue t sl q = some { x with
          timer := if (x.owner = s.boot.blkId ∧ queueOpen x = true ∧ ((x.descs.find? (fun d => decide (d.phase ≠ .done))).map Desc.timed) = some true ∧
            ((findContext s sl).any (fun c => c.resident && decide (c.enteredChair ≤ chairOf s))) = true) then x.timer + 1 else x.timer
          timeout := x.newTimeout.getD x.timeout, newTimeout := none }) ∧
        (t.mem = s.mem ∧ t.sram = s.sram ∧ t.tallies = s.tallies ∧ t.gates = s.gates ∧ t.cfg = s.cfg ∧ t.contexts = s.contexts) ∧
        ((∀ x ∈ s.slices, x.logSwap = none) → (∀ x ∈ s.units, x.aside = none ∧ ∀ c, x.unit = .cluster c → halfCluster s x.slice c = false) →
          (∀ e ∈ s.fab.lanes, e.2.lock = false) → s.fab.outbox = [] →
          { t with lift := s.lift, queues := s.queues, tick := s.tick } = s))) ∧
  (∀ (s : State) (g : Nat) (c : LiftPayload), c.len = 8 → 8 ≤ s.boot.phase →
      let untouched := fun (t : State) => t.mem = s.mem ∧ t.sram = s.sram ∧ t.tallies = s.tallies ∧ t.queues = s.queues ∧ t.units = s.units ∧
        t.cfg = s.cfg ∧ t.contexts = s.contexts
      (s.boot.isLead = true → groupCarries s g = true → s.lift.src = 0 → ∃ t, exec (.liftPacket (.group g) c) s = .next t ∧
        t.lift.count = c.count ∧ t.lift.src = 1 ∧ t.lift.slewNs = 0 ∧ t.lift.adrift = false ∧
        { t.boot with standalone := s.boot.standalone } = s.boot ∧ untouched t) ∧
      (s.boot.isLead = false → s.boot.elected = true → s.lift.src = 0 → ∃ t, exec (.liftPacket .lead c) s = .next t ∧
        t.lift.count = c.count ∧ t.lift.src = 1 ∧ t.lift.slewNs = 0 ∧ untouched t) ∧
      (s.boot.isLead = true → groupCarries s g = true → s.lift.src = 1 → let err := (c.count - s.lift.count).toInt
        ∃ t, exec (.liftPacket (.group g) c) s = .next t ∧ t.lift.count = s.lift.count ∧ t.lift.slewNs = 64 * err ∧
          t.lift.error.toInt = max (-128) (min 127 err) ∧ t.lift.holdover = false ∧ t.lift.sincePacket = 0 ∧
          (1024 < err.natAbs → t.lift.adrift = true ∧ t.fq.count = nextCount s.fq.count) ∧
          (err.natAbs ≤ 1024 → t.fq = s.fq) ∧ untouched t) ∧
      (groupCarries s g = false → exec (.liftPacket (.group g) c) s = .next s) ∧
      (exec (.liftPacket .elsewhere c) s = .next s) ∧
      (s.boot.isLead = true → s.lift.src = 1 → s.lift.holdover = false → 4096 ≤ s.lift.sincePacket →
        exec .liftHoldover s = .next (raiseSource 8 { s with lift := { s.lift with holdover := true } })))

/-- The events of a chair's relay zone (R96 to R99, R111, R33, R97, R476): the plan is fixed once, at tick 16,127; from tick 16,128 contexts
of the plan begin to stop or to load and a pending commit is staged on the blocks; a confirmation counts before tick 16,352; at that tick
the lead sends go when every block of the part has confirmed, and otherwise aborts; while the management plane is stalled the commit waits
without go (R25). -/
def Obligations.RelayZoneEvents : Prop :=
  ∀ (s : State),
    (s.lift.planDone = false → 16127 ≤ tickOf s → s.power.deep = false →
      let m := planMoves s (placesTaken s) (wantingNow s) [] []
      exec .planFix s = .next { s with lift := { s.lift with planDone := true, evict := m.1, load := m.2 } } ∧ m.1.length ≤ 4 ∧ m.2.length ≤ 4) ∧
    (s.lift.planDone = true → exec .planFix s = .next s) ∧
    (s.lift.relayDone = false → 16128 ≤ tickOf s → exec .relayZoneOpen s = .next (startHandoff (stageSet (s.lift.load.foldl beginLoad
        (s.lift.evict.foldl beginEvict { s with lift := { s.lift with relayDone := true, evict := [], load := [] } }))))) ∧
    (∀ k b, s.cfg.commit = some k → s.boot.isLead = true → k.chair = chairOf s → k.go = none → k.confirms ≠ [] → b ∉ k.confirms →
      16128 ≤ tickOf s → tickOf s < 16352 →
      exec (.stagedSetConfirm b) s = .next { s with cfg := { s.cfg with commit := some { k with confirms := k.confirms ++ [b] } } }) ∧
    (∀ k, s.cfg.commit = some k → s.boot.isLead = true → s.lift.goDone = false → k.chair = chairOf s → k.go = none → 16352 ≤ tickOf s →
      let s1 := { s with lift := { s.lift with goDone := true } }
      (managerStalled s = true → exec .commitGo s = .next (holdCommit s1)) ∧
      (managerStalled s = false → (∀ b ∈ partBlocks s, b ∈ k.confirms) → exec .commitGo s = .next (emitD2d (otherBlocks s) (.mgmt (.go k.next.serial.toNat))
        { s1 with cfg := { s.cfg with commit := some { k with go := some true } } })) ∧
      (managerStalled s = false → k.confirms ≠ [] → (∃ b ∈ partBlocks s, b ∉ k.confirms) → exec .commitGo s = .next (abortCommit k stTimedOut s1)))

/-- The chair boundary (R33, R96, R365 to R367) happens once for each chair: it completes, and asking again changes nothing. A set that was given
go becomes the active one, under the next serial; the set before it is the shadow
and the rollback set, and nothing is pending. Without it the active set does not change. -/
def Obligations.ChairBoundarySwapsOnce : Prop :=
  (∀ (s : State) (k : Commit), s.cfg.commit = some k → k.go = some true →
      let t := swapSet s
      t.cfg.active = { k.next with serial := s.cfg.active.serial + 1 } ∧
      t.cfg.shadow = s.cfg.active ∧ t.cfg.rollback = some s.cfg.active ∧ t.cfg.edited = false ∧ t.cfg.commit = none ∧
      t.sram = s.sram ∧ t.lift = s.lift) ∧
  (∀ (s : State),
      (s.lift.chairDone = true → exec .chairBoundary s = .next s) ∧
      (s.lift.chairDone = false → ∃ t, exec .chairBoundary s = .next t ∧ t.lift.chairDone = true ∧ t.lift.count = s.lift.count ∧
        exec .chairBoundary t = .next t ∧
        (∀ k, s.cfg.commit = some k → k.go = some true → t.cfg.active.serial = s.cfg.active.serial + 1 ∧ t.cfg.commit = none) ∧
        ((∀ k, s.cfg.commit = some k → k.go ≠ some true) → t.cfg.active = s.cfg.active)))

/-- Slots, saves and loads (R99, R104, R105, R113 to R115, R229, R233, R237, R262, R483): a slot ends once in its 256 ticks, and the next context
takes the unit; one that must leave it with requests or calls outstanding is stopped at its next restart point first. A save that has nothing
outstanding leaves the unit's tallies and live bytes in the image, and the last save gives up the place; a load brings them back under the
context's slot and the context resumes; a cluster of a resurfacing is cleared from tick 33 of its chair. -/
def Obligations.SlotsSavesAndLoads : Prop :=
  ∀ (s : State) (u : UnitId) (slice : Nat),
    (unitOk u = true → lastSlot s u < now s / 256 → mustWait s u = false →
      exec (.slotEnd u) s = .next (allocate u { s with slots := Sparse.put s.slots (2 ^ 17 + unitIdx u) (now s / 256) })) ∧
    (∀ x, unitOk u = true → lastSlot s u < now s / 256 → mustWait s u = true → currentSlice s u = some slice → findUnit s u slice = some x →
      x.stopping = false → exec (.slotEnd u) s = .next (mapUnit u slice (fun y => { y with stopping := true }) { s with recovery := { s.recovery with
        stopAsked := Sparse.put s.recovery.stopAsked (unitIdx u) (now s) } })) ∧
    (unitOk u = true → now s / 256 ≤ lastSlot s u → exec (.slotEnd u) s = .next s) ∧
    (∀ c x, findContext s slice = some c → findUnit s u slice = some x → u ∈ c.saving → unitBusy s slice u = false →
      (∀ e ∈ x.insns, handedOff e = false) →
      exec (.contextSaveDone slice u) s = .next (leavePlace slice (saveUnit slice u s))) ∧
    (∀ c, findContext s slice = some c → u ∈ c.loading → (∀ k ∈ s.contexts, u ∉ k.saving) →
      (c.resident = true ∨ (s.contexts.filter (fun k => k.resident || !k.saving.isEmpty)).length < 128) →
      let s1 := mapContext slice (takePlace (stepFree s)) (stepFree s)
      let s2 := mapContext slice dropImage (loadUnit slice u
        (loadedSave (stepFree s) slice u (c.saved.getD { tallies := [], sram := [] })) (contextSlot s1 slice) s1)
      exec (.contextLoadDone slice u) s = .next (if currentSlice s2 u = none then allocate u s2 else s2)) ∧
    (∀ sl r c, findSlice s slice = some sl → sl.resurf = some r → r.chair = chairOf s → 33 ≤ tickOf s → c ∈ r.clusters → c ∉ r.zeroed →
      exec (.resurfaceZeroDone slice c) s = .next (allocate (.cluster c) (mapSlice slice (fun x => { x with
        resurf := x.resurf.map (fun r => { r with zeroed := r.zeroed ++ [c] }) }) (clearCluster slice c s))) ∧
      (∀ e ∈ (clearCluster slice c s).tallies, e.1 / 256 = c →
        otherTally (clearTraces slice s) slice c e.1 = true ∨ ∃ n, e.2 = { ({} : Tally) with owner := n }) ∧
      (∀ e ∈ (clearCluster slice c s).sram, e.1 / 2 ^ 21 = c → otherLive (clearTraces slice s) slice c e.1 = true))

/-! ### Requests from the fabric (spec/07, spec/09, spec/13) -/

/-- Memory accesses from the fabric (R309 to R311, R317, R318, R321, R330 to R333): one that fails its header's checks is refused with the
first cause; a local address must lie in the node's memory; a window address passes the window's checks, with its refusals counted, and
is translated for the owner. One that passes goes ahead, and a local `WRITE` with no other request outstanding changes the bytes it
names and no other byte of memory. -/
def Obligations.FabricAccessesAreServed : Prop :=
  ∀ (s : State) (p : Packet) (c : Instr),
    (c, p.type) ∈ [(Instr.fabricRead p, 1), (.fabricWrite p, 2), (.fabricAtom p, 3), (.fabricReduce p, 4)] →
    let s1 := notePeer p s
    let s2 := stepFree s1
    let n := accessLen p
    let here : Piece := { va := 0, pa := ownNode s * 2 ^ 52 + paLocal p.addr, len := n, key := packetKey s p }
    (serves s = false → exec c s = .next s) ∧
    (∀ cause, serves s = true → headerCause s p = some cause → exec c s = .next (refuse p cause s)) ∧
    (Arrives s p p.type → p.winv = false →
      (nodeBytes s < paLocal p.addr + n → exec c s = .next (refuse p 0x106 s1)) ∧
      (paLocal p.addr + n ≤ nodeBytes s → exec c s = .next (goAccess 2048 p [here] (fun t => t) s1))) ∧
    (Arrives s p p.type → p.winv = true →
      (∀ cause, windowCheck s2 p = .error cause → exec c s = .next (countRefusal p.win (refuse p cause s2))) ∧
      (∀ sl va, windowCheck s2 p = .ok (sl, va) → let k := windowAccess p.type
        (∀ st, xlatBound s2 .l2 sl true k va n = .error st →
          exec c s = .next (countRefusal p.win (refuse p 0x10B (writeRecord (unmappedRecord s2 sl k va (p.addr % 2 ^ 40)) s2)))) ∧
        (∀ ps, xlatBound s2 .l2 sl true k va n = .ok ps →
          exec c s = .next (goAccess sl.id p ps (fun t => logWrite (.remote p) sl k va n (cachePages .l2 sl va n t)) s2)))) ∧
    (Arrives s p p.type → p.type = 2 → p.winv = false → paLocal p.addr + n ≤ nodeBytes s → ownNode s < 4096 → p.badSyms < 2 → p.epoch = 0 → s.mp = {} → ∃ t, exec c s = .next t ∧ t.mem = (memWrite (paLocal p.addr) (packetKey s p) p.payload s).mem ∧
        t.sram = s.sram ∧ t.tallies = s.tallies ∧ t.units = s.units ∧ t.queues = s.queues)

/-- Signals and gates from the fabric (R255 to R261, R265 to R267, R321, R322): `SIG` adds to the tally that it names, at once or, when
it carries a write count, once the writes of its epoch have landed; one whose count is 0 frees the counter; a target that is not there is refused with 0x208 (that the answer's `SUB` says
whether a context was there is the model's choice, log 34). `GATE_ARRIVE` is
counted at its gate and answered; `GATE_RELEASE` lands and has no answer. A held signal whose writes do not come in time is discarded
with a record, and its counter freed. -/
def Obligations.FabricSignalsAndGates : Prop :=
  (∀ (s : State) (p : Packet), Arrives s p 5 → p.badSyms = 0 → let s1 := notePeer p s
    (sigTarget s1 p = none → exec (.fabricSig p) s = .next (refuse { p with sub := if signalContext s1 p then 1 else 0 } 0x208 s1)) ∧
    (∀ sl u i, sigTarget s1 p = some (sl, u, i) → let need := byteField p.payload 8 3
      (p.epoch = 0 → exec (.fabricSig p) s = .next (respond p 0 0 [] (mailboxAdd u sl i (byteField p.payload 4 2) s1))) ∧
      (p.epoch ≠ 0 → need = 0 → exec (.fabricSig p) s = .next (respond p 0 0 [] (mailboxAdd u sl i (byteField p.payload 4 2)
        { s1 with counters := s1.counters.filter (fun w => !(w.source == p.snode && w.epoch == p.epoch)) }))) ∧
      (need ≠ 0 → p.epoch ≠ 0 → (s.held.filter (fun h => decide (h.unit = u))).length < 32 → hasCounter s p = true →
        exec (.fabricSig p) s = .next (releaseHeld p.snode p.epoch { s1 with held := s1.held ++
          [{ unit := u, slice := sl, source := p.snode, epoch := p.epoch, need := need, tally := i, amount := byteField p.payload 4 2
             since := now s, request := p }] })))) ∧
  (∀ (s : State) (p : Packet) (a : Arrival), Arrives s p 6 → p.badSyms = 0 → let s1 := notePeer p s
    0 < a.expected → a.expected ≤ 4096 → a.gate < 1024 → knownAssumed s1 p.snode = false → let k := gatePlace s1 p.dnode a.gate
    (∀ g, arriveAt a (gateAt s1 k) = .ok g → exec (.gateArrive p a) s = .next (placeArrival k g (respond p 0 0 [] s1))) ∧
    (∀ cause, arriveAt a (gateAt s1 k) = .error cause → exec (.gateArrive p a) s = .next (refuse p cause s1))) ∧
  (∀ (s : State) (p : Packet) (gate gen : Nat), Arrives s p 7 → p.badSyms = 0 →
    (∀ sl, tagSlice s p.dnode p.stag = some sl → exec (.gateRelease p gate gen) s = .next (landRelease p.snode sl (p.addr % 32) gate gen (notePeer p s))) ∧
    (tagSlice s p.dnode p.stag = none → exec (.gateRelease p gate gen) s = .next { s with telemetry := { s.telemetry with
      discardedReleases := s.telemetry.discardedReleases + 1 } })) ∧
  (∀ (s : State) (u : UnitId) (src ep : Nat) (h : HeldSignal),
    s.held.find? (fun h => decide (h.unit = u) && h.source == src && h.epoch == ep) = some h →
    (now s < h.since + heldTimeout s h → exec (.syncOrder u src ep) s = .next s) ∧
    (h.since + heldTimeout s h ≤ now s → exec (.syncOrder u src ep) s = .next (refuse h.request 0x209 (writeRecord
      { cause := 0x209, slice := h.slice, noQueue := true, context := contextSlot s h.slice
        addr := ep * 2 ^ 48 + src * 2 ^ 32 + syncAddr s u h.tally 0, detail := landedCount s src ep * 2 ^ 32 + h.need }
      { s with
        held := s.held.filter (fun x => decide (x ≠ h))
        counters := s.counters.filter (fun w => !(w.source == src && w.epoch == ep)) }))))

/-- Notices, part traffic, the tether and answers (R319, R320, R322, R323, R341, R453, R454): an abort notice stops the step of every slice
concerned; a restart notice begins it again; management traffic acts only from a block of the part; the tether only from the twin. A
`RETRY` waits 4 ticks, then twice as long each time up to 256, and is sent again; `OK` ends the request. -/
def Obligations.NoticesAndAnswers : Prop :=
  (∀ (s : State) (p : Packet), Arrives s p 0x0B → p.badSyms = 0 →
    (byteField p.payload 0 1 = 0 → exec (.stepCtlAbort p) s = .next (takeAbort p (notePeer p s))) ∧
    (byteField p.payload 0 1 = 1 → exec (.stepCtlRestart p) s = .next (takeRestart p (notePeer p s)))) ∧
  (∀ (s : State) (p : Packet) (m : MgmtMsg), Arrives s p 0x0A → p.badSyms = 0 → let s1 := notePeer p s
    (fromPart s1 p = true → exec (.mgmt p m) s = .next (respond p 0 0 [] (takeMgmt m s1))) ∧
    (fromPart s1 p = false → exec (.mgmt p m) s = .next (respond p 0 0 [] s1))) ∧
  (∀ (s : State) (p : Packet) (m : TetherMsg), Arrives s p 9 → let s1 := notePeer p s
    (s.twin.node ≠ some p.snode → exec (.tether p m) s = .next (refuseTether p m s1)) ∧
    (s.twin.node = some p.snode → p.badSyms = 0 → exec (.tether p m) s = .next (takeTether p.snode m (respond p 0 0 [] s1)))) ∧
  (∀ (s : State) (p : Packet) (t : Txn), findTxn s p.txid = some t → let s1 := stepFree s
    (p.status = 1 → droppedTxn t = false → exec (.fabricResponse p) s = .next (settleFailover (mapTxn t.txid (fun t => { t with
      sent := false, retries := t.retries + 1, due := some (now s + min (4 * 2 ^ t.retries) 256) }) s1))) ∧
    (p.status = 0 → p.badSyms = 0 → exec (.fabricResponse p) s = .next (settleFailover (afterAnswer t.owner (stepAnswered t
      (if t.packet.type = 1 ∨ t.packet.type = 3 then landBytes t.owner t.onRead t.era p.payload (dropTxn t.txid s1) else dropTxn t.txid s1)))))) ∧
  (∀ (s : State) (id due : Nat) (t : Txn), s.fab.txns.find? (fun t => t.txid == id) = some t → t.due = some due →
    (now s < due → exec (.fabricRetryResend id) s = .next s) ∧
    (due ≤ now s → exec (.fabricRetryResend id) s = .next (releaseWaiting (mapTxn id (fun t => { t with due := none }) s))))

/-! ### Links and lanes (spec/09, spec/14, spec/15) -/

/-- Links and lanes (R312, R315, R326, R340 to R351, R470, R471, R518 to R520, R541): a link that hears takes a frame; one whose check fails, or that a codeword
with more than 15 bad symbols carried, is discarded with a request to replay it; a whole one in order is accepted, and one out of order is not. Retraining that succeeds replays what is not
acknowledged, and one that fails takes the group down. A group trains into service with its lanes. The inputs of a lane follow the PHY;
an injecting lane counts the bits that it inverts, up to 2^48 - 1; a checker that runs locks, and one that has locked loses its lock,
which is remembered, and has counted at least 256 errors. A route is a path with the fewest die-to-die hops, on the lower port among such. A lane that does not exist stops the machine. No other lane changes. -/
def Obligations.LinksAndLanes : Prop :=
  (∀ (s : State) (g : Nat), g < 11 →
      let x := groupAt s g
      let heard := fun (f : Frame) => if g < 8 then mapGroup g (fun y => { y with fecSym := y.fecSym + fecSym f, fecUnc := y.fecUnc + fecUnc f }) s else s
      (∀ f, linkHears s g = false → exec (.linkFrame g f) s = .next s) ∧
      (∀ f, linkHears s g = true → ((g < 8 ∧ ((∃ n ∈ f.codewords, 15 < n) ∨ (x.enc = true ∧ f.tagOk = false))) ∨ frameShape f = false ∨ frameCrc f = false) →
        exec (.linkFrame g f) s = .next (discardFrame g f (heard f))) ∧
      (∀ f, linkHears s g = true → (g < 8 → (∀ n ∈ f.codewords, n ≤ 15) ∧ (x.enc = true → f.tagOk = true)) → frameShape f = true → frameCrc f = true →
        let s2 := mapGroup g (takeAckSeq (BitVec.ofNat 12 (bitsOf 23 12 f.tag.toNat))) (heard f)
        let s3 := if bitOf 24 f.tag.toNat = true then replay g s2 else s2
        let inOrder := BitVec.ofNat 12 f.tag.toNat = (groupAt s3 g).rxSeq + 1
        (inOrder → exec (.linkFrame g f) s = .next (releaseWaiting (flushOutbox (acceptFrame g f s3)))) ∧
        (¬inOrder → exec (.linkFrame g f) s = .next (releaseWaiting (flushOutbox s3))))) ∧
  (∀ (s : State) (g : Nat), g < 8 →
      let x := groupAt s g
      (x.retrain = true → exec (.linkRetrainDone g true) s = .next (releaseWaiting (flushOutbox (replay g
          (mapGroup g (fun y => { y with retrain := false, unacked := y.unacked.map (fun e => { e with tries := 0 }) }) s)))) ∧
        exec (.linkRetrainDone g false) s = .next (groupDown g s)) ∧
      (∀ st, x.exiting = some st → (x.ls ≠ 0 ∨ x.unacked = []) → exec (.laneStateExitDone g) s = .next
        (releaseWaiting (flushOutbox (setGroup g { x with
          ls := st, exiting := none, power := st, retrain := x.retrain && !(x.ls == 2 && st == 0) } s)))) ∧
      (∀ lanes node session, 7 ≤ s.boot.phase → x.up = false → (∃ k < 6, (laneAt s (6 * g + k)).sigdet = true) → s.boot.image.linkEnc = false →
        exec (.fabricTrainingDone g true lanes node session) s = .next
          (releaseWaiting (flushOutbox (let t := setGroup g { x with
              lanes := lanes, up := true, enc := false, rate := if s.boot.image.laneRate = 0 then 1 else 2, tagBlocks := 0 } s
            { t with boot := { s.boot with nodeIds := Sparse.put s.boot.nodeIds s.boot.blkId node }, fab := { t.fab with down := false } })))) ∧
      (∀ ok, s.boot.phase = 3 → exec (.phyCalDone g ok) s = .next (setGroup g { x with calOk := some ok } s)) ∧
      (x.enc = true → exec (.linkKeyUpdate g) s = .next
        (emit (.keyUpdate g) (linkKey g (setGroup g { x with keyUpdates := x.keyUpdates + 1, tagBlocks := 0 } s))) ∧
        (linkKey g s).keys.link = Sparse.put s.keys.link g s.keys.linkDraws ∧ (linkKey g s).keys.linkDraws = s.keys.linkDraws + 1) ∧
      (∀ port status present paths, port < 3 →
        let s1 := setRoutes { s with
          pins := { s.pins with
            d2dPresent := if present then s.pins.d2dPresent ||| (1#3 <<< port) else s.pins.d2dPresent &&& ~~~(1#3 <<< port)
            d2dStatus := Sparse.put s.pins.d2dStatus port status }
          fab := { s.fab with paths := paths } }
        exec (.d2dPortStateChange port status present paths) s = .next (releaseWaiting (flushOutbox
          (if present then s1 else (lostParcels (groupAt s (8 + port))).foldl loseFrame (setGroup (8 + port) {} s1)))))) ∧
  (∀ (paths : List (Nat × Nat × Nat)) (b port : Nat), bestRoute paths b = some (b, port) →
      ∃ hops, (b, port, hops) ∈ paths ∧ ∀ p ∈ paths, p.1 = b → hops < p.2.2 ∨ (hops = p.2.2 ∧ port ≤ p.2.1)) ∧
  (∀ (s : State) (k : Nat), Sparse.sorted s.fab.lanes = true →
      let x := laneAt s k
      (48 ≤ k → ∀ a b, exec (.laneSignalChange k a b) s = .fault .noSuchPlace ∧ exec (.laneInject k) s = .fault .noSuchPlace ∧
        exec (.laneCheckerLock k) s = .fault .noSuchPlace ∧ exec (.laneCheckerLoss k) s = .fault .noSuchPlace) ∧
      (k < 48 → ∀ a b, ∃ t, exec (.laneSignalChange k a b) s = .next t ∧ laneAt t k = { x with sigdet := a, cdrLock := b } ∧
        (∀ j, j ≠ k → laneAt t j = laneAt s j) ∧ { t with fab := s.fab } = s) ∧
      (k < 48 → injects s k = true → let n := if x.injKind = 2 then x.injLen else 1
        ∃ t, exec (.laneInject k) s = .next t ∧ laneAt t k = { x with injected := min (x.injected + n) (2 ^ 48 - 1) } ∧
          (∀ j, j ≠ k → laneAt t j = laneAt s j) ∧ t.sent = .injected k n :: s.sent ∧ { t with fab := s.fab, sent := s.sent } = s) ∧
      (k < 48 → injects s k = false → exec (.laneInject k) s = .next s) ∧
      (k < 48 → 2 ≤ x.mode → ∃ t, exec (.laneCheckerLock k) s = .next t ∧ laneAt t k = { x with lock := true } ∧
        (∀ j, j ≠ k → laneAt t j = laneAt s j) ∧ { t with fab := s.fab } = s) ∧
      (k < 48 → 2 ≤ x.mode → x.lock = true → ∃ t, exec (.laneCheckerLoss k) s = .next t ∧
        (laneAt t k).lock = false ∧ (laneAt t k).loss = true ∧ min (max 256 x.errs) (2 ^ 48 - 1) ≤ (laneAt t k).errs ∧
        (laneAt t k).errs ≤ 2 ^ 48 - 1 ∧ (∀ j, j ≠ k → laneAt t j = laneAt s j) ∧ { t with fab := s.fab, free := s.free } = s) ∧
      (k < 48 → (x.mode < 2 ∨ x.lock = false) → exec (.laneCheckerLoss k) s = .next s))

/-! ### Translation (spec/08) -/

/-- Walks and syncs (R282, R284, R286, R288 to R291, R298, R301, R302). A walk that returns under the generation in force fills the caches, or every
demand access that waits takes the entry's fault, an invalid page (0x102) stalling its engines instead; an entry whose read finds two bad
symbols is `TABLE_READ` (0x105); a prefetch is dropped without a fault, also where the page lacks the right that it was made for; a walk of
another generation is discarded, and what waits for it comes again and is translated anew. A member that is asked to prepare acknowledges; the
lead counts acknowledgements that come within 256 ticks, and the last one fixes the switch 16 ticks on; without them all the command
times out, every member drops the sync, and the staged bank stays staged; at the switch tick the staged bank comes in force under its
generation, the L2 drops what it holds of the slice under another, and no other slice changes; when every block has drained, the command is
answered. -/
def Obligations.TranslationEvents : Prop :=
  (∀ (s : State) (slice seg page : Nat) (err : Bool) (sl : Slice) (w : Walk), findSlice s slice = some sl →
      s.xlat.walks.find? (fun w => w.slice == slice && w.segment == seg && w.page == page) = some w →
      let s1 := stepFree { s with xlat := { s.xlat with walks := s.xlat.walks.filter (fun v => decide (v ≠ w)) } }
      let out := exec (.translationWalkReturn slice seg { page := page, err := err }) s
      let g := segmentAt sl.inForce w.segment
      let entry := pageOfEntry g (if err then none else readEntry s1 g w.page)
      (err = true → entry = .error 0x105) ∧
      (∀ u, w.gen = sl.gen → entry = .ok u → (w.demand ≠ [] ∨ pageGrants w.kind u = true) → out = .next
        (fillPage sl.id w.segment w.page g.psize w.gen (w.place :: w.demand.map (fun d => XPlace.buffer d.unit d.eng)) u s1)) ∧
      (∀ u, w.gen = sl.gen → entry = .ok u → w.demand = [] → pageGrants w.kind u = false → out = .next s1) ∧
      (∀ c, w.gen = sl.gen → entry = .error c → w.demand = [] → out = .next s1) ∧
      (∀ c, w.gen = sl.gen → entry = .error c → w.demand ≠ [] → c ≠ 0x102 → out = .next (w.demand.foldl (demandFault sl.id c) s1)) ∧
      (∀ d ds, w.gen = sl.gen → entry = .error 0x102 → w.demand = d :: ds →
        out = .next (stallEngines sl.id w.segment w.page (w.demand.map demandEngine) d.record s1)) ∧
      (w.gen ≠ sl.gen → out = .next s1)) ∧
  (∀ (s : State) (slice gen block : Nat) (sl : Slice), findSlice s slice = some sl →
      let y0 : Sync := { seq := 0, gen := gen, since := now s, acks := [], switchTick := none, switched := false, drained := [] }
      (s.boot.isLead = false → exec (.syncPrepare slice gen) s = .next
        (sendD2d s.boot.leadId (.syncAck slice gen) (mapSlice slice (fun x => { x with sync := some y0 }) s))) ∧
      (∀ y, s.boot.isLead = true → sl.sync = some y →
        exec (.syncPrepare slice gen) s = if y.gen = gen then exec (.syncAck slice s.boot.blkId) s else .next s) ∧
      (∀ y, sl.sync = some y → s.boot.isLead = true → y.switchTick = none → block ∉ y.acks → block ∈ syncBlocks s slice → now s ≤ y.since + 256 →
        ((∃ b ∈ syncBlocks s slice, b ∉ y.acks ∧ b ≠ block) →
          exec (.syncAck slice block) s = .next (mapSync slice (fun y' => { y' with acks := y.acks ++ [block] }) s)) ∧
        ((∀ b ∈ syncBlocks s slice, b ∈ y.acks ∨ b = block) →
          exec (.syncAck slice block) s = .next (emitD2d (sliceBlocks s slice) (.mgmt (.syncSwitch slice y.gen (now s + 16)))
            (mapSync slice (fun y' => { y' with acks := y.acks ++ [block], switchTick := some (now s + 16) }) s)))) ∧
      (∀ y c, sl.sync = some y → s.boot.isLead = true → y.switchTick = none → y.since + 256 < now s → syncCmd s y = some c →
        exec (.syncAckTimeout slice) s = .next (failCmd c 8 (emitD2d (sliceBlocks s slice) (.mgmt (.syncAbort slice y.gen))
          (mapSlice slice (fun x => { x with sync := none }) s)))) ∧
      (∀ y t, sl.sync = some y → y.switchTick = some t → y.switched = false →
        (now s < t → exec (.syncSwitch slice) s = .next s) ∧
        (t ≤ now s → ∃ s', exec (.syncSwitch slice) s = .next s' ∧
          findSlice s' slice = some { sl with
            inForce := sl.staged, gen := y.gen, era := sl.era + 1, sync := some { y with switched := true } } ∧
          (∀ i, i ≠ slice → findSlice s' i = findSlice s i) ∧
          (∀ e ∈ s'.xlat.cache, e.slice = slice → e.gen = y.gen) ∧ (∀ e ∈ s.xlat.cache, e.slice ≠ slice → e ∈ s'.xlat.cache) ∧
          { s' with slices := s.slices, xlat := s.xlat } = s)) ∧
      (∀ y, sl.sync = some y → y.switched = true → block ∈ syncBlocks s slice →
        (s.boot.isLead = true → (block = s.boot.blkId → eraBusy s slice = false) → exec (.syncDrainDone slice block) s = .next (takeDrained slice block s)) ∧
        (s.boot.isLead = false → block = s.boot.blkId → eraBusy s slice = false → exec (.syncDrainDone slice block) s = .next
          (sendD2d s.boot.leadId (.syncDrained slice y.gen) (mirrorBanks slice (mapSlice slice (fun x => { x with sync := none }) s)))) ∧
        (block = s.boot.blkId → eraBusy s slice = true → exec (.syncDrainDone slice block) s = .next s)))

/-! ### Manager commands (spec/11, spec/08, spec/07, spec/14, spec/16) -/

/-- Set commands (R365 to R371, R108, R309, R361, R554): issued directly, `CREATE_SLICE`, `DESTROY_SLICE`, `ASSIGN_POOL`, `SET_RT_SHARE`,
`SET_WINDOW`, `CLEAR_WINDOW` and `SET_ENVELOPE` check their parameters, that no commit is pending, that no edit is held, that every slice
they change is quiesced, and their resources, in that order; then the changed set is staged in this chair's relay zone, or in the next
one's when it is open already. `EDIT_SHADOW` applies one to the shadow and commits nothing; `COMMIT_SHADOW` stages the shadow, or the
rollback copy. The active set itself does not change. -/
def Obligations.SetCommandsStage : Prop :=
  ∀ (s : State) (seq : Word32) (c : CmdReq),
    let chair := if tickOf s < 16128 then chairOf s else chairOf s + 1
    let staged := fun (next : CfgSet) => setPhase c.seq .waiting { s with cfg := { s.cfg with
      commit := some { seq := c.seq, chair := chair, next := next, confirms := [], go := none } } }
    (∀ cmd op, (cmd, op) ∈ [(Instr.createSlice seq, 0x0101), (.destroySlice seq, 0x0102), (.assignPool seq, 0x0106), (.setRtShare seq, 0x0204),
        (.setWindow seq, 0x0307), (.clearWindow seq, 0x0308), (.setEnvelope seq, 0x0701)] → AtCommand s seq op c → c.opcode = op →
      let ok := setParamsOk s s.cfg.active op (cmdSlice c) c.params
      let next := setApply s.cfg.active op (cmdSlice c) c.params
      let open' := notQuiesced s (changedSlices s.cfg.active next)
      (c.phase ≠ .fresh → exec cmd s = .next s) ∧
      (c.phase = .fresh → ok = false → exec cmd s = .next (failCmd c 3 s)) ∧
      (c.phase = .fresh → ok = true → s.cfg.commit ≠ none → exec cmd s = .next (failCmd c 1 s)) ∧
      (c.phase = .fresh → ok = true → s.cfg.commit = none → s.cfg.edited = true → exec cmd s = .next (failCmd c 11 s)) ∧
      (∀ d, c.phase = .fresh → ok = true → s.cfg.commit = none → s.cfg.edited = false → open' = some d → exec cmd s = .next (finish c 4 d [] s)) ∧
      (c.phase = .fresh → ok = true → s.cfg.commit = none → s.cfg.edited = false → open' = none →
        exec cmd s = .next (if setResources s s.cfg.active op (cmdSlice c) c.params then staged next else failCmd c 5 s))) ∧
    (AtCommand s seq 0x0808 c →
      let op := carriedOp c
      let slice := (fieldSlice (carriedField c)).getD 0
      let set := if s.cfg.edited then s.cfg.shadow else s.cfg.active
      op ∈ setOps → paramsOk op (carriedParams c) = true → sliceForm op (carriedField c) = true →
      setParamsOk s set op slice (carriedParams c) = true → s.cfg.commit = none → par c 4 4 = s.cfg.active.serial.toNat →
      setResources s set op slice (carriedParams c) = true → exec (.editShadow seq) s = .next (finishOk c set.serial.toNat []
        { s with cfg := { s.cfg with shadow := setApply set op slice (carriedParams c), edited := true } })) ∧
    (AtCommand s seq 0x0809 c → c.phase = .fresh → s.cfg.commit = none → par c 4 4 = s.cfg.active.serial.toNat →
      (∀ r, par c 0 1 = 1 → s.cfg.edited = false → s.cfg.rollback = some r → notQuiesced s (changedSlices s.cfg.active r) = none →
        exec (.commitShadow seq) s = .next (staged r)) ∧
      (par c 0 1 = 0 → s.cfg.edited = true → notQuiesced s (changedSlices s.cfg.active s.cfg.shadow) = none →
        exec (.commitShadow seq) s = .next (staged s.cfg.shadow)))

/-- The role and the commands that report (R355, R356, R358 to R360, R363, R375, R425, R478, R566, R578): `CLAIM_MANAGER` takes the role when it is free or
already the sender's, gives it up, or is denied; a lease runs from the tick at which its command was accepted, and `LEASE_RENEW` starts it over
at its acceptance; the warning comes once; the end of a lease frees the role, discards the edits and holds a pending commit. `QUERY_CAPS`, `READ_FAULTS`, `READ_TELEMETRY` and `ATTEST` report, and `READ_FAULTS` takes the records it moved off
the ring. A command that ends leaves the commands in progress; its reply is in the log, whose length stays at most 1,024, unless it is `BUSY`
(log 27); nothing else of the role changes. -/
def Obligations.ManagerRoleAndReports : Prop :=
  (∀ (s : State) (seq : Word32) (c : CmdReq),
      (AtCommand s seq 0x0806 c →
        ((s.mgr.holder = none ∨ s.mgr.holder = some c.sender) → par c 0 1 ≠ 1 → let t := grantLease c.sender c.tick s
          exec (.claimManager seq) s = .next (finishOk c 0 (claimDetail t) t) ∧ t.mgr.holder = some c.sender ∧ t.mgr.expiry = c.tick + 78125000) ∧
        (s.mgr.holder = some c.sender → par c 0 1 = 1 → let t := freeRole s
          exec (.claimManager seq) s = .next (finishOk c 0 (claimDetail t) t) ∧ t.mgr.holder = none) ∧
        (s.mgr.holder ≠ none → s.mgr.holder ≠ some c.sender → exec (.claimManager seq) s = .next (finish c 6 0 (claimDetail s) s))) ∧
      (AtCommand s seq 0x0807 c → exec (.leaseRenew seq) s = .next (finishOk c 0 (leBytes (c.tick + 78125000) 8) s)) ∧
      (c.opcode = 0x0807 → (acceptCmd c s).mgr.holder = some c.sender ∧ (acceptCmd c s).mgr.expiry = now s + 78125000) ∧
      (let t := acceptCmd c s; t.mgr.accepted = s.mgr.accepted ++ [accepted s c] ∧ (accepted s c).tick = now s ∧ t.mgr.log = s.mgr.log ∧
        t.slices = s.slices ∧ t.queues = s.queues ∧ t.cfg = s.cfg) ∧
      (s.mgr.holder ≠ none → s.mgr.warned = false → s.mgr.expiry ≤ now s + 15625000 →
        exec .leaseWarning s = .next (raiseSource 3 { s with mgr := { s.mgr with warned := true } })) ∧
      (s.mgr.holder ≠ none → s.mgr.expiry ≤ now s → (mailbox s 0).lock.map Prod.snd ≠ s.mgr.holder → 
        let s0 := holdCommit { s with mgr := { s.mgr with holder := none, expiry := 0, warned := false } }
        exec .leaseExpiry s = .next (raiseSource 4 { s0 with
          cfg := { s0.cfg with shadow := s.cfg.rollback.getD s.cfg.active, edited := false }
          mgr := { s0.mgr with lapsed := true } })) ∧
      (AtCommand s seq 0x0801 c → exec (.queryCaps seq) s = .next (finishOk c 0 (capsDetail s) { s with free := s.free + 8 })) ∧
      (AtCommand s seq 0x0505 c → let n := min (par c 0 4) s.fq.ring.length
        bufferOk s (par c 8 8) (64 * n) = true → let moved := s.fq.ring.take n
        let t := refreshLevels (bufferWrite (par c 8 8) ((moved.map recordBytes).flatten) { s with fq := { s.fq with ring := s.fq.ring.drop n } })
        exec (.readFaults seq) s = .next (finishOk c 0
          (leBytes n 4 ++ leBytes ((moved.head?.map (fun r => (seqWord r).toNat)).getD 0) 4 ++ leBytes (fqStatus t) 4) t)) ∧
      (AtCommand s seq 0x0805 c → bufferOk s (par c 8 8) (par c 16 4) = true →
        let bs := (telemetryReport s (par c 0 2) (cmdSlice c)).take (par c 16 4)
        exec (.readTelemetry seq) s = .next (finishOk c 0 (leBytes bs.length 4) (bufferWrite (par c 8 8) bs (stepFree s)))) ∧
      (AtCommand s seq 0x0601 c → let named := fieldSlice c.sliceField
        let report := Config.attestReport s.free (c.params.take 32) named.isSome
        (∀ i, named = some i → beingResurfaced s i = false) → bufferOk s (par c 32 8) (par c 40 4) = true → exec (.attest seq) s = .next
          (if report.length ≤ par c 40 4 then
            finishOk c 0 (leBytes report.length 4) (bufferWrite (par c 32 8) report { s with free := s.free + 1 })
          else finish c 3 report.length [] s))) ∧
  (∀ (s : State) (c : CmdReq) (status d0 : Nat) (detail : List Byte),
      let t := finish c status d0 detail s
      (∀ x ∈ t.mgr.accepted, ¬(x.seq = c.seq ∧ x.opcode = c.opcode)) ∧
      (∀ x ∈ s.mgr.accepted, x.seq ≠ c.seq → x ∈ t.mgr.accepted) ∧
      (status ≠ 1 → (c.seq, makeReply c status d0 detail) ∈ t.mgr.log ∧ t.mgr.log.length ≤ 1024) ∧
      (status = 1 → t.mgr.log = s.mgr.log) ∧
      t.mgr.holder = s.mgr.holder ∧ t.mgr.expiry = s.mgr.expiry ∧ t.slices = s.slices ∧ t.queues = s.queues ∧ t.cfg = s.cfg)
/-- Commands on the queues of a slice (R16, R17, R45, R80, R372, R373, R376 to R383, R483, R574): what each does once its parameters hold. A stop and
a resume go through the slice's run-control word, whose acknowledge field lists what was found. `QUIESCE` without `FORCE` stops fetching;
with it, and `RESET_SLICE`, stop the queues' work at once; both wait for the other blocks. `RESUME` of a
queue of this block restarts it; `CREATE_QUEUE` adds it; `DESTROY_QUEUE` takes it away when it is at rest or empty; `SET_TIMEOUT` holds
from the next tick; `RESURFACE` plans its chair. -/
def Obligations.QueueCommands : Prop :=
  ∀ (s : State) (seq : Word32) (c : CmdReq), c.phase = .fresh →
    let slice := cmdSlice c
    let others := sliceBlocks s slice
    let owner := fun (b : Nat) => if b = s.boot.blkId then [] else [b]
    (∀ cmd op, (cmd, op) ∈ [(Instr.quiesce seq, 0x0103), (.resetSlice seq, 0x0105)] → AtCommand s seq op c → c.opcode = op →
      stopParamsOk s c = true → stopBusy s c = false →
      let qs := namedQueues s op slice c.params
      let a := askStop slice qs (stopForced op c.params) (op == 0x0105) s
      let s1 := obeyStop slice (.manager c.seq) a
      (stopForced op c.params = true → exec cmd s = .next (settleCommands
        (setPhase c.seq (.stopping others (ackOf s1 slice) (foundCounts s slice qs)) (passOn others c s1)))) ∧
      (stopForced op c.params = false → exec cmd s = .next (settleCommands
        (setPhase c.seq (.stopping [] (ackOf s1 slice) []) (passOn others c s1)))) ∧
      (findSlice s slice ≠ none → s1 = if stopForced op c.params then forceStop slice qs (.manager c.seq) (op == 0x0105) a
        else beginQuiesce slice qs (writeAck slice (faultEntries a slice qs) a))) ∧
    (AtCommand s seq 0x0104 c → commitChanges s slice = false → stopBusy s c = false →
      (∀ x, par c 0 1 = 0 → findQueue s slice (par c 4 4) = some x → queueAtRest x = true →
        exec (.resume seq) s = .next (finishOk c 0 [] (passOn (owner x.owner) c (obeyResume slice 0 (par c 4 4) s)))) ∧
      obeyResume slice 0 (par c 4 4) s = writeAck slice [] (resumeQueue slice
        (writeControl slice (fun k => { k with resume := some (0, par c 4 4), ack := none }) s) (par c 4 4)) ∧
      (∀ o, par c 0 1 = 1 → par c 4 4 / 2 ^ 29 = s.boot.blkId → openOf s slice (BitVec.ofNat 32 (par c 4 4)) = some o →
        let a := writeControl slice (fun k => { k with resume := some (1, par c 4 4), ack := none }) s
        let t := writeAck slice (openEngines a o) (closeOpen o a)
        exec (.resume seq) s = .next (resumeReply c (ackOf t slice) t)) ∧
      (par c 0 1 = 2 → restingQueues s slice ≠ [] →
        let a := writeControl slice (fun k => { k with resume := some (2, par c 4 4), ack := none }) s
        exec (.resume seq) s = .next (finishOk c 0 [] (passOn others c
          (writeAck slice [] ((restingQueues s slice).foldl (resumeQueue slice) (clearContextTallies slice a))))))) ∧
    (AtCommand s seq 0x0201 c → let x := newQueue slice c.params
      ∀ p, poolOn s slice x.owner = some p → x.id < 64 → 4 ≤ x.ringLog2 → x.ringLog2 ≤ 16 → findQueue s slice x.id = none → ringOk s slice x = true →
      ((s.queues.filter (fun q => q.slice == slice && q.owner == x.owner)).length < p.qlimit →
        exec (.createQueue seq) s = .next (finishOk c 0 [] (passOn others c (addQueue x s)))) ∧
      (p.qlimit ≤ (s.queues.filter (fun q => q.slice == slice && q.owner == x.owner)).length → exec (.createQueue seq) s = .next (failCmd c 5 s))) ∧
    (AtCommand s seq 0x0202 c → ∀ x, findQueue s slice (par c 0 1) = some x → x.owner = s.boot.blkId →
      exec (.destroyQueue seq) s = .next (if mayDestroy x then finishOk c 0 [] (passOn others c (removeQueue slice (par c 0 1) s))
        else finish c 4 (slice + par c 0 1 * 2 ^ 16) [] s)) ∧
    (AtCommand s seq 0x0203 c → ∀ x, findQueue s slice (par c 0 1) = some x → 1000 ≤ par c 8 8 → par c 8 8 ≤ 10 ^ 12 →
      let ticks := (par c 8 8 + 63) / 64
      exec (.setTimeout seq) s = .next (finishOk c 0 (leBytes ticks 8) (passOn (owner x.owner) c
        (mapQueue slice (par c 0 1) (fun y => { y with newTimeout := some ticks }) s)))) ∧
    (AtCommand s seq 0x0605 c → unquiesced s slice = none → ∀ sl, findSlice s slice = some sl → sl.resurf = none →
      (∀ x ∈ s.mgr.accepted, x.opcode ≠ 0x0604) →
      exec (.resurface seq) s = .next (setPhase c.seq .waiting (passOn others c (planResurface slice (some c.seq) s))))

/-- Commands on segments, logs and tallies (R271 to R276, R298, R300, R306, R308, R384, R467, R581): `MAP_SEGMENT` and `UNMAP_SEGMENT` change
the staged bank only; `SYNC_TABLES` to the next generation asks every block to prepare, and to the generation in force replies at once;
a log starts; its swap makes the other blocks ready first, then fixes its tick, and hands back the bitmap that was active; `DUMP_SYNC` plans
its image for the end of one tick on every block (log 81); `SNAPSHOT` captures into the buffer, or installs an image on every block, and leaves
the active set as it is;
`SET_TALLY` changes the tally and is recorded. -/
def Obligations.SliceStateCommands : Prop :=
  ∀ (s : State) (seq : Word32) (c : CmdReq) (sl : Slice), c.phase = .fresh → findSlice s (cmdSlice c) = some sl →
    let slice := cmdSlice c
    let others := sliceBlocks s slice
    let n := par c 0 1
    let g := segmentOf (c.params.drop 8)
    let y : Sync := { seq := c.seq, gen := sl.gen + 1, since := now s, acks := [], switchTick := none, switched := false, drained := [] }
    (AtCommand s seq 0x0301 c → mapOk s sl n (c.params.drop 8) = true → sl.sync = none →
      exec (.mapSegment seq) s = .next (genReply c (passOn (otherBlocks s) c (bindKey g.key slice
        (mapSlice slice (fun x => { x with staged := x.staged.set n g }) s))))) ∧
    (AtCommand s seq 0x0302 c → n < 16 → sl.sync = none →
      exec (.unmapSegment seq) s = .next (genReply c (passOn others c (unmapSegment slice n s)))) ∧
    (AtCommand s seq 0x0303 c →
      (par c 0 4 = sl.gen + 1 → sl.sync = none → exec (.syncTables seq) s = .next (setPhase c.seq .waiting
        (emitD2d others (.mgmt (.syncPrepare slice (sl.gen + 1))) (mapSlice slice (fun x => { x with sync := some y }) s)))) ∧
      (par c 0 4 = sl.gen → sl.sync = none → exec (.syncTables seq) s = .next (genReply c s)) ∧
      ((par c 0 4 = sl.gen ∨ par c 0 4 = sl.gen + 1) → sl.sync ≠ none → exec (.syncTables seq) s = .next (failCmd c 1 s))) ∧
    (AtCommand s seq 0x0304 c → n < 16 → (segmentAt sl.staged n).v = true → bufferOk s (par c 8 8) (bitmapBytes (segmentAt sl.staged n)) = true →
      bufferOk s (par c 16 8) (bitmapBytes (segmentAt sl.staged n)) = true → findLog sl n = none →
      exec (.startDirtyLog seq) s = .next (genReply c (passOn others c (mapSlice slice (fun x => { x with dirty := x.dirty ++
        [{ segment := n, active := par c 8 8, shadow := par c 16 8}] }) s)))) ∧
    (∀ cmd op stop, (cmd, op, stop) ∈ [(Instr.readDirtyLog seq, 0x0305, false), (.stopDirtyLog seq, 0x0306, true)] → AtCommand s seq op c →
      c.opcode = op → ∀ d, findLog sl n = some d → logBusy s c = false →
      (sl.sync ≠ none → exec cmd s = .next (setPhase c.seq .waiting s)) ∧
      (sl.sync = none →
        let w : LogSwap := { segment := n, stop := stop, since := now s, acks := [], swapTick := none }
        let s1 := setPhase c.seq (.asked others true [] []) (mapSlice slice (fun x => { x with logSwap := some w }) s)
        (others = [] → exec cmd s = .next (fixLogSwap slice s1)) ∧
        (others ≠ [] → exec cmd s = .next (emitD2d others (.mgmt (.logPrepare slice n)) s1)))) ∧
    (AtCommand s seq 0x0401 c → bufferOk s (par c 0 8) (par c 8 4) = true →
      let t := if others = [] then now s else now s + 16
      exec (.dumpSync seq) s = .next (setPhase c.seq (.asked (s.boot.blkId :: others) true [] [(0, t, 0)])
        (passOnAt others c t { s with tick := { s.tick with dumps := s.tick.dumps ++ [(slice, t)] } }))) ∧
    (AtCommand s seq 0x0402 c → n = s.boot.blkId → ∀ u, tallyUnit (par c 1 1) = some u → (findUnit s u slice).isSome = true →
      par c 2 1 < tallyCount s slice u → let r := setTally slice u (par c 2 1) (par c 8 8) s
      exec (.setTally seq) s = .next (finishOk c 0 r.2 r.1)) ∧
    (AtCommand s seq 0x0504 c → n = 0 → bufferOk s (par c 8 8) (par c 16 4) = true →
      (∀ x ∈ s.queues, x.slice = slice → x.state = .quiesced) → let bs := Config.snapshotBytes (captureSlice s slice [])
      (others = [] → exec (.snapshot seq) s = .next
        (if bs.length ≤ par c 16 4 then finishOk c 0 (leBytes bs.length 4) (bufferWrite (par c 8 8) bs s) else failCmd c 3 s)) ∧
      (others ≠ [] → exec (.snapshot seq) s = .next (setPhase c.seq (.asked others true [] []) (passOn others c s)))) ∧
    (AtCommand s seq 0x0504 c → n = 1 → bufferOk s (par c 8 8) (par c 16 4) = true → installable s slice = true →
      ∀ bs im, bufferRead s (par c 8 8) (par c 16 4) = some bs → Config.snapshotImage bs = some im → snapshotOk s slice im = true →
        exec (.snapshot seq) s = .next (finishOk c 0 (leBytes (par c 16 4) 4)
          (emitD2d others (.mgmt (.install slice im)) (installSlice slice im (stepFree s)))) ∧
        (installSlice slice im (stepFree s)).cfg = s.cfg)

/-- Keys and firmware (R471, R473, R476, R477, R480 to R482, R535): a session opens with the response in the message's buffer; a wrapped key of the
slice is bound to the lowest free weight slot; weights are loaded chunk by chunk, and a chunk whose tag fails ends the load; an update
opens and erases the inactive slot, takes its parts, and verifies the image with the last one; a hand-off waits for the new image, which
becomes active when it has read the schema; without it the old image goes on. -/
def Obligations.KeyAndFirmwareCommands : Prop :=
  ∀ (s : State) (seq : Word32) (c : CmdReq),
    let slice := cmdSlice c
    (AtCommand s seq 0x0602 c → par c 0 1 = 0 → beingResurfaced s slice = false → exec (.openKeySession seq) s = .next
      (if bufferOk s (par c 8 8) Config.spdmLength = false then failCmd c 3 s else match bufferRead s (par c 8 8) Config.spdmLength with
        | none => bufferBad c (par c 8 8) s
        | some msg => match Config.spdmResponse s.free msg with
          | none => failCmd c 12 { s with free := s.free + 1 }
          | some r => openSession c 0 r s)) ∧
    (AtCommand s seq 0x0603 c → bufferOk s (par c 8 8) (par c 16 4) = true → sessionOpen s (par c 0 4) slice = true → s.boot.dbgUnlocked = false →
      ∀ k wrapped, freeWeightSlot s = some k → bufferRead s (par c 8 8) (par c 16 4) = some wrapped →
        exec (.releaseKey seq) s = .next (match Config.unwrapKey (par c 0 4) wrapped with
          | none => failCmd c 12 (writeRecord (plainRecord 0x802 0 0) s)
          | some (tag, ok) => if tag = sliceTag s slice ∧ ok = true then
              finishOk c 0 (leBytes k 4) { s with keys := { s.keys with
                weight := s.keys.weight ++ [(k, slice, s.keys.released)], released := s.keys.released + 1 } }
            else failCmd c 6 s)) ∧
    (AtCommand s seq 0x0604 c → ∀ sl w, findSlice s slice = some sl →
      s.keys.weight.find? (fun w => w.1 == par c 0 4 && w.2.1 == slice) = some w →
      let len := par c 24 8
      let n := (len + 65535) / 65536
      bufferOk s (par c 8 8) (len + 16 * n) = true → destOk s sl (par c 16 8) len = true →
      exec (.loadWeights seq) s = .next (match loadChunks .none sl w.2.2 n (par c 8 8) (par c 16 8) len 0 s with
        | (t, .done b) => finishOk c 0 (leBytes b 8) t
        | (t, .badTag b) => finish c 12 0 (leBytes b 8) t
        | (t, .badRead pa b) => finish c 12 0 (leBytes b 8) (writeRecord (plainRecord 0x502 pa 0) t))) ∧
    (AtCommand s seq 0x0802 c → par c 0 4 ≤ 2 ^ 24 → s.fw.handoff = none →
      (s.fw.opened = none → exec (.fwUpdateBegin seq) s = .next
        (finishOk c 0 (leBytes (inactiveSlot s) 4) (passOn (otherBlocks s) c (beginUpdate (par c 0 4) s)))) ∧
      (s.fw.opened ≠ none → exec (.fwUpdateBegin seq) s = .next (failCmd c 1 s))) ∧
    (AtCommand s seq 0x0803 c → ∀ total bs, s.fw.opened = some total → s.fw.verified = false → par c 0 4 + par c 16 4 ≤ total →
      bufferOk s (par c 8 8) (par c 16 4) = true → bufferRead s (par c 8 8) (par c 16 4) = some bs →
      let t := passOn (otherBlocks s) c (stagePart (par c 0 4) bs s)
      let n := stagedBytes t.fw.staged
      (n < total → exec (.fwUpdateStage seq) s = .next (finishOk c 0 (leBytes n 4) t)) ∧
      (total ≤ n → exec (.fwUpdateStage seq) s = .next
        (if (verifyStaged t).fw.verified then finishOk c 0 (leBytes n 4) (verifyStaged t) else failCmd c 12 (verifyStaged t)))) ∧
    (AtCommand s seq 0x0804 c → c.phase = .fresh → s.fw.handoff = none → s.fw.verified = true → exec (.fwHandoff seq) s = .next
      (passOn (otherBlocks s) c (setPhase c.seq .waiting { s with fw := { s.fw with handoff := some (c.seq, none) } }))) ∧
    (∀ t, s.fw.handoff = some (seq, some t) →
      exec (.fwHandoffAck true) s = .next (endHandoff (fun c s => finishOk c 0 (leBytes s.fw.revision.toNat 4) s) (activateImage s)) ∧
      exec (.fwHandoffAck false) s = .next (endHandoff (fun c s => failCmd c 12 s) s) ∧
      (now s < t + 1562500 → exec .fwHandoffTimeout s = .next s) ∧
      (t + 1562500 ≤ now s → exec .fwHandoffTimeout s = .next (endHandoff (fun c s => failCmd c 8 s) s)))

/-- Commands on schuss, lanes, and the twin (R348, R351, R374, R445, R446, R459, R565): `SET_SCHUSS` sets the permit; `LANE_TEST` puts lanes into
their tests, which clears their counters, a lane that generates sends its pattern, a group whose lanes all come back retrains, and it refuses
with NO_RESOURCE when no group would carry traffic; `LANE_STATE` begins a change of one group, one that leaves LS2 for LS0 retrains, and it
never takes the last group out of LS0; `PAIR_TWIN` with mode 2 enters `SOLO`, and otherwise asks the other block and waits 5 s for its word;
a request of that block that came within the last 5 s counts, and one with another mode denies the command;
`UNPAIR` leaves the twin; `FAILOVER` asks for a planned handover. -/
def Obligations.LinkAndTwinCommands : Prop :=
  ∀ (s : State) (seq : Word32) (c : CmdReq),
    (AtCommand s seq 0x0702 c → let t := { s with power := { s.power with permit := par c 0 1 == 1 } }
      exec (.setSchuss seq) s = .next (finishOk c 0 (leBytes (schussDetail t) 4) { t with free := s.free + 24 })) ∧
    (AtCommand s seq 0x0703 c → let n := byteField c.params 0 1
      0 < n → n ≤ 48 → (∀ i < n, laneEntryOk c.params i = true) →
      let s1 := (laneEntries c.params).foldl startTest s
      let back := (List.range 8).filter (fun g => groupTesting s g && !groupTesting s1 g && (groupAt s1 g).up)
      let s2 := back.foldl (fun s g => setGroup g { groupAt s g with retrain := true } s) s1
      let sent := ((laneEntries c.params).filter (fun e => e.mode % 2 == 1)).map (fun e => Output.pattern e.lane (prbs e.pat).1 (prbs e.pat).2)
      exec (.laneTest seq) s = .next (if anyGroupUp s2 then finishOk c 0
        (leBytes (maskOf ((List.range 8).filter (fun g => !groupTesting s g && groupTesting s1 g))) 4) (emitAll sent s2) else failCmd c 5 s)) ∧
    (prbs 1 = (7, [6, 0]) ∧ prbs 2 = (13, [12, 2, 1, 0]) ∧ prbs 3 = (15, [14, 0]) ∧ prbs 4 = (23, [18, 0]) ∧ prbs 5 = (31, [28, 0])) ∧
    (AtCommand s seq 0x0704 c → let g := byteField c.params 0 1
      let st := byteField c.params 1 1
      let x := groupAt s g
      g < 8 → st < 3 →
      ((st = 0 ∨ ∃ h < 8, h ≠ g ∧ groupTarget s h = 0) → exec (.laneState seq) s = .next (finishOk c 0 (leBytes x.ls 4) (setGroup g { x with
        exiting := if x.exiting.getD x.ls = st then x.exiting else some st
        retrain := x.retrain || (x.ls == 2 && st == 0 && x.up)
        power := if st < x.ls then st else x.power } s))) ∧
      (st ≠ 0 → (∀ h < 8, h ≠ g → groupTarget s h ≠ 0) → exec (.laneState seq) s = .next (failCmd c 3 s))) ∧
    (AtCommand s seq 0x0501 c → c.phase = .fresh → s.twin.state = .unpaired → s.twin.fenced = false → s.twin.asked = none →
      (par c 2 1 = 2 → exec (.pairTwin seq) s = .next (replyTwin c (setTwinState .solo s)) ∧ (setTwinState .solo s).twin.state = .solo) ∧
      (par c 2 1 < 2 → par c 0 2 < 4096 → par c 0 2 ≠ ownNode s → s.twin.peerAsked = none → exec (.pairTwin seq) s = .next
        (setPhase c.seq .waiting (emit (.tether (.pairRequest (par c 2 1) (par c 0 2))) { s with twin := { s.twin with
          asked := some (c.seq, now s), node := some (par c 0 2), mode := par c 2 1, modeWanted := none } }))) ∧
      (∀ m t, par c 2 1 < 2 → par c 0 2 < 4096 → par c 0 2 ≠ ownNode s → s.twin.peerAsked = some (par c 0 2, m, t) → now s < t + 78125000 →
        let s1 := setPhase c.seq .waiting (emit (.tether (.pairRequest (par c 2 1) (par c 0 2))) { s with twin := { s.twin with
          asked := some (c.seq, now s), node := some (par c 0 2), mode := par c 2 1, modeWanted := none } })
        exec (.pairTwin seq) s = .next (if m = par c 2 1 then beginPairing (par c 0 2) m s1 else failPairing 6 s1))) ∧
    (∀ q t, s.twin.asked = some (q, t) →
      (now s < t + 78125000 → exec .pairTwinTimeout s = .next s) ∧
      (t + 78125000 ≤ now s → exec .pairTwinTimeout s = .next (failPairing 8 { s with twin := { s.twin with modeWanted := none } }))) ∧
    (AtCommand s seq 0x0502 c → failingOver s = false →
      (s.twin.state = .unpaired → exec (.unpair seq) s = .next (replyTwin c s)) ∧
      (s.twin.state ≠ .unpaired → exec (.unpair seq) s = .next (replyTwin c (leaveTwin s)) ∧ (leaveTwin s).twin.state = .unpaired ∧
        (leaveTwin s).twin.node = none)) ∧
    (AtCommand s seq 0x0503 c → c.phase = .fresh → failingOver s = false → pairedNow s = true → s.twin.node = some (par c 0 2) →
      exec (.failover seq) s = .next (setPhase c.seq .waiting (emit (.tether .handover) { s with twin := { s.twin with handover := some c.seq } })))

/-! ### Recovery and twins (spec/13) -/

/-- Recovery and twins (R424, R428 to R437, R440 to R444, R448, R449, R452, R453). Rung 1 begins when an engine reports a control error, or has not stopped 782
ticks after it was asked; it names each context on the unit and clears one engine; a rung that outlives its limit passes to the next; units
that come back leave the ladder, and the last one ends it. A core without progress for 31,250 ticks restarts. A scheduler core's third restart within an hour leaves it down. A
restart of the management pair drops the commands in progress and lengthens a lease by its own length. A checking array whose result is
the captured one charges nothing. The image of a step that is due goes to the twin; 1,562,500 ticks without a heartbeat begin a probe, and
a further 2,343,750 without an answer, with a port group up, a failover; the acknowledged remap makes the failed node one that this block
answers for. -/
def Obligations.RecoveryEvents : Prop :=
  (∀ (s : State) (u : UnitId) (eng : Nat),
      (∀ why, unitOk u = true → underReset s u eng = false →
        (why = .controlError ∨ ∃ t, (unitIdx u, t) ∈ s.recovery.stopAsked ∧ t + 782 ≤ now s) →
        let l : Ladder := { id := s.recovery.nextLadder, rung := 1, since := now s, left := [unitIdx u], unit := u, eng := eng }
        exec (.resetRung u eng why) s = .next (noteRung 1 [unitIdx u] (resetEngine u eng (noteHang u
          { s with recovery := { s.recovery with ladders := s.recovery.ladders ++ [l], nextLadder := s.recovery.nextLadder + 1 } })))) ∧
      (∀ why, (underReset s u eng = true ∨ (why = .notStopped ∧ ∀ t, (unitIdx u, t) ∈ s.recovery.stopAsked → now s < t + 782)) →
        exec (.resetRung u eng why) s = .next s) ∧
      (∀ id l, s.recovery.ladders.find? (fun l => l.id == id) = some l →
        (now s < l.since + rungLimit l.rung → exec (.rungLimitExpiry id) s = .next s) ∧
        (l.since + rungLimit l.rung ≤ now s →
          (l.rung = 1 → exec (.rungLimitExpiry id) s = .next (climb l 2 [unitIdx l.unit] s)) ∧
          (l.rung = 2 → exec (.rungLimitExpiry id) s = .next (climb l 3 (List.range 41) s)) ∧
          (l.rung = 3 → exec (.rungLimitExpiry id) s = .next (rungFour l s)) ∧ (l.rung = 4 → exec (.rungLimitExpiry id) s = .next (rungFive l s))) ∧
        (∀ back, l.rung = 1 → (∀ x ∈ l.left, x ∈ back) → exec (.rungComplete id back) s = .next (dropLadder id s)) ∧
        (∀ back, l.rung = 1 → (∃ x ∈ l.left, x ∉ back) →
          exec (.rungComplete id back) s = .next (putLadder { l with left := l.left.filter (fun x => !back.contains x) } s)) ∧
        (∀ back, 2 ≤ l.rung → exec (.rungComplete id back) s = .next
          ((l.left.filter (fun x => back.contains x && decide (x < 40))).foldl (fun s x => allocate (unitAt x) s)
            (if l.left.all back.contains then dropLadder id s else putLadder { l with left := l.left.filter (fun x => !back.contains x) } s)))) ∧
      (∀ k, k < 4 → now s < Sparse.get 0 s.recovery.schedSeen k + 31250 → exec (.schedWatchdog k) s = .next s) ∧
      (∀ k, k < 4 → Sparse.get 0 s.recovery.schedSeen k + 31250 ≤ now s → (s.recovery.schedDown ||| s.recovery.schedRestarting).getLsbD k = false →
        exec (.schedWatchdog k) s = .next { s with recovery := { s.recovery with
          schedRestarting := s.recovery.schedRestarting ||| (1#4 <<< k), schedRestarts := s.recovery.schedRestarts ++ [(k, now s)] } }) ∧
      (∀ k ok, k < 4 → s.recovery.schedRestarting.getLsbD k = true →
        let n := (s.recovery.schedRestarts.filter (fun e => e.1 == k && decide (now s < e.2 + 56250000000))).length
        exec (.schedRestart k ok) s = .next (writeRecord (plainRecord 0x905 0 0) { s with recovery := { s.recovery with
          schedRestarting := s.recovery.schedRestarting &&& ~~~(1#4 <<< k)
          schedSeen := Sparse.put s.recovery.schedSeen k (now s)
          schedDown := if ok = false ∨ 3 ≤ n then s.recovery.schedDown ||| (1#4 <<< k) else s.recovery.schedDown } })) ∧
      (s.recovery.restartSince = none → s.cfg.commit = none → exec .lockstepMismatch s = .next { s with
        mgr := { s.mgr with accepted := [] }, recovery := { s.recovery with restartSince := some (now s) } }) ∧
      (∀ k, s.recovery.restartSince = none → s.cfg.commit = some k →
        let s1 := { s with mgr := { s.mgr with accepted := [] }, recovery := { s.recovery with restartSince := some (now s) } }
        exec .lockstepMismatch s = .next (if s.boot.isLead ∧ k.go = none then abortCommit k 8 s1 else holdCommit s1)) ∧
      (∀ t, s.recovery.restartSince = some t → s.mgr.holder = none → exec .lockstepRestart s = .next
        (raiseSource 0 (writeRecord (plainRecord 0x906 0 0) { s with recovery := { s.recovery with restartSince := none } }))) ∧
      (∀ t, s.recovery.restartSince = some t → s.mgr.holder ≠ none → exec .lockstepRestart s = .next
        (raiseSource 0 (writeRecord (plainRecord 0x906 0 0) { s with
          recovery := { s.recovery with restartSince := none }, mgr := { s.mgr with expiry := s.mgr.expiry + (now s - t) } }))) ∧
      (∀ r, s.boot.isLead = true → exec (.faultRecordArrive r) s = .next (enterRing r s)) ∧
      (∀ c second third, headEmpty s u eng = true → s.patrol.captures.find? (fun c => nextArray s (captureArray c) == arrayIx u eng) = some c →
        let s1 := { s with patrol := { s.patrol with captures := s.patrol.captures.erase c } }
        (second = 0 → exec (.patrolRun u eng second third) s = .next s1) ∧
        (second ≠ 0 → exec (.patrolRun u eng second third) s = .next (patrolMismatch c second third s1))) ∧
      (∀ c, s.patrol.captures.find? (fun c => decide (c.unit = u) && c.eng == eng) = some c → exec (.patrolDiscard u eng) s = .next { s with
        patrol := { s.patrol with captures := s.patrol.captures.erase c }
        telemetry := { s.telemetry with patrolDiscards := s.telemetry.patrolDiscards + 1 } })) ∧
  (∀ (s : State),
      (∀ slice sl g l, findSlice s slice = some sl → imageDue sl = some (g, l) → mirroring s = true → sl.aborted = false →
        (findContext s slice).isSome = true → exec (.stepImage slice) s = .next
          (mapSlice slice (fun y => { mapLaunch g.handle l.number (fun l => { l with imageSent := true }) y with dirtyPages := [] })
            (sendImage (sliceImage s sl l.stepNo true (dirtyRanges s sl)) s))) ∧
      (pairedNow s = true → s.twin.probing = none →
        (s.twin.lastHeartbeat + 1562500 ≤ now s →
          exec .twinHeartbeatTimeout s = .next (emit (.tether .probe) { s with twin := { s.twin with probing := some (now s) } })) ∧
        (now s < s.twin.lastHeartbeat + 1562500 → exec .twinHeartbeatTimeout s = .next s)) ∧
      (∀ t, s.twin.probing = some t →
        (pairedNow s = true → anyGroupUp s = true → t + 2343750 ≤ now s → exec .twinProbeTimeout s = .next (beginFailover true s)) ∧
        ((anyGroupUp s = false ∨ now s < t + 2343750) → exec .twinProbeTimeout s = .next s)) ∧
      (∀ node, s.twin.node = some node → s.twin.remapWanted = true → ∃ t, exec .remapAck s = .next t ∧ node ∈ t.fab.assumed ∧
        t.twin.remapWanted = false ∧ t.twin.assumed = some node ∧ (∀ n ∈ s.fab.assumed, n ∈ t.fab.assumed)) ∧
      (∀ node, s.twin.node = some node → (beginFailover true s).twin.state = .failedOver ∧ (beginFailover true s).twin.remapWanted = true))

/-! ### Mailboxes, the host channel and interrupts (spec/12, spec/18) -/

/-- Mailboxes, locks and the shared rings (R387 to R393, R396, R397, R406): a data word is written from the sender side while `GO` is 0, in mailbox 0
only by the holder of the channel lock; `SEND` sets `GO` and records the sender; `ACK` from the receiver side clears it; a free lock is
claimed by any number but 0 and 0xFFFF and is freed only by the number and the identity that hold it; a reset empties a mailbox and its
lock. A count moves forward by at least one entry and at most the room there is, and anything else sets `BADWRITE`. No other mailbox
changes. -/
def Obligations.MailboxesAndRings : Prop :=
  ∀ (s : State) (who : Agent) (m : Nat), m < 16 → Sparse.sorted s.mbx = true →
    let b := mailbox s m
    (∀ i v, i < 16 → reaches s who m = true → senderSide who m = true → b.go = false → (m = 0 → holdsLock s who 0 = true) → mbxUnused s m = false →
      ∃ t, exec (.mbxDataWrite who m i v) s = .next t ∧ mailbox t m = { b with data := Sparse.set 0 b.data i v } ∧
        (∀ j, j ≠ m → mailbox t j = mailbox s j)) ∧
    (∀ i v, i < 16 → (senderSide who m = false ∨ b.go = true ∨ (m = 0 ∧ holdsLock s who 0 = false)) →
      exec (.mbxDataWrite who m i v) s = .next s) ∧
    (reaches s who m = true → senderSide who m = true → b.go = false → (m = 0 → holdsLock s who 0 = true) →
      ∃ t, exec (.mbxSend who m) s = .next t ∧ mailbox t m = { b with go := true, sender := some who } ∧ (∀ j, j ≠ m → mailbox t j = mailbox s j)) ∧
    (m ≠ 1 → reaches s who m = true → receiverSide who m = true → b.go = true →
      exec (.mbxAck who m) s = .next (refreshLevels (setMailbox m { b with go := false } s))) ∧
    (reaches s who 1 = true → receiverSide who 1 = true → (mailbox s 1).go = true →
      exec (.mbxAck who 1) s = .next (refreshLevels (replyTaken (setMailbox 1 { mailbox s 1 with go := false } s)))) ∧
    (∀ n, reaches s who m = true → n ≠ 0 → n ≠ 0xFFFF → b.lock = none →
      ∃ t, exec (.mbxLockClaim who m n) s = .next t ∧ mailbox t m = { b with lock := some (n, who) } ∧ (∀ j, j ≠ m → mailbox t j = mailbox s j)) ∧
    (∀ n, b.lock ≠ none → exec (.mbxLockClaim who m n) s = .next s) ∧
    (∀ n, reaches s who m = true → b.lock = some (n, who) → exec (.mbxLockRelease who m n) s = .next (setMailbox m { b with lock := none } s)) ∧
    (∀ n, b.lock ≠ some (n, who) → exec (.mbxLockRelease who m n) s = .next s) ∧
    (1 < m → exec (.resetMailbox m) s = .next (refreshLevels (setMailbox m {} s))) ∧
    (∀ t, s.chan.replySince = some t → (mailbox s 1).go = true → t + 78125000 ≤ now s → s.mgr.holder = none →
      exec .mbxReplyTimeout s = .next (resetMailbox 1 (resetMailbox 0 s))) ∧
    ((mailbox s 0).lock ≠ none → s.chan.exchange = false → s.chan.lastHostWrite + 78125000 ≤ now s →
      exec .channelLockIdle s = .next (setMailbox 0 { mailbox s 0 with lock := none } s)) ∧
    (isHost who = true → hostOpen s = true → s.chan.kind = 0 → ∀ v : Word32,
      let used := s.chan.reqTail - s.chan.reqHead
      let d := v - s.chan.reqTail
      (1 ≤ d.toNat → d.toNat ≤ 256 - used.toNat → ∃ t, exec (.reqTailWrite who v) s = .next t ∧ t.chan.reqTail = v ∧ t.chan.badWrite = false ∧
        t.chan.reqHead = s.chan.reqHead) ∧
      ((d = 0 ∨ 256 - used.toNat < d.toNat) → exec (.reqTailWrite who v) s = .next { s with chan := { s.chan with badWrite := true } })) ∧
    (isHost who = true → hostOpen s = true → s.chan.kind = 0 → ∀ v : Word32,
      let d := v - s.chan.rplHead
      (1 ≤ d.toNat → d.toNat ≤ (s.chan.rplTail - s.chan.rplHead).toNat → exec (.rplHeadWrite who v) s = .next
        (pumpReplies (noteHolder who { s with chan := { s.chan with rplHead := v, badWrite := false } }))) ∧
      ((d = 0 ∨ (s.chan.rplTail - s.chan.rplHead).toNat < d.toNat) →
        exec (.rplHeadWrite who v) s = .next { s with chan := { s.chan with badWrite := true } })) ∧
    (managerRuns s = true → s.chan.kind = 0 → (mailbox s 0).go = false → exec .channelRequestTake s = .next (refreshLevels (takeRing s))) ∧
    (managerRuns s = true → (mailbox s 0).go = true →
      (s.chan.kind = 1 → exec .channelRequestTake s = .next (refreshLevels (takeFormat1 s))) ∧
      (s.chan.kind = 2 → exec .channelRequestTake s = .next (refreshLevels (takeFormat2 s))) ∧
      (s.chan.kind = 0 → exec .channelRequestTake s = .next (refreshLevels (discardMessage s))))

/-- Interrupts and registers (R409 to R418, R426, R501, R546, R569, R570): at the lead an event of an edge source becomes pending, and is owed a message
exactly when the host has enabled it; a write of 1 clears an edge source with its message; the lowest-numbered source that may send does,
with its vector, and its group holds off; a core takes the lowest-numbered pending source enabled for it; while the unit is off the
watcher latches what it selects. A register write acts only from the host at an open lead, whole and aligned. -/
def Obligations.InterruptsAndRegisters : Prop :=
  ∀ (s : State) (n : Nat),
    (n < 256 → sourceLevel n = false → sourceReserved n = false → s.boot.isLead = true → s.icu.powered = true →
      (∀ cmd ∈ [Instr.interruptEvent n, .interruptForward n], ∃ t, exec cmd s = .next t ∧ t.icu.pend.getLsbD n = true ∧
        (∀ k, k < 256 → k ≠ n → t.icu.pend.getLsbD k = s.icu.pend.getLsbD k) ∧ (∀ k, k < 256 → k ≠ n → t.icu.owed.getLsbD k = s.icu.owed.getLsbD k) ∧
        t.icu.owed.getLsbD n = (s.icu.owed.getLsbD n || (decide (n < 128) && s.icu.en.getLsbD n)) ∧ { t with icu := s.icu } = s)) ∧
    (n < 256 → sourceLevel n = true → exec (.interruptEvent n) s = .next (refreshLevels s)) ∧
    (n < 256 → sourceReserved n = true → sourceLevel n = false → exec (.interruptEvent n) s = .next s) ∧
    (n < 256 → sourceLevel n = false → sourceReserved n = false → s.boot.isLead = false →
      exec (.interruptEvent n) s = .next (sendD2d s.boot.leadId (.interrupt n) s)) ∧
    (∀ i (v : Word32), i < 8 → hostOpen s = true → ∃ t, exec (.icuPendWrite i v) s = .next t ∧ { t with icu := s.icu } = s ∧
      (∀ k, k < 256 → let gone := decide (k / 32 = i) && v.getLsbD (k % 32) && !sourceLevel k
        t.icu.pend.getLsbD k = (s.icu.pend.getLsbD k && !gone) ∧ t.icu.owed.getLsbD k = (s.icu.owed.getLsbD k && !gone))) ∧
    (∀ g, hostOpen s = true → exec (.icuGdisWrite g) s = .next { s with icu := { s.icu with gdis := g } }) ∧
    (hostOpen s = true → s.icu.gdis = false → s.icu.powered = true → s.pins.nvec ≠ 0 →
      (n < 128 → sourceEligible s n = true → (∀ k, k < n → sourceEligible s k = false) → exec .interruptMessage s = .next
        (emit (.msi (messageVector s n)) (beginHold (n / 16) { s with icu := { s.icu with owed := clearBit256 n s.icu.owed } }))) ∧
      ((∀ k, k < 128 → sourceEligible s k = false) → exec .interruptMessage s = .next s)) ∧
    (s.icu.gdis = true → exec .interruptMessage s = .next s) ∧
    (∀ g, g < 16 → groupFree s g = true → exec (.icuHoldoffExpiry g) s = .next { s with icu := { s.icu with holdUntil := Sparse.del s.icu.holdUntil g } }) ∧
    (∀ core, handlerOf s core = none → let ready := s.icu.pend &&& Sparse.get 0 s.icu.coreEn core
      n < 256 → ready.getLsbD n = true → (∀ k, k < n → ready.getLsbD k = false) →
      exec (.coreInterruptTake core) s = .next { s with icu := { s.icu with coreTaken := Sparse.put s.icu.coreTaken core n } }) ∧
    (n < 256 → s.icu.powered = false → wakeSelected s.icu n = true → n ∉ s.icu.latched →
      exec (.wakeLatch n) s = .next { s with icu := { s.icu with latched := s.icu.latched ++ [n] } }) ∧
    (∀ v : Word32, hostOpen s = true → exec (.fqStatusWrite v) s = .next
      (if v.getLsbD 31 then { s with fq := { s.fq with overflow := false, drop := [] } } else s)) ∧
    (∀ who off (v : Word64), isHost who = true → hostOpen s = true →
      (off % 4 = 0 → exec (.registerWrite who off 4 v) s = .next (writeReg32 who off (v.setWidth 32) s)) ∧
      (off % 8 = 0 → exec (.registerWrite who off 8 v) s = .next
        (writeReg32 who (off + 4) ((v >>> 32).setWidth 32) (writeReg32 who off (v.setWidth 32) s))) ∧
      (off % 4 ≠ 0 → exec (.registerWrite who off 4 v) s = .next s)) ∧
    (∀ who off size (v : Word64), hostOpen s = false → exec (.registerWrite who off size v) s = .next s)

/-! ### The host's aperture, the memory ports and the engine ports (spec/15) -/

/-- Answers and requests at the ports (R232, R497 to R500, R503 to R514, R516, R529, R546): a read or write that a memory controller answers frees its tag
and its bytes go where the request said, with cause 0x502 for what cannot be corrected; an answer to no request has no effect. The host's
aperture serves a ready lead: a bound identity's addresses translate, any other names a block, and a request that fails its checks is
aborted or dropped and counted. A licensee's engine acts only within an open call: a request outside one is answered with status 3 and
counted. A port that the block does not have stops the machine. -/
def Obligations.PortsAnswer : Prop :=
  ∀ (s : State) (port tag : Nat),
    (port < 4 →
      (∀ err, findReq s port tag false = none → exec (.memoryReadResponse port tag err) s = .next s) ∧
      (findReq s port tag true = none → exec (.memoryWriteAck port tag) s = .next s) ∧
      (∀ r, findReq s port tag false = some r →
        (∀ bs, memRead s r.key r.addr r.len = some bs → exec (.memoryReadResponse port tag false) s =
          .next (afterAnswer r.owner (landBytes r.owner r.onRead r.era bs (dropReq port tag s)))) ∧
        exec (.memoryReadResponse port tag true) s = .next (afterAnswer r.owner (ownerFault r.owner 0x502 (reqPa s r) 0 (dropReq port tag s)))) ∧
      (∀ r, findReq s port tag true = some r → r.rmw = none →
        exec (.memoryWriteAck port tag) s = .next (afterAnswer r.owner (dropReq port tag s)))) ∧
    (∀ err, 4 ≤ port → exec (.memoryReadResponse port tag err) s = .fault .noSuchPlace ∧ exec (.memoryWriteAck port tag) s = .fault .noSuchPlace) ∧
    (∀ id off n, hostServes s = true →
      (s.boot.ready = false → exec (.apertureRead id off n tag) s = .next (emit (.completerAbort id tag) s)) ∧
      (s.boot.ready = true → aperturePieces s id .read off n = none →
        exec (.apertureRead id off n tag) s = .next (emit (.completerAbort id tag) (countAperture id s))) ∧
      (∀ ps, s.boot.ready = true → aperturePieces s id .read off n = some ps → exec (.apertureRead id off n tag) s = .next
        (settleGather (hostReads (boundSlice s id) (.host id (tag + 1)) 0 ps (openGather (.host id (tag + 1)) (match boundSlice s id with
          | some sl => cachePages .l2 sl off n s
          | none => s)))))) ∧
    (∀ id off data, hostServes s = true → s.boot.ready = true →
      (aperturePieces s id .write off data.length = none → exec (.apertureWrite id off data) s = .next (countAperture id s)) ∧
      (∀ ps, aperturePieces s id .write off data.length = some ps → exec (.apertureWrite id off data) s = .next
        (hostWrites (boundSlice s id) (.host id 0) ps data (match boundSlice s id with
          | some sl => logWrite (.host id 0) sl .write off data.length (cachePages .l2 sl off data.length s)
          | none => s)))) ∧
    (∀ t : OtherTlp, hostServes s = true → t.poisonedWriteBar = none →
      exec (.hostOtherTlp t) s = .next (if t.needsCompletion then emit (.unsupported t.requester) s else s)) ∧
    (∀ s1, s1 = dropOwned isHostRead .none s →
      exec .hostLinkDown s = .next { s1 with mp := { s1.mp with gather := s1.mp.gather.filter (fun g => !isHostRead g.owner) } }) ∧
    (∀ call, port < 8 → portHere s port = true → let ep := enginePort s port
      exec (.engineCallDone port call) s = .next (settleCommands (settlePort port (setEnginePort port { ep with
        calls := ep.calls.map (fun k => if k.id = call then { k with done := true } else k) } s))) ∧
      (openCall s port call = none → ∀ r : EngineDma, r.call = call → ∀ slot i a,
        exec (.engineDmaRequest port r) s = .next (emit (.dmaResponse port r.tag 3 []) (countPort port s)) ∧
        exec (.engineSignal port call i a) s = .next (countPort port s) ∧ exec (.engineWait port slot call i a) s = .next (countPort port s)) ∧
      (∀ k, openCall s port call = some k →
        (∀ r : EngineDma, r.call = call → 0 < r.len → r.va % 256 + r.len ≤ 256 → dmaRoom ep r.tag = true →
          exec (.engineDmaRequest port r) s = .next (takeDma port k r s)) ∧
        (∀ i a, a ≠ 0 → exec (.engineSignal port call i a) s = .next (settlePort port (setEnginePort port { ep with signals := ep.signals ++
          [{ call := call, slice := k.slice, tally := i, amount := a, writes := callWrites ep call }] } s))) ∧
        (∀ slot i t, slot < 4 → exec (.engineWait port slot call i t) s = .next (wakeEngineWaits (.port port) (setEnginePort port { ep with
          waits := ep.waits.filter (fun x => x.slot != slot) ++ [{ slot := slot, call := call, slice := k.slice, tally := i, threshold := t }] } s))))) ∧
    (∀ call, port < 8 → portHere s port = false → exec (.engineCallDone port call) s = .next s)

/-! ### Power (spec/17) -/

/-- Power (R515, R528, R551, R553 to R560, R565, R568): with a package reading the governor stages one level for the next chair from the available and the
demanded draw, once a chair, and without one repeats the levels; a fast clamp ends schuss, raises the levels to at least 12 and source 2; it
ends after 1 ms of the reference clock and one whole chair with the alert high; a trip takes the clock to 1.2 GHz, then the rail to 620 mV, and raises
source 1. An engine that acknowledges its level is no longer awaited; one that does not within 16 ticks is late. A domain comes on when
it was asked to. -/
def Obligations.PowerEvents : Prop :=
  ∀ (s : State),
    (s.boot.isLead = true → s.boot.ready = true → 16128 ≤ tickOf s → tickOf s < 16352 →
      (s.power.lastGoverned = chairOf s + 1 → ∀ r ds, exec (.governorStage r ds) s = .next s) ∧
      (s.power.lastGoverned ≠ chairOf s + 1 → let s1 := { s with power := { s.power with lastGoverned := chairOf s + 1 } }
        (∀ p ds, exec (.governorStage (some p) ds) s = .next (stageLevels p ds s1) ∧
          (stageLevels p ds s1).power.stagedLevel = some (levelOf (available512 s p ds) (demand512 s ds))) ∧
        (∀ ds, ∃ t, exec (.governorStage none ds) s = .next t ∧ t.power.stagedLevel = s.power.stagedLevel ∧ t.power.granted = false))) ∧
    (s.power.trip = false → ∃ t, exec .vrAlert s = .next t ∧ t.power.clamp = true ∧ t.power.schuss = false ∧ t.power.clock = 2000 ∧
      t.power.clevel = max 12 s.power.clevel ∧ t.power.elevel = max 12 s.power.clevel ∧ t.power.mv = 750 ∧ t.pins.vrAlert = false ∧
      t.mem = s.mem ∧ t.queues = s.queues) ∧
    (∀ c h, s.power.clamp = true → s.power.clampSince = some c → s.power.alertHighSince = some h →
      (c + 1000000 ≤ s.lift.wallNs → wholeChairEnd h ≤ now s → exec .clampEnd s = .next { s with
        power := { s.power with clamp := false, clampSince := none, alertHighSince := none, endedClamp := some (chairOf s) }
        pins := { s.pins with vrAlert := true } }) ∧
      ((s.lift.wallNs < c + 1000000 ∨ now s < wholeChairEnd h) → exec .clampEnd s = .next s)) ∧
    (∃ t, exec (.thermalTrip s.boot.blkId) s = .next t ∧ t.power.trip = true ∧ t.power.clock = 1200 ∧ t.power.mv = 620 ∧ t.power.schuss = false ∧
      t.mem = s.mem ∧ t.queues = s.queues) ∧
    (∀ b, b ≠ s.boot.blkId → exec (.thermalTrip b) s = .next s) ∧
    (s.power.wantNominal = true → s.power.mv = 750 →
      exec .coreVoltageReached s = .next { s with power := { s.power with clock := 2000, wantNominal := false } }) ∧
    (∀ n l, n < 8 → s.boot.epPresent.getLsbD n = true → let p := enginePort s n
      exec (.engineThrottleAck n l) s = .next (setEnginePort n { p with
        ackLevel := l, ackPending := p.ackPending && !decide (l = p.level), late := p.late && !decide (l = p.level) } s)) ∧
    (∀ n, n < 8 → let p := enginePort s n
      (p.ackPending = true → p.levelTick + 16 ≤ now s → exec (.throttleAckTimeout n) s = .next (setEnginePort n { p with late := true } s)) ∧
      ((p.ackPending = false ∨ now s < p.levelTick + 16) → exec (.throttleAckTimeout n) s = .next s)) ∧
    (∀ why, s.power.deep = true → wakeDue s why = true → exec (.deepIdleWake why) s = .next { s with power := { s.power with waking := true } }) ∧
    (∀ d, 6 ≤ d → d < 38 → s.power.off.getLsbD d = true → clusterAsked s (d - 6) = true → exec (.powerDomainOn d) s = .next
      { s with power := { s.power with off := setDomain d false s.power.off } }) ∧
    (∀ d, 38 ≤ d → d < 70 → s.power.off.getLsbD d = true → clusterAsked s (d - 38) = true → ∃ t, exec (.powerDomainOn d) s = .next t ∧
      t.power = { s.power with off := setDomain d false s.power.off } ∧ (∀ e ∈ t.sram, e.1 / 2 ^ 21 ≠ d - 38) ∧
      (∀ e ∈ s.sram, e.1 / 2 ^ 21 ≠ d - 38 → e ∈ t.sram))

/-- The level of R554: `f` is at most 1 and at least 0; the level is 16 less the whole part of 16 `f`, 0 where all that is demanded is
available and 15 where nothing is. -/
def Obligations.LevelFollowsTheEnvelope : Prop :=
  ∀ (a m : Int), 0 < m →
    levelOf a m ≤ 15 ∧ (m ≤ a → levelOf a m = 0) ∧ (a ≤ 0 → levelOf a m = 15) ∧
    (0 < a → a < m → levelOf a m = min 15 (16 - (16 * a / m).toNat)) ∧ (∀ b, a ≤ b → levelOf b m ≤ levelOf a m)

/-! ### Resets, start-up, fuses and debug (spec/14, spec/16) -/

/-- Resets and start-up (R473, R474, R486, R487, R491, R493, R496, R523, R525, R530 to R532, R536 to R539, R541, R544, R545): the fall of `BLK_RST_N` resets
the block and keeps the lift count, the anti-rollback fuses, both flash slots' contents, the locks and the retirements; its rise samples
the straps and begins phase 1; a phase that ends passes to the next, and one that fails stops the sequence with its code, which is
reported. The eligible block with the lowest ID leads. `READY` leaves the state of R545. A programmed fuse bit is set and the next
follows. A signed challenge opens the debug ports, replaces every memory key and destroys every weight key; a debug access while locked
is recorded. -/
def Obligations.StartUpAndSecurity : Prop :=
  ∀ (s : State),
    (∀ level st, level = s.pins.blkRst → exec (.blkRstN level st) s = .next s) ∧
    (∀ st, s.pins.blkRst = true → ∃ t, exec (.blkRstN false st) s = .next t ∧ t.lift.count = s.lift.count ∧
      t.boot.antiRollback = s.boot.antiRollback ∧ t.recovery.retiredClusters = s.recovery.retiredClusters ∧
      t.recovery.retiredArrays = s.recovery.retiredArrays ∧ t.mem = [] ∧ t.sram = [] ∧ t.slices = [] ∧ t.queues = [] ∧ t.boot.ready = false ∧
      (∀ m, (mailbox t m).go = false ∧ (mailbox t m).data = [] ∧ (Sparse.sorted s.mbx = true → (mailbox t m).lock = (mailbox s m).lock))) ∧
    (∀ st, s.pins.blkRst = false → exec (.blkRstN true st) s = .next { s with
      boot := { s.boot with blkId := st.blkId % 8, hpPresent := st.hpPresent, epPresent := st.epPresent, phase := 1 }
      pins := { s.pins with blkRst := true } }) ∧
    (s.pins.aoRst = true → ∃ t, exec (.aoRstN false) s = .next t ∧ t.pins.aoRst = false ∧ t.lift = {} ∧ t.recovery.retiredClusters = 0 ∧
      t.recovery.retiredArrays = 0 ∧ t.icu.latched = [] ∧ t.power.history = [] ∧ t.mem = s.mem ∧ t.queues = s.queues ∧ t.boot = s.boot) ∧
    (starting s = true →
      (∀ r : PhaseReport, r.code ≠ 0 → exec (.startupPhaseEnd r) s = .next (stopWith (r.code % 256) s)) ∧
      (∀ r : PhaseReport, r.code = 0 → exec (.startupPhaseEnd r) s = .next (endPhase r s)) ∧
      (∀ code, code ≠ 0 → code ≠ 0x11 → exec (.phaseLimit code) s = .next (stopWith (code % 256) s)) ∧
      (s.boot.phase = 7 → exec (.phaseLimit 0x11) s = .next { s with boot := { s.boot with phase := 8 } }) ∧
      (s.boot.phase = 6 → s.boot.elected = false → let fs := ownFrame s :: s.boot.frames
        ∀ lead, duplicated fs s.boot.blkId = false → electedLead fs = some lead → lead.configHash = s.boot.image.hash →
          exec .electionClose s = .next (closeElection fs lead s)) ∧
      (s.boot.elected = true → s.boot.isLead = false → exec .leadLost s = .next (stopWith 0x0E s)) ∧
      (s.boot.phase = 9 → s.boot.elected = true → slotConfirmed (fwSlot s s.boot.slot) = true →
        exec .ready s = .next (blowFuses (readyState s)))) ∧
    (starting s = false → exec .ready s = .next s ∧ exec .leadLost s = .next s ∧ exec .electionClose s = .next s ∧
      ∀ r, exec (.startupPhaseEnd r) s = .next s) ∧
    (∀ f, s.pins.blkRst = true → s.boot.elected = false →
      exec (.statusFrame f) s = .next (reportPorts f { s with boot := { s.boot with frames := s.boot.frames ++ [f] } })) ∧
    (∀ b bs, s.boot.fuseWanted = b :: bs → ∃ t, exec (.fusePgmDone b) s = .next t ∧
      t.boot = { s.boot with antiRollback := s.boot.antiRollback ||| (1#64 <<< b), fuseWanted := bs } ∧
      t.sent = (match bs with
        | [] => s.sent
        | d :: _ => .fuseProgram d :: s.sent) ∧ { t with boot := s.boot, sent := s.sent } = s) ∧
    (∃ t, exec (.debugUnlock true) s = .next t ∧ t.boot.dbgUnlocked = true ∧ t.boot.dbgEver = true ∧ t.keys.weight = [] ∧ t.keys.slots = [] ∧
      t.keys.base = s.keys.trng + 1 ∧ t.mem = s.mem ∧ t.queues = s.queues) ∧
    exec (.debugUnlock false) s = .next s ∧
    (s.boot.dbgUnlocked = false → exec .debugDenied s = .next (writeRecord (plainRecord 0x801 0 0) s)) ∧
    (s.boot.dbgUnlocked = true → exec .debugDenied s = .next s) ∧
    (∀ eid bs, exec (.mctpMessage eid (.control bs)) s = .next (emit (.sideband (Config.mctpAnswer s.free bs)) { s with free := s.free + 1 })) ∧
    (∀ eid packet, managerRuns s = true → exec (.mctpMessage eid (.vendor packet)) s = .next
      (takePacket packet (.sideband eid) 0 (setMailbox 2 { mailbox s 2 with sender := some (.sideband eid) } s)))

/-- What reset leaves (R89, R91, R237, R390, R414, R493, R529, R567): phase 1 of start-up, not ready, nothing stopped; the lift counter at 0 and unlocked; no
slice, no queue, no context; no lease; every tally, mailbox and gate clear; interrupts held back; levels 0; memory lists nothing and is in
its canonical form; no command waits. Registers whose reset value the manual does not give have the model's own (logs 4 to 6) and are not
named here. -/
def Obligations.ResetState : Prop :=
  let r := State.reset
  r.pending = [] ∧ r.boot.phase = 1 ∧ r.boot.ready = false ∧ r.boot.stopped = false ∧ now r = 0 ∧ r.lift.src = 0 ∧ r.slices = [] ∧ r.queues = [] ∧
  r.contexts = [] ∧ r.mgr.holder = none ∧ (∀ k, tallyAt r k = {}) ∧ (∀ m, mailbox r m = {}) ∧ (∀ g, gateAt r g = {}) ∧
  r.icu.gdis = true ∧ r.icu.pend = 0 ∧ r.power.clevel = 0 ∧ r.power.elevel = 0 ∧ r.fq.ring = [] ∧ r.fq.overflow = false ∧
  Memory.wf r.mem = true ∧ r.twin.state = .unpaired ∧ ∀ c ∈ ([.chairBoundary, .ready, .fqStatusWrite 0] : List Instr), exec c r = .next r

/-! ### Memory, and what every step keeps -/

/-- Memory reads back what was written (R466, R503, R579), under the key it was written with: after a write of bytes under a slot every byte
in the range reads as written through that slot; every byte of every line that the write does not touch reads, through any slot, as it
read before; and so does every other byte of the lines that it touches whose line was last written under the slot's present key. The
canonical form of memory stays. -/
def Obligations.MemoryReadsBackWrites : Prop :=
  ∀ (s : State) (addr slot : Nat) (data : List Byte), Memory.wf s.mem = true → Sparse.sorted s.memKeys = true →
    let t := memWrite addr slot data s
    Memory.wf t.mem = true ∧ Sparse.sorted t.memKeys = true ∧ { t with mem := s.mem, memKeys := s.memKeys } = s ∧
    memRead t slot addr data.length = some data ∧
    (∀ i, i < data.length → readByte t slot (addr + i) = data[i]?) ∧
    (∀ a k, a / 64 ∉ linesOf addr data.length → readByte t k a = readByte s k a) ∧
    (∀ a, (a < addr ∨ addr + data.length ≤ a) → Sparse.get? s.memKeys (a / 64) = some (slot, keyNumber s slot) →
      readByte t slot a = readByte s slot a)

/-- Every step keeps the canonical form of memory and of the table of the keys that its lines were written under: from every state in that
form, whatever command comes, a step that answers a next state leaves both in it. -/
def Obligations.StepsKeepMemoryCanonical : Prop :=
  ∀ (s t : State), Memory.wf s.mem = true → Sparse.sorted s.memKeys = true → step s = .next t →
    Memory.wf t.mem = true ∧ Sparse.sorted t.memKeys = true

/-- R474: the anti-rollback counter never falls: no step clears a bit of it, whatever the command. -/
def Obligations.CounterNeverFalls : Prop :=
  ∀ (s t : State) (i : Nat), s.boot.antiRollback.getLsbD i = true → step s = .next t → t.boot.antiRollback.getLsbD i = true

/-- First in, first out: a step takes the command at the front and nothing else, so that no command's effect adds, drops or reorders the
commands that wait. -/
def Obligations.CommandsKeepTheQueue : Prop :=
  (∀ (s t : State) (c : Instr), exec c s = .next t → t.pending = s.pending) ∧
  (∀ (s t : State), step s = .next t → t.pending = s.pending.drop 1)
end

