-- ==== Sys2Proof/Laws/Sparse.lean ====
section
/-! SUPPORT. Laws of the sparse tables: what a read gives after a write or a removal, and that every operation keeps the
canonical form. -/

namespace Sys2Proof.Machine.Sparse

variable {β : Type}

theorem get?_put_self (m : List (Nat × β)) (k : Nat) (v : β) : get? (put m k v) k = some v := by
  induction m with
  | nil => simp [put, get?]
  | cons e m ih => obtain ⟨i, w⟩ := e; simp only [put]; split_ifs <;> simp_all [get?]

theorem get?_put_ne (m : List (Nat × β)) {j k : Nat} (v : β) (h : j ≠ k) : get? (put m k v) j = get? m j := by
  induction m with
  | nil => simp [put, get?, h]
  | cons e m ih => obtain ⟨i, w⟩ := e; simp only [put]; split_ifs <;> simp_all [get?]

theorem get?_del_ne (m : List (Nat × β)) {j k : Nat} (h : j ≠ k) : get? (del m k) j = get? m j := by
  induction m with
  | nil => rfl
  | cons e m ih => obtain ⟨i, w⟩ := e; simp only [del]; split_ifs <;> simp_all [get?]

/-- Every key of a table is above `i`. -/
def above (i : Nat) (m : List (Nat × β)) : Prop := ∀ e ∈ m, i < e.1

theorem sorted_cons (i : Nat) (v : β) (m : List (Nat × β)) : sorted ((i, v) :: m) = true ↔ above i m ∧ sorted m = true := by
  induction m generalizing i v with
  | nil => simp [sorted, above]
  | cons e m ih =>
    obtain ⟨j, w⟩ := e
    have := ih j w
    simp only [sorted, Bool.and_eq_true, decide_eq_true_eq, above, List.mem_cons, forall_eq_or_imp]
    constructor
    · rintro ⟨h, hs⟩
      exact ⟨⟨h, fun e he => Nat.lt_trans h ((this.1 hs).1 e he)⟩, hs⟩
    · rintro ⟨⟨h, _⟩, hs⟩; exact ⟨h, hs⟩

theorem get?_above (m : List (Nat × β)) {k : Nat} (h : above k m) : get? m k = none := by
  induction m with
  | nil => rfl
  | cons e m ih =>
    obtain ⟨i, w⟩ := e
    have hi : k < i := h (i, w) (by simp)
    simp only [get?, if_neg (Nat.ne_of_lt hi)]
    exact ih (fun e he => h e (by simp [he]))

theorem get?_del_self (m : List (Nat × β)) (k : Nat) (h : sorted m = true) : get? (del m k) k = none := by
  induction m with
  | nil => rfl
  | cons e m ih =>
    obtain ⟨i, w⟩ := e
    obtain ⟨ha, hs⟩ := (sorted_cons i w m).1 h
    simp only [del]
    split_ifs with hk
    · subst hk; exact get?_above m ha
    · simp only [get?, if_neg hk]; exact ih hs

theorem above_put {i k : Nat} {m : List (Nat × β)} (v : β) (hk : i < k) (h : above i m) : above i (put m k v) := by
  induction m with
  | nil => simpa [put, above] using hk
  | cons e m ih =>
    obtain ⟨j, w⟩ := e
    have hj : i < j := h (j, w) (by simp)
    have hm : above i m := fun e he => h e (by simp [he])
    have := ih hm
    simp only [put]
    split_ifs <;> intro e he <;> simp only [List.mem_cons] at he <;> rcases he with rfl | he <;>
      first | exact hk | exact hj | exact hm e he | exact this e he | skip
    all_goals rcases he with rfl | he <;> first | exact hj | exact hm e he

theorem above_del {i k : Nat} {m : List (Nat × β)} (h : above i m) : above i (del m k) := by
  induction m with
  | nil => simp [del, above]
  | cons e m ih =>
    obtain ⟨j, w⟩ := e
    have hj : i < j := h (j, w) (by simp)
    have hm : above i m := fun e he => h e (by simp [he])
    have := ih hm
    simp only [del]
    split_ifs
    · exact hm
    · intro e he; rcases List.mem_cons.1 he with rfl | he
      · exact hj
      · exact this e he

theorem sorted_put (m : List (Nat × β)) (k : Nat) (v : β) (h : sorted m = true) : sorted (put m k v) = true := by
  induction m with
  | nil => rfl
  | cons e m ih =>
    obtain ⟨i, w⟩ := e
    obtain ⟨ha, hs⟩ := (sorted_cons i w m).1 h
    simp only [put]
    split_ifs with h1 h2
    · rw [sorted_cons]
      exact ⟨fun e he => by
        rcases List.mem_cons.1 he with rfl | he
        · exact h1
        · exact Nat.lt_trans h1 (ha e he), h⟩
    · subst h2; rw [sorted_cons]; exact ⟨ha, hs⟩
    · rw [sorted_cons]; exact ⟨above_put v (by omega) ha, ih hs⟩

theorem sorted_del (m : List (Nat × β)) (k : Nat) (h : sorted m = true) : sorted (del m k) = true := by
  induction m with
  | nil => rfl
  | cons e m ih =>
    obtain ⟨i, w⟩ := e
    obtain ⟨ha, hs⟩ := (sorted_cons i w m).1 h
    simp only [del]
    split_ifs
    · exact hs
    · rw [sorted_cons]; exact ⟨above_del ha, ih hs⟩

theorem sorted_filter (p : Nat × β → Bool) (m : List (Nat × β)) (h : sorted m = true) : sorted (m.filter p) = true := by
  induction m with
  | nil => rfl
  | cons e m ih =>
    obtain ⟨i, w⟩ := e
    obtain ⟨ha, hs⟩ := (sorted_cons i w m).1 h
    simp only [List.filter_cons]
    split_ifs
    · rw [sorted_cons]; exact ⟨fun e he => ha e (List.mem_filter.1 he).1, ih hs⟩
    · exact ih hs

theorem sorted_delRange (m : List (Nat × β)) (k n : Nat) (h : sorted m = true) : sorted (delRange m k n) = true :=
  sorted_filter _ m h

theorem sorted_putList (m : List (Nat × β)) (k : Nat) (vs : List β) (h : sorted m = true) : sorted (putList m k vs) = true := by
  induction vs generalizing m k with
  | nil => exact h
  | cons v vs ih => exact ih _ _ (sorted_put m k v h)

theorem sorted_set [DecidableEq β] (d : β) (m : List (Nat × β)) (k : Nat) (v : β) (h : sorted m = true) :
    sorted (set d m k v) = true := by
  unfold set; split_ifs
  · exact sorted_del m k h
  · exact sorted_put m k v h

theorem get_set_self [DecidableEq β] (d : β) (m : List (Nat × β)) (k : Nat) (v : β) (h : sorted m = true) :
    get d (set d m k v) k = v := by
  unfold set get
  split_ifs with hv
  · rw [get?_del_self m k h]; exact hv.symm
  · rw [get?_put_self]; rfl

theorem get_set_ne [DecidableEq β] (d : β) (m : List (Nat × β)) {j k : Nat} (v : β) (h : j ≠ k) :
    get d (set d m k v) j = get d m j := by
  unfold set get
  split_ifs
  · rw [get?_del_ne m h]
  · rw [get?_put_ne m v h]

theorem get?_putList_out (m : List (Nat × β)) (k a : Nat) (vs : List β) (h : a < k ∨ k + vs.length ≤ a) :
    get? (putList m k vs) a = get? m a := by
  induction vs generalizing m k with
  | nil => rfl
  | cons v vs ih =>
    simp only [List.length_cons] at h
    have hne : a ≠ k := by omega
    rw [putList, ih _ _ (by omega), get?_put_ne m v hne]

theorem get?_putList_in (m : List (Nat × β)) (k i : Nat) (vs : List β) (h : i < vs.length) :
    get? (putList m k vs) (k + i) = vs[i]? := by
  induction vs generalizing m k i with
  | nil => simp at h
  | cons v vs ih =>
    rw [putList]
    cases i with
    | zero =>
      rw [get?_putList_out _ _ _ _ (by omega)]
      exact get?_put_self m k v
    | succ i =>
      have : k + (i + 1) = k + 1 + i := by omega
      rw [this, ih _ _ _ (by simpa using h)]; simp

theorem get?_filter (p : Nat × β → Bool) (m : List (Nat × β)) (a : Nat) (hp : ∀ e ∈ m, e.1 = a → p e = true) :
    get? (m.filter p) a = get? m a := by
  induction m with
  | nil => rfl
  | cons e m ih =>
    obtain ⟨i, w⟩ := e
    have hm : ∀ e ∈ m, e.1 = a → p e = true := fun e he => hp e (by simp [he])
    simp only [List.filter_cons, get?]
    by_cases hi : a = i
    · subst hi; rw [if_pos (hp (a, w) (by simp) rfl)]; simp [get?]
    · rw [if_neg hi]; split_ifs
      · simp only [get?, if_neg hi]; exact ih hm
      · exact ih hm

/-- Removing a range leaves every key outside it. -/
theorem get?_delRange_out (m : List (Nat × β)) (k n a : Nat) (h : a < k ∨ k + n ≤ a) : get? (delRange m k n) a = get? m a :=
  get?_filter _ m a (fun e _ he => by simp [he]; omega)

/-- A key inside a removed range is no longer listed. -/
theorem get?_delRange_in (m : List (Nat × β)) (k n a : Nat) (h1 : k ≤ a) (h2 : a < k + n) : get? (delRange m k n) a = none := by
  unfold delRange
  induction m with
  | nil => rfl
  | cons e m ih =>
    obtain ⟨i, w⟩ := e
    simp only [List.filter_cons]
    split_ifs with h
    · simp only [get?]
      rw [if_neg (by rintro rfl; simp at h; omega)]; exact ih
    · exact ih

end Sys2Proof.Machine.Sparse
end

