-- ==== Sys2Proof/Laws/State.lean ====
section
/-! SUPPORT. One lemma per field of `State` and per named update of it: an update changes its own field and no other. -/

namespace Sys2Proof.Machine


section
variable (i : Nat) (f : Slice → Slice) (s : State)
@[simp] theorem mapSlice_pending : (mapSlice i f s).pending = s.pending := rfl
@[simp] theorem mapSlice_sent : (mapSlice i f s).sent = s.sent := rfl
@[simp] theorem mapSlice_free : (mapSlice i f s).free = s.free := rfl
@[simp] theorem mapSlice_tick : (mapSlice i f s).tick = s.tick := rfl
@[simp] theorem mapSlice_lift : (mapSlice i f s).lift = s.lift := rfl
@[simp] theorem mapSlice_boot : (mapSlice i f s).boot = s.boot := rfl
@[simp] theorem mapSlice_pins : (mapSlice i f s).pins = s.pins := rfl
@[simp] theorem mapSlice_mem : (mapSlice i f s).mem = s.mem := rfl
@[simp] theorem mapSlice_memKeys : (mapSlice i f s).memKeys = s.memKeys := rfl
@[simp] theorem mapSlice_keys : (mapSlice i f s).keys = s.keys := rfl
@[simp] theorem mapSlice_cfg : (mapSlice i f s).cfg = s.cfg := rfl
@[simp] theorem mapSlice_queues : (mapSlice i f s).queues = s.queues := rfl
@[simp] theorem mapSlice_contexts : (mapSlice i f s).contexts = s.contexts := rfl
@[simp] theorem mapSlice_units : (mapSlice i f s).units = s.units := rfl
@[simp] theorem mapSlice_current : (mapSlice i f s).current = s.current := rfl
@[simp] theorem mapSlice_slots : (mapSlice i f s).slots = s.slots := rfl
@[simp] theorem mapSlice_sram : (mapSlice i f s).sram = s.sram := rfl
@[simp] theorem mapSlice_sramErrs : (mapSlice i f s).sramErrs = s.sramErrs := rfl
@[simp] theorem mapSlice_tallies : (mapSlice i f s).tallies = s.tallies := rfl
@[simp] theorem mapSlice_held : (mapSlice i f s).held = s.held := rfl
@[simp] theorem mapSlice_heldIncs : (mapSlice i f s).heldIncs = s.heldIncs := rfl
@[simp] theorem mapSlice_counters : (mapSlice i f s).counters = s.counters := rfl
@[simp] theorem mapSlice_gates : (mapSlice i f s).gates = s.gates := rfl
@[simp] theorem mapSlice_xlat : (mapSlice i f s).xlat = s.xlat := rfl
@[simp] theorem mapSlice_mp : (mapSlice i f s).mp = s.mp := rfl
@[simp] theorem mapSlice_fab : (mapSlice i f s).fab = s.fab := rfl
@[simp] theorem mapSlice_telemetry : (mapSlice i f s).telemetry = s.telemetry := rfl
@[simp] theorem mapSlice_fq : (mapSlice i f s).fq = s.fq := rfl
@[simp] theorem mapSlice_recovery : (mapSlice i f s).recovery = s.recovery := rfl
@[simp] theorem mapSlice_patrol : (mapSlice i f s).patrol = s.patrol := rfl
@[simp] theorem mapSlice_twin : (mapSlice i f s).twin = s.twin := rfl
@[simp] theorem mapSlice_mgr : (mapSlice i f s).mgr = s.mgr := rfl
@[simp] theorem mapSlice_mbx : (mapSlice i f s).mbx = s.mbx := rfl
@[simp] theorem mapSlice_chan : (mapSlice i f s).chan = s.chan := rfl
@[simp] theorem mapSlice_icu : (mapSlice i f s).icu = s.icu := rfl
@[simp] theorem mapSlice_ports : (mapSlice i f s).ports = s.ports := rfl
@[simp] theorem mapSlice_power : (mapSlice i f s).power = s.power := rfl
@[simp] theorem mapSlice_fw : (mapSlice i f s).fw = s.fw := rfl
end

section
variable (i q : Nat) (f : Queue → Queue) (s : State)
@[simp] theorem mapQueue_pending : (mapQueue i q f s).pending = s.pending := rfl
@[simp] theorem mapQueue_sent : (mapQueue i q f s).sent = s.sent := rfl
@[simp] theorem mapQueue_free : (mapQueue i q f s).free = s.free := rfl
@[simp] theorem mapQueue_tick : (mapQueue i q f s).tick = s.tick := rfl
@[simp] theorem mapQueue_lift : (mapQueue i q f s).lift = s.lift := rfl
@[simp] theorem mapQueue_boot : (mapQueue i q f s).boot = s.boot := rfl
@[simp] theorem mapQueue_pins : (mapQueue i q f s).pins = s.pins := rfl
@[simp] theorem mapQueue_mem : (mapQueue i q f s).mem = s.mem := rfl
@[simp] theorem mapQueue_memKeys : (mapQueue i q f s).memKeys = s.memKeys := rfl
@[simp] theorem mapQueue_keys : (mapQueue i q f s).keys = s.keys := rfl
@[simp] theorem mapQueue_cfg : (mapQueue i q f s).cfg = s.cfg := rfl
@[simp] theorem mapQueue_slices : (mapQueue i q f s).slices = s.slices := rfl
@[simp] theorem mapQueue_contexts : (mapQueue i q f s).contexts = s.contexts := rfl
@[simp] theorem mapQueue_units : (mapQueue i q f s).units = s.units := rfl
@[simp] theorem mapQueue_current : (mapQueue i q f s).current = s.current := rfl
@[simp] theorem mapQueue_slots : (mapQueue i q f s).slots = s.slots := rfl
@[simp] theorem mapQueue_sram : (mapQueue i q f s).sram = s.sram := rfl
@[simp] theorem mapQueue_sramErrs : (mapQueue i q f s).sramErrs = s.sramErrs := rfl
@[simp] theorem mapQueue_tallies : (mapQueue i q f s).tallies = s.tallies := rfl
@[simp] theorem mapQueue_held : (mapQueue i q f s).held = s.held := rfl
@[simp] theorem mapQueue_heldIncs : (mapQueue i q f s).heldIncs = s.heldIncs := rfl
@[simp] theorem mapQueue_counters : (mapQueue i q f s).counters = s.counters := rfl
@[simp] theorem mapQueue_gates : (mapQueue i q f s).gates = s.gates := rfl
@[simp] theorem mapQueue_xlat : (mapQueue i q f s).xlat = s.xlat := rfl
@[simp] theorem mapQueue_mp : (mapQueue i q f s).mp = s.mp := rfl
@[simp] theorem mapQueue_fab : (mapQueue i q f s).fab = s.fab := rfl
@[simp] theorem mapQueue_telemetry : (mapQueue i q f s).telemetry = s.telemetry := rfl
@[simp] theorem mapQueue_fq : (mapQueue i q f s).fq = s.fq := rfl
@[simp] theorem mapQueue_recovery : (mapQueue i q f s).recovery = s.recovery := rfl
@[simp] theorem mapQueue_patrol : (mapQueue i q f s).patrol = s.patrol := rfl
@[simp] theorem mapQueue_twin : (mapQueue i q f s).twin = s.twin := rfl
@[simp] theorem mapQueue_mgr : (mapQueue i q f s).mgr = s.mgr := rfl
@[simp] theorem mapQueue_mbx : (mapQueue i q f s).mbx = s.mbx := rfl
@[simp] theorem mapQueue_chan : (mapQueue i q f s).chan = s.chan := rfl
@[simp] theorem mapQueue_icu : (mapQueue i q f s).icu = s.icu := rfl
@[simp] theorem mapQueue_ports : (mapQueue i q f s).ports = s.ports := rfl
@[simp] theorem mapQueue_power : (mapQueue i q f s).power = s.power := rfl
@[simp] theorem mapQueue_fw : (mapQueue i q f s).fw = s.fw := rfl
end

section
variable (i : Nat) (f : Context → Context) (s : State)
@[simp] theorem mapContext_pending : (mapContext i f s).pending = s.pending := rfl
@[simp] theorem mapContext_sent : (mapContext i f s).sent = s.sent := rfl
@[simp] theorem mapContext_free : (mapContext i f s).free = s.free := rfl
@[simp] theorem mapContext_tick : (mapContext i f s).tick = s.tick := rfl
@[simp] theorem mapContext_lift : (mapContext i f s).lift = s.lift := rfl
@[simp] theorem mapContext_boot : (mapContext i f s).boot = s.boot := rfl
@[simp] theorem mapContext_pins : (mapContext i f s).pins = s.pins := rfl
@[simp] theorem mapContext_mem : (mapContext i f s).mem = s.mem := rfl
@[simp] theorem mapContext_memKeys : (mapContext i f s).memKeys = s.memKeys := rfl
@[simp] theorem mapContext_keys : (mapContext i f s).keys = s.keys := rfl
@[simp] theorem mapContext_cfg : (mapContext i f s).cfg = s.cfg := rfl
@[simp] theorem mapContext_slices : (mapContext i f s).slices = s.slices := rfl
@[simp] theorem mapContext_queues : (mapContext i f s).queues = s.queues := rfl
@[simp] theorem mapContext_units : (mapContext i f s).units = s.units := rfl
@[simp] theorem mapContext_current : (mapContext i f s).current = s.current := rfl
@[simp] theorem mapContext_slots : (mapContext i f s).slots = s.slots := rfl
@[simp] theorem mapContext_sram : (mapContext i f s).sram = s.sram := rfl
@[simp] theorem mapContext_sramErrs : (mapContext i f s).sramErrs = s.sramErrs := rfl
@[simp] theorem mapContext_tallies : (mapContext i f s).tallies = s.tallies := rfl
@[simp] theorem mapContext_held : (mapContext i f s).held = s.held := rfl
@[simp] theorem mapContext_heldIncs : (mapContext i f s).heldIncs = s.heldIncs := rfl
@[simp] theorem mapContext_counters : (mapContext i f s).counters = s.counters := rfl
@[simp] theorem mapContext_gates : (mapContext i f s).gates = s.gates := rfl
@[simp] theorem mapContext_xlat : (mapContext i f s).xlat = s.xlat := rfl
@[simp] theorem mapContext_mp : (mapContext i f s).mp = s.mp := rfl
@[simp] theorem mapContext_fab : (mapContext i f s).fab = s.fab := rfl
@[simp] theorem mapContext_telemetry : (mapContext i f s).telemetry = s.telemetry := rfl
@[simp] theorem mapContext_fq : (mapContext i f s).fq = s.fq := rfl
@[simp] theorem mapContext_recovery : (mapContext i f s).recovery = s.recovery := rfl
@[simp] theorem mapContext_patrol : (mapContext i f s).patrol = s.patrol := rfl
@[simp] theorem mapContext_twin : (mapContext i f s).twin = s.twin := rfl
@[simp] theorem mapContext_mgr : (mapContext i f s).mgr = s.mgr := rfl
@[simp] theorem mapContext_mbx : (mapContext i f s).mbx = s.mbx := rfl
@[simp] theorem mapContext_chan : (mapContext i f s).chan = s.chan := rfl
@[simp] theorem mapContext_icu : (mapContext i f s).icu = s.icu := rfl
@[simp] theorem mapContext_ports : (mapContext i f s).ports = s.ports := rfl
@[simp] theorem mapContext_power : (mapContext i f s).power = s.power := rfl
@[simp] theorem mapContext_fw : (mapContext i f s).fw = s.fw := rfl
end

section
variable (u : UnitId) (i : Nat) (f : UnitCtx → UnitCtx) (s : State)
@[simp] theorem mapUnit_pending : (mapUnit u i f s).pending = s.pending := rfl
@[simp] theorem mapUnit_sent : (mapUnit u i f s).sent = s.sent := rfl
@[simp] theorem mapUnit_free : (mapUnit u i f s).free = s.free := rfl
@[simp] theorem mapUnit_tick : (mapUnit u i f s).tick = s.tick := rfl
@[simp] theorem mapUnit_lift : (mapUnit u i f s).lift = s.lift := rfl
@[simp] theorem mapUnit_boot : (mapUnit u i f s).boot = s.boot := rfl
@[simp] theorem mapUnit_pins : (mapUnit u i f s).pins = s.pins := rfl
@[simp] theorem mapUnit_mem : (mapUnit u i f s).mem = s.mem := rfl
@[simp] theorem mapUnit_memKeys : (mapUnit u i f s).memKeys = s.memKeys := rfl
@[simp] theorem mapUnit_keys : (mapUnit u i f s).keys = s.keys := rfl
@[simp] theorem mapUnit_cfg : (mapUnit u i f s).cfg = s.cfg := rfl
@[simp] theorem mapUnit_slices : (mapUnit u i f s).slices = s.slices := rfl
@[simp] theorem mapUnit_queues : (mapUnit u i f s).queues = s.queues := rfl
@[simp] theorem mapUnit_contexts : (mapUnit u i f s).contexts = s.contexts := rfl
@[simp] theorem mapUnit_current : (mapUnit u i f s).current = s.current := rfl
@[simp] theorem mapUnit_slots : (mapUnit u i f s).slots = s.slots := rfl
@[simp] theorem mapUnit_sram : (mapUnit u i f s).sram = s.sram := rfl
@[simp] theorem mapUnit_sramErrs : (mapUnit u i f s).sramErrs = s.sramErrs := rfl
@[simp] theorem mapUnit_tallies : (mapUnit u i f s).tallies = s.tallies := rfl
@[simp] theorem mapUnit_held : (mapUnit u i f s).held = s.held := rfl
@[simp] theorem mapUnit_heldIncs : (mapUnit u i f s).heldIncs = s.heldIncs := rfl
@[simp] theorem mapUnit_counters : (mapUnit u i f s).counters = s.counters := rfl
@[simp] theorem mapUnit_gates : (mapUnit u i f s).gates = s.gates := rfl
@[simp] theorem mapUnit_xlat : (mapUnit u i f s).xlat = s.xlat := rfl
@[simp] theorem mapUnit_mp : (mapUnit u i f s).mp = s.mp := rfl
@[simp] theorem mapUnit_fab : (mapUnit u i f s).fab = s.fab := rfl
@[simp] theorem mapUnit_telemetry : (mapUnit u i f s).telemetry = s.telemetry := rfl
@[simp] theorem mapUnit_fq : (mapUnit u i f s).fq = s.fq := rfl
@[simp] theorem mapUnit_recovery : (mapUnit u i f s).recovery = s.recovery := rfl
@[simp] theorem mapUnit_patrol : (mapUnit u i f s).patrol = s.patrol := rfl
@[simp] theorem mapUnit_twin : (mapUnit u i f s).twin = s.twin := rfl
@[simp] theorem mapUnit_mgr : (mapUnit u i f s).mgr = s.mgr := rfl
@[simp] theorem mapUnit_mbx : (mapUnit u i f s).mbx = s.mbx := rfl
@[simp] theorem mapUnit_chan : (mapUnit u i f s).chan = s.chan := rfl
@[simp] theorem mapUnit_icu : (mapUnit u i f s).icu = s.icu := rfl
@[simp] theorem mapUnit_ports : (mapUnit u i f s).ports = s.ports := rfl
@[simp] theorem mapUnit_power : (mapUnit u i f s).power = s.power := rfl
@[simp] theorem mapUnit_fw : (mapUnit u i f s).fw = s.fw := rfl
end

section
variable (o : Output) (s : State)
@[simp] theorem emit_pending : (emit o s).pending = s.pending := rfl
@[simp] theorem emit_free : (emit o s).free = s.free := rfl
@[simp] theorem emit_tick : (emit o s).tick = s.tick := rfl
@[simp] theorem emit_lift : (emit o s).lift = s.lift := rfl
@[simp] theorem emit_boot : (emit o s).boot = s.boot := rfl
@[simp] theorem emit_pins : (emit o s).pins = s.pins := rfl
@[simp] theorem emit_mem : (emit o s).mem = s.mem := rfl
@[simp] theorem emit_memKeys : (emit o s).memKeys = s.memKeys := rfl
@[simp] theorem emit_keys : (emit o s).keys = s.keys := rfl
@[simp] theorem emit_cfg : (emit o s).cfg = s.cfg := rfl
@[simp] theorem emit_slices : (emit o s).slices = s.slices := rfl
@[simp] theorem emit_queues : (emit o s).queues = s.queues := rfl
@[simp] theorem emit_contexts : (emit o s).contexts = s.contexts := rfl
@[simp] theorem emit_units : (emit o s).units = s.units := rfl
@[simp] theorem emit_current : (emit o s).current = s.current := rfl
@[simp] theorem emit_slots : (emit o s).slots = s.slots := rfl
@[simp] theorem emit_sram : (emit o s).sram = s.sram := rfl
@[simp] theorem emit_sramErrs : (emit o s).sramErrs = s.sramErrs := rfl
@[simp] theorem emit_tallies : (emit o s).tallies = s.tallies := rfl
@[simp] theorem emit_held : (emit o s).held = s.held := rfl
@[simp] theorem emit_heldIncs : (emit o s).heldIncs = s.heldIncs := rfl
@[simp] theorem emit_counters : (emit o s).counters = s.counters := rfl
@[simp] theorem emit_gates : (emit o s).gates = s.gates := rfl
@[simp] theorem emit_xlat : (emit o s).xlat = s.xlat := rfl
@[simp] theorem emit_mp : (emit o s).mp = s.mp := rfl
@[simp] theorem emit_fab : (emit o s).fab = s.fab := rfl
@[simp] theorem emit_telemetry : (emit o s).telemetry = s.telemetry := rfl
@[simp] theorem emit_fq : (emit o s).fq = s.fq := rfl
@[simp] theorem emit_recovery : (emit o s).recovery = s.recovery := rfl
@[simp] theorem emit_patrol : (emit o s).patrol = s.patrol := rfl
@[simp] theorem emit_twin : (emit o s).twin = s.twin := rfl
@[simp] theorem emit_mgr : (emit o s).mgr = s.mgr := rfl
@[simp] theorem emit_mbx : (emit o s).mbx = s.mbx := rfl
@[simp] theorem emit_chan : (emit o s).chan = s.chan := rfl
@[simp] theorem emit_icu : (emit o s).icu = s.icu := rfl
@[simp] theorem emit_ports : (emit o s).ports = s.ports := rfl
@[simp] theorem emit_power : (emit o s).power = s.power := rfl
@[simp] theorem emit_fw : (emit o s).fw = s.fw := rfl
end

section
variable (os : List Output) (s : State)
@[simp] theorem emitAll_pending : (emitAll os s).pending = s.pending := rfl
@[simp] theorem emitAll_free : (emitAll os s).free = s.free := rfl
@[simp] theorem emitAll_tick : (emitAll os s).tick = s.tick := rfl
@[simp] theorem emitAll_lift : (emitAll os s).lift = s.lift := rfl
@[simp] theorem emitAll_boot : (emitAll os s).boot = s.boot := rfl
@[simp] theorem emitAll_pins : (emitAll os s).pins = s.pins := rfl
@[simp] theorem emitAll_mem : (emitAll os s).mem = s.mem := rfl
@[simp] theorem emitAll_memKeys : (emitAll os s).memKeys = s.memKeys := rfl
@[simp] theorem emitAll_keys : (emitAll os s).keys = s.keys := rfl
@[simp] theorem emitAll_cfg : (emitAll os s).cfg = s.cfg := rfl
@[simp] theorem emitAll_slices : (emitAll os s).slices = s.slices := rfl
@[simp] theorem emitAll_queues : (emitAll os s).queues = s.queues := rfl
@[simp] theorem emitAll_contexts : (emitAll os s).contexts = s.contexts := rfl
@[simp] theorem emitAll_units : (emitAll os s).units = s.units := rfl
@[simp] theorem emitAll_current : (emitAll os s).current = s.current := rfl
@[simp] theorem emitAll_slots : (emitAll os s).slots = s.slots := rfl
@[simp] theorem emitAll_sram : (emitAll os s).sram = s.sram := rfl
@[simp] theorem emitAll_sramErrs : (emitAll os s).sramErrs = s.sramErrs := rfl
@[simp] theorem emitAll_tallies : (emitAll os s).tallies = s.tallies := rfl
@[simp] theorem emitAll_held : (emitAll os s).held = s.held := rfl
@[simp] theorem emitAll_heldIncs : (emitAll os s).heldIncs = s.heldIncs := rfl
@[simp] theorem emitAll_counters : (emitAll os s).counters = s.counters := rfl
@[simp] theorem emitAll_gates : (emitAll os s).gates = s.gates := rfl
@[simp] theorem emitAll_xlat : (emitAll os s).xlat = s.xlat := rfl
@[simp] theorem emitAll_mp : (emitAll os s).mp = s.mp := rfl
@[simp] theorem emitAll_fab : (emitAll os s).fab = s.fab := rfl
@[simp] theorem emitAll_telemetry : (emitAll os s).telemetry = s.telemetry := rfl
@[simp] theorem emitAll_fq : (emitAll os s).fq = s.fq := rfl
@[simp] theorem emitAll_recovery : (emitAll os s).recovery = s.recovery := rfl
@[simp] theorem emitAll_patrol : (emitAll os s).patrol = s.patrol := rfl
@[simp] theorem emitAll_twin : (emitAll os s).twin = s.twin := rfl
@[simp] theorem emitAll_mgr : (emitAll os s).mgr = s.mgr := rfl
@[simp] theorem emitAll_mbx : (emitAll os s).mbx = s.mbx := rfl
@[simp] theorem emitAll_chan : (emitAll os s).chan = s.chan := rfl
@[simp] theorem emitAll_icu : (emitAll os s).icu = s.icu := rfl
@[simp] theorem emitAll_ports : (emitAll os s).ports = s.ports := rfl
@[simp] theorem emitAll_power : (emitAll os s).power = s.power := rfl
@[simp] theorem emitAll_fw : (emitAll os s).fw = s.fw := rfl
end

section
variable (m : Nat) (b : Mailbox) (s : State)
@[simp] theorem setMailbox_pending : (setMailbox m b s).pending = s.pending := rfl
@[simp] theorem setMailbox_sent : (setMailbox m b s).sent = s.sent := rfl
@[simp] theorem setMailbox_free : (setMailbox m b s).free = s.free := rfl
@[simp] theorem setMailbox_tick : (setMailbox m b s).tick = s.tick := rfl
@[simp] theorem setMailbox_lift : (setMailbox m b s).lift = s.lift := rfl
@[simp] theorem setMailbox_boot : (setMailbox m b s).boot = s.boot := rfl
@[simp] theorem setMailbox_pins : (setMailbox m b s).pins = s.pins := rfl
@[simp] theorem setMailbox_mem : (setMailbox m b s).mem = s.mem := rfl
@[simp] theorem setMailbox_memKeys : (setMailbox m b s).memKeys = s.memKeys := rfl
@[simp] theorem setMailbox_keys : (setMailbox m b s).keys = s.keys := rfl
@[simp] theorem setMailbox_cfg : (setMailbox m b s).cfg = s.cfg := rfl
@[simp] theorem setMailbox_slices : (setMailbox m b s).slices = s.slices := rfl
@[simp] theorem setMailbox_queues : (setMailbox m b s).queues = s.queues := rfl
@[simp] theorem setMailbox_contexts : (setMailbox m b s).contexts = s.contexts := rfl
@[simp] theorem setMailbox_units : (setMailbox m b s).units = s.units := rfl
@[simp] theorem setMailbox_current : (setMailbox m b s).current = s.current := rfl
@[simp] theorem setMailbox_slots : (setMailbox m b s).slots = s.slots := rfl
@[simp] theorem setMailbox_sram : (setMailbox m b s).sram = s.sram := rfl
@[simp] theorem setMailbox_sramErrs : (setMailbox m b s).sramErrs = s.sramErrs := rfl
@[simp] theorem setMailbox_tallies : (setMailbox m b s).tallies = s.tallies := rfl
@[simp] theorem setMailbox_held : (setMailbox m b s).held = s.held := rfl
@[simp] theorem setMailbox_heldIncs : (setMailbox m b s).heldIncs = s.heldIncs := rfl
@[simp] theorem setMailbox_counters : (setMailbox m b s).counters = s.counters := rfl
@[simp] theorem setMailbox_gates : (setMailbox m b s).gates = s.gates := rfl
@[simp] theorem setMailbox_xlat : (setMailbox m b s).xlat = s.xlat := rfl
@[simp] theorem setMailbox_mp : (setMailbox m b s).mp = s.mp := rfl
@[simp] theorem setMailbox_fab : (setMailbox m b s).fab = s.fab := rfl
@[simp] theorem setMailbox_telemetry : (setMailbox m b s).telemetry = s.telemetry := rfl
@[simp] theorem setMailbox_fq : (setMailbox m b s).fq = s.fq := rfl
@[simp] theorem setMailbox_recovery : (setMailbox m b s).recovery = s.recovery := rfl
@[simp] theorem setMailbox_patrol : (setMailbox m b s).patrol = s.patrol := rfl
@[simp] theorem setMailbox_twin : (setMailbox m b s).twin = s.twin := rfl
@[simp] theorem setMailbox_mgr : (setMailbox m b s).mgr = s.mgr := rfl
@[simp] theorem setMailbox_chan : (setMailbox m b s).chan = s.chan := rfl
@[simp] theorem setMailbox_icu : (setMailbox m b s).icu = s.icu := rfl
@[simp] theorem setMailbox_ports : (setMailbox m b s).ports = s.ports := rfl
@[simp] theorem setMailbox_power : (setMailbox m b s).power = s.power := rfl
@[simp] theorem setMailbox_fw : (setMailbox m b s).fw = s.fw := rfl
end

section
variable (k : Nat) (t : Tally) (s : State)
@[simp] theorem setTallyAt_pending : (setTallyAt k t s).pending = s.pending := rfl
@[simp] theorem setTallyAt_sent : (setTallyAt k t s).sent = s.sent := rfl
@[simp] theorem setTallyAt_free : (setTallyAt k t s).free = s.free := rfl
@[simp] theorem setTallyAt_tick : (setTallyAt k t s).tick = s.tick := rfl
@[simp] theorem setTallyAt_lift : (setTallyAt k t s).lift = s.lift := rfl
@[simp] theorem setTallyAt_boot : (setTallyAt k t s).boot = s.boot := rfl
@[simp] theorem setTallyAt_pins : (setTallyAt k t s).pins = s.pins := rfl
@[simp] theorem setTallyAt_mem : (setTallyAt k t s).mem = s.mem := rfl
@[simp] theorem setTallyAt_memKeys : (setTallyAt k t s).memKeys = s.memKeys := rfl
@[simp] theorem setTallyAt_keys : (setTallyAt k t s).keys = s.keys := rfl
@[simp] theorem setTallyAt_cfg : (setTallyAt k t s).cfg = s.cfg := rfl
@[simp] theorem setTallyAt_slices : (setTallyAt k t s).slices = s.slices := rfl
@[simp] theorem setTallyAt_queues : (setTallyAt k t s).queues = s.queues := rfl
@[simp] theorem setTallyAt_contexts : (setTallyAt k t s).contexts = s.contexts := rfl
@[simp] theorem setTallyAt_units : (setTallyAt k t s).units = s.units := rfl
@[simp] theorem setTallyAt_current : (setTallyAt k t s).current = s.current := rfl
@[simp] theorem setTallyAt_slots : (setTallyAt k t s).slots = s.slots := rfl
@[simp] theorem setTallyAt_sram : (setTallyAt k t s).sram = s.sram := rfl
@[simp] theorem setTallyAt_sramErrs : (setTallyAt k t s).sramErrs = s.sramErrs := rfl
@[simp] theorem setTallyAt_held : (setTallyAt k t s).held = s.held := rfl
@[simp] theorem setTallyAt_heldIncs : (setTallyAt k t s).heldIncs = s.heldIncs := rfl
@[simp] theorem setTallyAt_counters : (setTallyAt k t s).counters = s.counters := rfl
@[simp] theorem setTallyAt_gates : (setTallyAt k t s).gates = s.gates := rfl
@[simp] theorem setTallyAt_xlat : (setTallyAt k t s).xlat = s.xlat := rfl
@[simp] theorem setTallyAt_mp : (setTallyAt k t s).mp = s.mp := rfl
@[simp] theorem setTallyAt_fab : (setTallyAt k t s).fab = s.fab := rfl
@[simp] theorem setTallyAt_telemetry : (setTallyAt k t s).telemetry = s.telemetry := rfl
@[simp] theorem setTallyAt_fq : (setTallyAt k t s).fq = s.fq := rfl
@[simp] theorem setTallyAt_recovery : (setTallyAt k t s).recovery = s.recovery := rfl
@[simp] theorem setTallyAt_patrol : (setTallyAt k t s).patrol = s.patrol := rfl
@[simp] theorem setTallyAt_twin : (setTallyAt k t s).twin = s.twin := rfl
@[simp] theorem setTallyAt_mgr : (setTallyAt k t s).mgr = s.mgr := rfl
@[simp] theorem setTallyAt_mbx : (setTallyAt k t s).mbx = s.mbx := rfl
@[simp] theorem setTallyAt_chan : (setTallyAt k t s).chan = s.chan := rfl
@[simp] theorem setTallyAt_icu : (setTallyAt k t s).icu = s.icu := rfl
@[simp] theorem setTallyAt_ports : (setTallyAt k t s).ports = s.ports := rfl
@[simp] theorem setTallyAt_power : (setTallyAt k t s).power = s.power := rfl
@[simp] theorem setTallyAt_fw : (setTallyAt k t s).fw = s.fw := rfl
end

section
variable (g : Nat) (x : Group) (s : State)
@[simp] theorem setGroup_pending : (setGroup g x s).pending = s.pending := rfl
@[simp] theorem setGroup_sent : (setGroup g x s).sent = s.sent := rfl
@[simp] theorem setGroup_free : (setGroup g x s).free = s.free := rfl
@[simp] theorem setGroup_tick : (setGroup g x s).tick = s.tick := rfl
@[simp] theorem setGroup_lift : (setGroup g x s).lift = s.lift := rfl
@[simp] theorem setGroup_boot : (setGroup g x s).boot = s.boot := rfl
@[simp] theorem setGroup_pins : (setGroup g x s).pins = s.pins := rfl
@[simp] theorem setGroup_mem : (setGroup g x s).mem = s.mem := rfl
@[simp] theorem setGroup_memKeys : (setGroup g x s).memKeys = s.memKeys := rfl
@[simp] theorem setGroup_keys : (setGroup g x s).keys = s.keys := rfl
@[simp] theorem setGroup_cfg : (setGroup g x s).cfg = s.cfg := rfl
@[simp] theorem setGroup_slices : (setGroup g x s).slices = s.slices := rfl
@[simp] theorem setGroup_queues : (setGroup g x s).queues = s.queues := rfl
@[simp] theorem setGroup_contexts : (setGroup g x s).contexts = s.contexts := rfl
@[simp] theorem setGroup_units : (setGroup g x s).units = s.units := rfl
@[simp] theorem setGroup_current : (setGroup g x s).current = s.current := rfl
@[simp] theorem setGroup_slots : (setGroup g x s).slots = s.slots := rfl
@[simp] theorem setGroup_sram : (setGroup g x s).sram = s.sram := rfl
@[simp] theorem setGroup_sramErrs : (setGroup g x s).sramErrs = s.sramErrs := rfl
@[simp] theorem setGroup_tallies : (setGroup g x s).tallies = s.tallies := rfl
@[simp] theorem setGroup_held : (setGroup g x s).held = s.held := rfl
@[simp] theorem setGroup_heldIncs : (setGroup g x s).heldIncs = s.heldIncs := rfl
@[simp] theorem setGroup_counters : (setGroup g x s).counters = s.counters := rfl
@[simp] theorem setGroup_gates : (setGroup g x s).gates = s.gates := rfl
@[simp] theorem setGroup_xlat : (setGroup g x s).xlat = s.xlat := rfl
@[simp] theorem setGroup_mp : (setGroup g x s).mp = s.mp := rfl
@[simp] theorem setGroup_telemetry : (setGroup g x s).telemetry = s.telemetry := rfl
@[simp] theorem setGroup_fq : (setGroup g x s).fq = s.fq := rfl
@[simp] theorem setGroup_recovery : (setGroup g x s).recovery = s.recovery := rfl
@[simp] theorem setGroup_patrol : (setGroup g x s).patrol = s.patrol := rfl
@[simp] theorem setGroup_twin : (setGroup g x s).twin = s.twin := rfl
@[simp] theorem setGroup_mgr : (setGroup g x s).mgr = s.mgr := rfl
@[simp] theorem setGroup_mbx : (setGroup g x s).mbx = s.mbx := rfl
@[simp] theorem setGroup_chan : (setGroup g x s).chan = s.chan := rfl
@[simp] theorem setGroup_icu : (setGroup g x s).icu = s.icu := rfl
@[simp] theorem setGroup_ports : (setGroup g x s).ports = s.ports := rfl
@[simp] theorem setGroup_power : (setGroup g x s).power = s.power := rfl
@[simp] theorem setGroup_fw : (setGroup g x s).fw = s.fw := rfl
end

section
variable (k : Nat) (x : Lane) (s : State)
@[simp] theorem setLane_pending : (setLane k x s).pending = s.pending := rfl
@[simp] theorem setLane_sent : (setLane k x s).sent = s.sent := rfl
@[simp] theorem setLane_free : (setLane k x s).free = s.free := rfl
@[simp] theorem setLane_tick : (setLane k x s).tick = s.tick := rfl
@[simp] theorem setLane_lift : (setLane k x s).lift = s.lift := rfl
@[simp] theorem setLane_boot : (setLane k x s).boot = s.boot := rfl
@[simp] theorem setLane_pins : (setLane k x s).pins = s.pins := rfl
@[simp] theorem setLane_mem : (setLane k x s).mem = s.mem := rfl
@[simp] theorem setLane_memKeys : (setLane k x s).memKeys = s.memKeys := rfl
@[simp] theorem setLane_keys : (setLane k x s).keys = s.keys := rfl
@[simp] theorem setLane_cfg : (setLane k x s).cfg = s.cfg := rfl
@[simp] theorem setLane_slices : (setLane k x s).slices = s.slices := rfl
@[simp] theorem setLane_queues : (setLane k x s).queues = s.queues := rfl
@[simp] theorem setLane_contexts : (setLane k x s).contexts = s.contexts := rfl
@[simp] theorem setLane_units : (setLane k x s).units = s.units := rfl
@[simp] theorem setLane_current : (setLane k x s).current = s.current := rfl
@[simp] theorem setLane_slots : (setLane k x s).slots = s.slots := rfl
@[simp] theorem setLane_sram : (setLane k x s).sram = s.sram := rfl
@[simp] theorem setLane_sramErrs : (setLane k x s).sramErrs = s.sramErrs := rfl
@[simp] theorem setLane_tallies : (setLane k x s).tallies = s.tallies := rfl
@[simp] theorem setLane_held : (setLane k x s).held = s.held := rfl
@[simp] theorem setLane_heldIncs : (setLane k x s).heldIncs = s.heldIncs := rfl
@[simp] theorem setLane_counters : (setLane k x s).counters = s.counters := rfl
@[simp] theorem setLane_gates : (setLane k x s).gates = s.gates := rfl
@[simp] theorem setLane_xlat : (setLane k x s).xlat = s.xlat := rfl
@[simp] theorem setLane_mp : (setLane k x s).mp = s.mp := rfl
@[simp] theorem setLane_telemetry : (setLane k x s).telemetry = s.telemetry := rfl
@[simp] theorem setLane_fq : (setLane k x s).fq = s.fq := rfl
@[simp] theorem setLane_recovery : (setLane k x s).recovery = s.recovery := rfl
@[simp] theorem setLane_patrol : (setLane k x s).patrol = s.patrol := rfl
@[simp] theorem setLane_twin : (setLane k x s).twin = s.twin := rfl
@[simp] theorem setLane_mgr : (setLane k x s).mgr = s.mgr := rfl
@[simp] theorem setLane_mbx : (setLane k x s).mbx = s.mbx := rfl
@[simp] theorem setLane_chan : (setLane k x s).chan = s.chan := rfl
@[simp] theorem setLane_icu : (setLane k x s).icu = s.icu := rfl
@[simp] theorem setLane_ports : (setLane k x s).ports = s.ports := rfl
@[simp] theorem setLane_power : (setLane k x s).power = s.power := rfl
@[simp] theorem setLane_fw : (setLane k x s).fw = s.fw := rfl
end

section
variable (s : State)
@[simp] theorem stepFree_pending : (stepFree s).pending = s.pending := rfl
@[simp] theorem stepFree_sent : (stepFree s).sent = s.sent := rfl
@[simp] theorem stepFree_tick : (stepFree s).tick = s.tick := rfl
@[simp] theorem stepFree_lift : (stepFree s).lift = s.lift := rfl
@[simp] theorem stepFree_boot : (stepFree s).boot = s.boot := rfl
@[simp] theorem stepFree_pins : (stepFree s).pins = s.pins := rfl
@[simp] theorem stepFree_mem : (stepFree s).mem = s.mem := rfl
@[simp] theorem stepFree_memKeys : (stepFree s).memKeys = s.memKeys := rfl
@[simp] theorem stepFree_keys : (stepFree s).keys = s.keys := rfl
@[simp] theorem stepFree_cfg : (stepFree s).cfg = s.cfg := rfl
@[simp] theorem stepFree_slices : (stepFree s).slices = s.slices := rfl
@[simp] theorem stepFree_queues : (stepFree s).queues = s.queues := rfl
@[simp] theorem stepFree_contexts : (stepFree s).contexts = s.contexts := rfl
@[simp] theorem stepFree_units : (stepFree s).units = s.units := rfl
@[simp] theorem stepFree_current : (stepFree s).current = s.current := rfl
@[simp] theorem stepFree_slots : (stepFree s).slots = s.slots := rfl
@[simp] theorem stepFree_sram : (stepFree s).sram = s.sram := rfl
@[simp] theorem stepFree_sramErrs : (stepFree s).sramErrs = s.sramErrs := rfl
@[simp] theorem stepFree_tallies : (stepFree s).tallies = s.tallies := rfl
@[simp] theorem stepFree_held : (stepFree s).held = s.held := rfl
@[simp] theorem stepFree_heldIncs : (stepFree s).heldIncs = s.heldIncs := rfl
@[simp] theorem stepFree_counters : (stepFree s).counters = s.counters := rfl
@[simp] theorem stepFree_gates : (stepFree s).gates = s.gates := rfl
@[simp] theorem stepFree_xlat : (stepFree s).xlat = s.xlat := rfl
@[simp] theorem stepFree_mp : (stepFree s).mp = s.mp := rfl
@[simp] theorem stepFree_fab : (stepFree s).fab = s.fab := rfl
@[simp] theorem stepFree_telemetry : (stepFree s).telemetry = s.telemetry := rfl
@[simp] theorem stepFree_fq : (stepFree s).fq = s.fq := rfl
@[simp] theorem stepFree_recovery : (stepFree s).recovery = s.recovery := rfl
@[simp] theorem stepFree_patrol : (stepFree s).patrol = s.patrol := rfl
@[simp] theorem stepFree_twin : (stepFree s).twin = s.twin := rfl
@[simp] theorem stepFree_mgr : (stepFree s).mgr = s.mgr := rfl
@[simp] theorem stepFree_mbx : (stepFree s).mbx = s.mbx := rfl
@[simp] theorem stepFree_chan : (stepFree s).chan = s.chan := rfl
@[simp] theorem stepFree_icu : (stepFree s).icu = s.icu := rfl
@[simp] theorem stepFree_ports : (stepFree s).ports = s.ports := rfl
@[simp] theorem stepFree_power : (stepFree s).power = s.power := rfl
@[simp] theorem stepFree_fw : (stepFree s).fw = s.fw := rfl
end

section
variable (i q k : Nat) (f : Desc → Desc) (s : State)
@[simp] theorem mapDesc_pending : (mapDesc i q k f s).pending = s.pending := rfl
@[simp] theorem mapDesc_sent : (mapDesc i q k f s).sent = s.sent := rfl
@[simp] theorem mapDesc_free : (mapDesc i q k f s).free = s.free := rfl
@[simp] theorem mapDesc_tick : (mapDesc i q k f s).tick = s.tick := rfl
@[simp] theorem mapDesc_lift : (mapDesc i q k f s).lift = s.lift := rfl
@[simp] theorem mapDesc_boot : (mapDesc i q k f s).boot = s.boot := rfl
@[simp] theorem mapDesc_pins : (mapDesc i q k f s).pins = s.pins := rfl
@[simp] theorem mapDesc_mem : (mapDesc i q k f s).mem = s.mem := rfl
@[simp] theorem mapDesc_memKeys : (mapDesc i q k f s).memKeys = s.memKeys := rfl
@[simp] theorem mapDesc_keys : (mapDesc i q k f s).keys = s.keys := rfl
@[simp] theorem mapDesc_cfg : (mapDesc i q k f s).cfg = s.cfg := rfl
@[simp] theorem mapDesc_slices : (mapDesc i q k f s).slices = s.slices := rfl
@[simp] theorem mapDesc_contexts : (mapDesc i q k f s).contexts = s.contexts := rfl
@[simp] theorem mapDesc_units : (mapDesc i q k f s).units = s.units := rfl
@[simp] theorem mapDesc_current : (mapDesc i q k f s).current = s.current := rfl
@[simp] theorem mapDesc_slots : (mapDesc i q k f s).slots = s.slots := rfl
@[simp] theorem mapDesc_sram : (mapDesc i q k f s).sram = s.sram := rfl
@[simp] theorem mapDesc_sramErrs : (mapDesc i q k f s).sramErrs = s.sramErrs := rfl
@[simp] theorem mapDesc_tallies : (mapDesc i q k f s).tallies = s.tallies := rfl
@[simp] theorem mapDesc_held : (mapDesc i q k f s).held = s.held := rfl
@[simp] theorem mapDesc_heldIncs : (mapDesc i q k f s).heldIncs = s.heldIncs := rfl
@[simp] theorem mapDesc_counters : (mapDesc i q k f s).counters = s.counters := rfl
@[simp] theorem mapDesc_gates : (mapDesc i q k f s).gates = s.gates := rfl
@[simp] theorem mapDesc_xlat : (mapDesc i q k f s).xlat = s.xlat := rfl
@[simp] theorem mapDesc_mp : (mapDesc i q k f s).mp = s.mp := rfl
@[simp] theorem mapDesc_fab : (mapDesc i q k f s).fab = s.fab := rfl
@[simp] theorem mapDesc_telemetry : (mapDesc i q k f s).telemetry = s.telemetry := rfl
@[simp] theorem mapDesc_fq : (mapDesc i q k f s).fq = s.fq := rfl
@[simp] theorem mapDesc_recovery : (mapDesc i q k f s).recovery = s.recovery := rfl
@[simp] theorem mapDesc_patrol : (mapDesc i q k f s).patrol = s.patrol := rfl
@[simp] theorem mapDesc_twin : (mapDesc i q k f s).twin = s.twin := rfl
@[simp] theorem mapDesc_mgr : (mapDesc i q k f s).mgr = s.mgr := rfl
@[simp] theorem mapDesc_mbx : (mapDesc i q k f s).mbx = s.mbx := rfl
@[simp] theorem mapDesc_chan : (mapDesc i q k f s).chan = s.chan := rfl
@[simp] theorem mapDesc_icu : (mapDesc i q k f s).icu = s.icu := rfl
@[simp] theorem mapDesc_ports : (mapDesc i q k f s).ports = s.ports := rfl
@[simp] theorem mapDesc_power : (mapDesc i q k f s).power = s.power := rfl
@[simp] theorem mapDesc_fw : (mapDesc i q k f s).fw = s.fw := rfl
end

section
variable (x : UnitCtx) (i : Nat) (f : EngInsn → EngInsn) (s : State)
@[simp] theorem mapInsn_pending : (mapInsn x i f s).pending = s.pending := rfl
@[simp] theorem mapInsn_sent : (mapInsn x i f s).sent = s.sent := rfl
@[simp] theorem mapInsn_free : (mapInsn x i f s).free = s.free := rfl
@[simp] theorem mapInsn_tick : (mapInsn x i f s).tick = s.tick := rfl
@[simp] theorem mapInsn_lift : (mapInsn x i f s).lift = s.lift := rfl
@[simp] theorem mapInsn_boot : (mapInsn x i f s).boot = s.boot := rfl
@[simp] theorem mapInsn_pins : (mapInsn x i f s).pins = s.pins := rfl
@[simp] theorem mapInsn_mem : (mapInsn x i f s).mem = s.mem := rfl
@[simp] theorem mapInsn_memKeys : (mapInsn x i f s).memKeys = s.memKeys := rfl
@[simp] theorem mapInsn_keys : (mapInsn x i f s).keys = s.keys := rfl
@[simp] theorem mapInsn_cfg : (mapInsn x i f s).cfg = s.cfg := rfl
@[simp] theorem mapInsn_slices : (mapInsn x i f s).slices = s.slices := rfl
@[simp] theorem mapInsn_queues : (mapInsn x i f s).queues = s.queues := rfl
@[simp] theorem mapInsn_contexts : (mapInsn x i f s).contexts = s.contexts := rfl
@[simp] theorem mapInsn_current : (mapInsn x i f s).current = s.current := rfl
@[simp] theorem mapInsn_slots : (mapInsn x i f s).slots = s.slots := rfl
@[simp] theorem mapInsn_sram : (mapInsn x i f s).sram = s.sram := rfl
@[simp] theorem mapInsn_sramErrs : (mapInsn x i f s).sramErrs = s.sramErrs := rfl
@[simp] theorem mapInsn_tallies : (mapInsn x i f s).tallies = s.tallies := rfl
@[simp] theorem mapInsn_held : (mapInsn x i f s).held = s.held := rfl
@[simp] theorem mapInsn_heldIncs : (mapInsn x i f s).heldIncs = s.heldIncs := rfl
@[simp] theorem mapInsn_counters : (mapInsn x i f s).counters = s.counters := rfl
@[simp] theorem mapInsn_gates : (mapInsn x i f s).gates = s.gates := rfl
@[simp] theorem mapInsn_xlat : (mapInsn x i f s).xlat = s.xlat := rfl
@[simp] theorem mapInsn_mp : (mapInsn x i f s).mp = s.mp := rfl
@[simp] theorem mapInsn_fab : (mapInsn x i f s).fab = s.fab := rfl
@[simp] theorem mapInsn_telemetry : (mapInsn x i f s).telemetry = s.telemetry := rfl
@[simp] theorem mapInsn_fq : (mapInsn x i f s).fq = s.fq := rfl
@[simp] theorem mapInsn_recovery : (mapInsn x i f s).recovery = s.recovery := rfl
@[simp] theorem mapInsn_patrol : (mapInsn x i f s).patrol = s.patrol := rfl
@[simp] theorem mapInsn_twin : (mapInsn x i f s).twin = s.twin := rfl
@[simp] theorem mapInsn_mgr : (mapInsn x i f s).mgr = s.mgr := rfl
@[simp] theorem mapInsn_mbx : (mapInsn x i f s).mbx = s.mbx := rfl
@[simp] theorem mapInsn_chan : (mapInsn x i f s).chan = s.chan := rfl
@[simp] theorem mapInsn_icu : (mapInsn x i f s).icu = s.icu := rfl
@[simp] theorem mapInsn_ports : (mapInsn x i f s).ports = s.ports := rfl
@[simp] theorem mapInsn_power : (mapInsn x i f s).power = s.power := rfl
@[simp] theorem mapInsn_fw : (mapInsn x i f s).fw = s.fw := rfl
end

section
variable (x : UnitCtx) (z : Seq) (s : State)
@[simp] theorem putSeq_pending : (putSeq x z s).pending = s.pending := rfl
@[simp] theorem putSeq_sent : (putSeq x z s).sent = s.sent := rfl
@[simp] theorem putSeq_free : (putSeq x z s).free = s.free := rfl
@[simp] theorem putSeq_tick : (putSeq x z s).tick = s.tick := rfl
@[simp] theorem putSeq_lift : (putSeq x z s).lift = s.lift := rfl
@[simp] theorem putSeq_boot : (putSeq x z s).boot = s.boot := rfl
@[simp] theorem putSeq_pins : (putSeq x z s).pins = s.pins := rfl
@[simp] theorem putSeq_mem : (putSeq x z s).mem = s.mem := rfl
@[simp] theorem putSeq_memKeys : (putSeq x z s).memKeys = s.memKeys := rfl
@[simp] theorem putSeq_keys : (putSeq x z s).keys = s.keys := rfl
@[simp] theorem putSeq_cfg : (putSeq x z s).cfg = s.cfg := rfl
@[simp] theorem putSeq_slices : (putSeq x z s).slices = s.slices := rfl
@[simp] theorem putSeq_queues : (putSeq x z s).queues = s.queues := rfl
@[simp] theorem putSeq_contexts : (putSeq x z s).contexts = s.contexts := rfl
@[simp] theorem putSeq_current : (putSeq x z s).current = s.current := rfl
@[simp] theorem putSeq_slots : (putSeq x z s).slots = s.slots := rfl
@[simp] theorem putSeq_sram : (putSeq x z s).sram = s.sram := rfl
@[simp] theorem putSeq_sramErrs : (putSeq x z s).sramErrs = s.sramErrs := rfl
@[simp] theorem putSeq_tallies : (putSeq x z s).tallies = s.tallies := rfl
@[simp] theorem putSeq_held : (putSeq x z s).held = s.held := rfl
@[simp] theorem putSeq_heldIncs : (putSeq x z s).heldIncs = s.heldIncs := rfl
@[simp] theorem putSeq_counters : (putSeq x z s).counters = s.counters := rfl
@[simp] theorem putSeq_gates : (putSeq x z s).gates = s.gates := rfl
@[simp] theorem putSeq_xlat : (putSeq x z s).xlat = s.xlat := rfl
@[simp] theorem putSeq_mp : (putSeq x z s).mp = s.mp := rfl
@[simp] theorem putSeq_fab : (putSeq x z s).fab = s.fab := rfl
@[simp] theorem putSeq_telemetry : (putSeq x z s).telemetry = s.telemetry := rfl
@[simp] theorem putSeq_fq : (putSeq x z s).fq = s.fq := rfl
@[simp] theorem putSeq_recovery : (putSeq x z s).recovery = s.recovery := rfl
@[simp] theorem putSeq_patrol : (putSeq x z s).patrol = s.patrol := rfl
@[simp] theorem putSeq_twin : (putSeq x z s).twin = s.twin := rfl
@[simp] theorem putSeq_mgr : (putSeq x z s).mgr = s.mgr := rfl
@[simp] theorem putSeq_mbx : (putSeq x z s).mbx = s.mbx := rfl
@[simp] theorem putSeq_chan : (putSeq x z s).chan = s.chan := rfl
@[simp] theorem putSeq_icu : (putSeq x z s).icu = s.icu := rfl
@[simp] theorem putSeq_ports : (putSeq x z s).ports = s.ports := rfl
@[simp] theorem putSeq_power : (putSeq x z s).power = s.power := rfl
@[simp] theorem putSeq_fw : (putSeq x z s).fw = s.fw := rfl
end

section
variable (g : Nat) (x : Gate) (s : State)
@[simp] theorem setGate_pending : (setGate g x s).pending = s.pending := rfl
@[simp] theorem setGate_sent : (setGate g x s).sent = s.sent := rfl
@[simp] theorem setGate_free : (setGate g x s).free = s.free := rfl
@[simp] theorem setGate_tick : (setGate g x s).tick = s.tick := rfl
@[simp] theorem setGate_lift : (setGate g x s).lift = s.lift := rfl
@[simp] theorem setGate_boot : (setGate g x s).boot = s.boot := rfl
@[simp] theorem setGate_pins : (setGate g x s).pins = s.pins := rfl
@[simp] theorem setGate_mem : (setGate g x s).mem = s.mem := rfl
@[simp] theorem setGate_memKeys : (setGate g x s).memKeys = s.memKeys := rfl
@[simp] theorem setGate_keys : (setGate g x s).keys = s.keys := rfl
@[simp] theorem setGate_cfg : (setGate g x s).cfg = s.cfg := rfl
@[simp] theorem setGate_slices : (setGate g x s).slices = s.slices := rfl
@[simp] theorem setGate_queues : (setGate g x s).queues = s.queues := rfl
@[simp] theorem setGate_contexts : (setGate g x s).contexts = s.contexts := rfl
@[simp] theorem setGate_units : (setGate g x s).units = s.units := rfl
@[simp] theorem setGate_current : (setGate g x s).current = s.current := rfl
@[simp] theorem setGate_slots : (setGate g x s).slots = s.slots := rfl
@[simp] theorem setGate_sram : (setGate g x s).sram = s.sram := rfl
@[simp] theorem setGate_sramErrs : (setGate g x s).sramErrs = s.sramErrs := rfl
@[simp] theorem setGate_tallies : (setGate g x s).tallies = s.tallies := rfl
@[simp] theorem setGate_held : (setGate g x s).held = s.held := rfl
@[simp] theorem setGate_heldIncs : (setGate g x s).heldIncs = s.heldIncs := rfl
@[simp] theorem setGate_counters : (setGate g x s).counters = s.counters := rfl
@[simp] theorem setGate_xlat : (setGate g x s).xlat = s.xlat := rfl
@[simp] theorem setGate_mp : (setGate g x s).mp = s.mp := rfl
@[simp] theorem setGate_fab : (setGate g x s).fab = s.fab := rfl
@[simp] theorem setGate_telemetry : (setGate g x s).telemetry = s.telemetry := rfl
@[simp] theorem setGate_fq : (setGate g x s).fq = s.fq := rfl
@[simp] theorem setGate_recovery : (setGate g x s).recovery = s.recovery := rfl
@[simp] theorem setGate_patrol : (setGate g x s).patrol = s.patrol := rfl
@[simp] theorem setGate_twin : (setGate g x s).twin = s.twin := rfl
@[simp] theorem setGate_mgr : (setGate g x s).mgr = s.mgr := rfl
@[simp] theorem setGate_mbx : (setGate g x s).mbx = s.mbx := rfl
@[simp] theorem setGate_chan : (setGate g x s).chan = s.chan := rfl
@[simp] theorem setGate_icu : (setGate g x s).icu = s.icu := rfl
@[simp] theorem setGate_ports : (setGate g x s).ports = s.ports := rfl
@[simp] theorem setGate_power : (setGate g x s).power = s.power := rfl
@[simp] theorem setGate_fw : (setGate g x s).fw = s.fw := rfl
end

section
variable (p : Nat) (x : EnginePort) (s : State)
@[simp] theorem setEnginePort_pending : (setEnginePort p x s).pending = s.pending := rfl
@[simp] theorem setEnginePort_sent : (setEnginePort p x s).sent = s.sent := rfl
@[simp] theorem setEnginePort_free : (setEnginePort p x s).free = s.free := rfl
@[simp] theorem setEnginePort_tick : (setEnginePort p x s).tick = s.tick := rfl
@[simp] theorem setEnginePort_lift : (setEnginePort p x s).lift = s.lift := rfl
@[simp] theorem setEnginePort_boot : (setEnginePort p x s).boot = s.boot := rfl
@[simp] theorem setEnginePort_pins : (setEnginePort p x s).pins = s.pins := rfl
@[simp] theorem setEnginePort_mem : (setEnginePort p x s).mem = s.mem := rfl
@[simp] theorem setEnginePort_memKeys : (setEnginePort p x s).memKeys = s.memKeys := rfl
@[simp] theorem setEnginePort_keys : (setEnginePort p x s).keys = s.keys := rfl
@[simp] theorem setEnginePort_cfg : (setEnginePort p x s).cfg = s.cfg := rfl
@[simp] theorem setEnginePort_slices : (setEnginePort p x s).slices = s.slices := rfl
@[simp] theorem setEnginePort_queues : (setEnginePort p x s).queues = s.queues := rfl
@[simp] theorem setEnginePort_contexts : (setEnginePort p x s).contexts = s.contexts := rfl
@[simp] theorem setEnginePort_units : (setEnginePort p x s).units = s.units := rfl
@[simp] theorem setEnginePort_current : (setEnginePort p x s).current = s.current := rfl
@[simp] theorem setEnginePort_slots : (setEnginePort p x s).slots = s.slots := rfl
@[simp] theorem setEnginePort_sram : (setEnginePort p x s).sram = s.sram := rfl
@[simp] theorem setEnginePort_sramErrs : (setEnginePort p x s).sramErrs = s.sramErrs := rfl
@[simp] theorem setEnginePort_tallies : (setEnginePort p x s).tallies = s.tallies := rfl
@[simp] theorem setEnginePort_held : (setEnginePort p x s).held = s.held := rfl
@[simp] theorem setEnginePort_heldIncs : (setEnginePort p x s).heldIncs = s.heldIncs := rfl
@[simp] theorem setEnginePort_counters : (setEnginePort p x s).counters = s.counters := rfl
@[simp] theorem setEnginePort_gates : (setEnginePort p x s).gates = s.gates := rfl
@[simp] theorem setEnginePort_xlat : (setEnginePort p x s).xlat = s.xlat := rfl
@[simp] theorem setEnginePort_mp : (setEnginePort p x s).mp = s.mp := rfl
@[simp] theorem setEnginePort_fab : (setEnginePort p x s).fab = s.fab := rfl
@[simp] theorem setEnginePort_telemetry : (setEnginePort p x s).telemetry = s.telemetry := rfl
@[simp] theorem setEnginePort_fq : (setEnginePort p x s).fq = s.fq := rfl
@[simp] theorem setEnginePort_recovery : (setEnginePort p x s).recovery = s.recovery := rfl
@[simp] theorem setEnginePort_patrol : (setEnginePort p x s).patrol = s.patrol := rfl
@[simp] theorem setEnginePort_twin : (setEnginePort p x s).twin = s.twin := rfl
@[simp] theorem setEnginePort_mgr : (setEnginePort p x s).mgr = s.mgr := rfl
@[simp] theorem setEnginePort_mbx : (setEnginePort p x s).mbx = s.mbx := rfl
@[simp] theorem setEnginePort_chan : (setEnginePort p x s).chan = s.chan := rfl
@[simp] theorem setEnginePort_icu : (setEnginePort p x s).icu = s.icu := rfl
@[simp] theorem setEnginePort_power : (setEnginePort p x s).power = s.power := rfl
@[simp] theorem setEnginePort_fw : (setEnginePort p x s).fw = s.fw := rfl
end

section
variable (f : Lift → Lift) (s : State)
@[simp] theorem mapLift_pending : (mapLift f s).pending = s.pending := rfl
@[simp] theorem mapLift_sent : (mapLift f s).sent = s.sent := rfl
@[simp] theorem mapLift_free : (mapLift f s).free = s.free := rfl
@[simp] theorem mapLift_tick : (mapLift f s).tick = s.tick := rfl
@[simp] theorem mapLift_boot : (mapLift f s).boot = s.boot := rfl
@[simp] theorem mapLift_pins : (mapLift f s).pins = s.pins := rfl
@[simp] theorem mapLift_mem : (mapLift f s).mem = s.mem := rfl
@[simp] theorem mapLift_memKeys : (mapLift f s).memKeys = s.memKeys := rfl
@[simp] theorem mapLift_keys : (mapLift f s).keys = s.keys := rfl
@[simp] theorem mapLift_cfg : (mapLift f s).cfg = s.cfg := rfl
@[simp] theorem mapLift_slices : (mapLift f s).slices = s.slices := rfl
@[simp] theorem mapLift_queues : (mapLift f s).queues = s.queues := rfl
@[simp] theorem mapLift_contexts : (mapLift f s).contexts = s.contexts := rfl
@[simp] theorem mapLift_units : (mapLift f s).units = s.units := rfl
@[simp] theorem mapLift_current : (mapLift f s).current = s.current := rfl
@[simp] theorem mapLift_slots : (mapLift f s).slots = s.slots := rfl
@[simp] theorem mapLift_sram : (mapLift f s).sram = s.sram := rfl
@[simp] theorem mapLift_sramErrs : (mapLift f s).sramErrs = s.sramErrs := rfl
@[simp] theorem mapLift_tallies : (mapLift f s).tallies = s.tallies := rfl
@[simp] theorem mapLift_held : (mapLift f s).held = s.held := rfl
@[simp] theorem mapLift_heldIncs : (mapLift f s).heldIncs = s.heldIncs := rfl
@[simp] theorem mapLift_counters : (mapLift f s).counters = s.counters := rfl
@[simp] theorem mapLift_gates : (mapLift f s).gates = s.gates := rfl
@[simp] theorem mapLift_xlat : (mapLift f s).xlat = s.xlat := rfl
@[simp] theorem mapLift_mp : (mapLift f s).mp = s.mp := rfl
@[simp] theorem mapLift_fab : (mapLift f s).fab = s.fab := rfl
@[simp] theorem mapLift_telemetry : (mapLift f s).telemetry = s.telemetry := rfl
@[simp] theorem mapLift_fq : (mapLift f s).fq = s.fq := rfl
@[simp] theorem mapLift_recovery : (mapLift f s).recovery = s.recovery := rfl
@[simp] theorem mapLift_patrol : (mapLift f s).patrol = s.patrol := rfl
@[simp] theorem mapLift_twin : (mapLift f s).twin = s.twin := rfl
@[simp] theorem mapLift_mgr : (mapLift f s).mgr = s.mgr := rfl
@[simp] theorem mapLift_mbx : (mapLift f s).mbx = s.mbx := rfl
@[simp] theorem mapLift_chan : (mapLift f s).chan = s.chan := rfl
@[simp] theorem mapLift_icu : (mapLift f s).icu = s.icu := rfl
@[simp] theorem mapLift_ports : (mapLift f s).ports = s.ports := rfl
@[simp] theorem mapLift_power : (mapLift f s).power = s.power := rfl
@[simp] theorem mapLift_fw : (mapLift f s).fw = s.fw := rfl
end

section
variable (f : Boot → Boot) (s : State)
@[simp] theorem mapBoot_pending : (mapBoot f s).pending = s.pending := rfl
@[simp] theorem mapBoot_sent : (mapBoot f s).sent = s.sent := rfl
@[simp] theorem mapBoot_free : (mapBoot f s).free = s.free := rfl
@[simp] theorem mapBoot_tick : (mapBoot f s).tick = s.tick := rfl
@[simp] theorem mapBoot_lift : (mapBoot f s).lift = s.lift := rfl
@[simp] theorem mapBoot_pins : (mapBoot f s).pins = s.pins := rfl
@[simp] theorem mapBoot_mem : (mapBoot f s).mem = s.mem := rfl
@[simp] theorem mapBoot_memKeys : (mapBoot f s).memKeys = s.memKeys := rfl
@[simp] theorem mapBoot_keys : (mapBoot f s).keys = s.keys := rfl
@[simp] theorem mapBoot_cfg : (mapBoot f s).cfg = s.cfg := rfl
@[simp] theorem mapBoot_slices : (mapBoot f s).slices = s.slices := rfl
@[simp] theorem mapBoot_queues : (mapBoot f s).queues = s.queues := rfl
@[simp] theorem mapBoot_contexts : (mapBoot f s).contexts = s.contexts := rfl
@[simp] theorem mapBoot_units : (mapBoot f s).units = s.units := rfl
@[simp] theorem mapBoot_current : (mapBoot f s).current = s.current := rfl
@[simp] theorem mapBoot_slots : (mapBoot f s).slots = s.slots := rfl
@[simp] theorem mapBoot_sram : (mapBoot f s).sram = s.sram := rfl
@[simp] theorem mapBoot_sramErrs : (mapBoot f s).sramErrs = s.sramErrs := rfl
@[simp] theorem mapBoot_tallies : (mapBoot f s).tallies = s.tallies := rfl
@[simp] theorem mapBoot_held : (mapBoot f s).held = s.held := rfl
@[simp] theorem mapBoot_heldIncs : (mapBoot f s).heldIncs = s.heldIncs := rfl
@[simp] theorem mapBoot_counters : (mapBoot f s).counters = s.counters := rfl
@[simp] theorem mapBoot_gates : (mapBoot f s).gates = s.gates := rfl
@[simp] theorem mapBoot_xlat : (mapBoot f s).xlat = s.xlat := rfl
@[simp] theorem mapBoot_mp : (mapBoot f s).mp = s.mp := rfl
@[simp] theorem mapBoot_fab : (mapBoot f s).fab = s.fab := rfl
@[simp] theorem mapBoot_telemetry : (mapBoot f s).telemetry = s.telemetry := rfl
@[simp] theorem mapBoot_fq : (mapBoot f s).fq = s.fq := rfl
@[simp] theorem mapBoot_recovery : (mapBoot f s).recovery = s.recovery := rfl
@[simp] theorem mapBoot_patrol : (mapBoot f s).patrol = s.patrol := rfl
@[simp] theorem mapBoot_twin : (mapBoot f s).twin = s.twin := rfl
@[simp] theorem mapBoot_mgr : (mapBoot f s).mgr = s.mgr := rfl
@[simp] theorem mapBoot_mbx : (mapBoot f s).mbx = s.mbx := rfl
@[simp] theorem mapBoot_chan : (mapBoot f s).chan = s.chan := rfl
@[simp] theorem mapBoot_icu : (mapBoot f s).icu = s.icu := rfl
@[simp] theorem mapBoot_ports : (mapBoot f s).ports = s.ports := rfl
@[simp] theorem mapBoot_power : (mapBoot f s).power = s.power := rfl
@[simp] theorem mapBoot_fw : (mapBoot f s).fw = s.fw := rfl
end

section
variable (f : Power → Power) (s : State)
@[simp] theorem mapPower_pending : (mapPower f s).pending = s.pending := rfl
@[simp] theorem mapPower_sent : (mapPower f s).sent = s.sent := rfl
@[simp] theorem mapPower_free : (mapPower f s).free = s.free := rfl
@[simp] theorem mapPower_tick : (mapPower f s).tick = s.tick := rfl
@[simp] theorem mapPower_lift : (mapPower f s).lift = s.lift := rfl
@[simp] theorem mapPower_boot : (mapPower f s).boot = s.boot := rfl
@[simp] theorem mapPower_pins : (mapPower f s).pins = s.pins := rfl
@[simp] theorem mapPower_mem : (mapPower f s).mem = s.mem := rfl
@[simp] theorem mapPower_memKeys : (mapPower f s).memKeys = s.memKeys := rfl
@[simp] theorem mapPower_keys : (mapPower f s).keys = s.keys := rfl
@[simp] theorem mapPower_cfg : (mapPower f s).cfg = s.cfg := rfl
@[simp] theorem mapPower_slices : (mapPower f s).slices = s.slices := rfl
@[simp] theorem mapPower_queues : (mapPower f s).queues = s.queues := rfl
@[simp] theorem mapPower_contexts : (mapPower f s).contexts = s.contexts := rfl
@[simp] theorem mapPower_units : (mapPower f s).units = s.units := rfl
@[simp] theorem mapPower_current : (mapPower f s).current = s.current := rfl
@[simp] theorem mapPower_slots : (mapPower f s).slots = s.slots := rfl
@[simp] theorem mapPower_sram : (mapPower f s).sram = s.sram := rfl
@[simp] theorem mapPower_sramErrs : (mapPower f s).sramErrs = s.sramErrs := rfl
@[simp] theorem mapPower_tallies : (mapPower f s).tallies = s.tallies := rfl
@[simp] theorem mapPower_held : (mapPower f s).held = s.held := rfl
@[simp] theorem mapPower_heldIncs : (mapPower f s).heldIncs = s.heldIncs := rfl
@[simp] theorem mapPower_counters : (mapPower f s).counters = s.counters := rfl
@[simp] theorem mapPower_gates : (mapPower f s).gates = s.gates := rfl
@[simp] theorem mapPower_xlat : (mapPower f s).xlat = s.xlat := rfl
@[simp] theorem mapPower_mp : (mapPower f s).mp = s.mp := rfl
@[simp] theorem mapPower_fab : (mapPower f s).fab = s.fab := rfl
@[simp] theorem mapPower_telemetry : (mapPower f s).telemetry = s.telemetry := rfl
@[simp] theorem mapPower_fq : (mapPower f s).fq = s.fq := rfl
@[simp] theorem mapPower_recovery : (mapPower f s).recovery = s.recovery := rfl
@[simp] theorem mapPower_patrol : (mapPower f s).patrol = s.patrol := rfl
@[simp] theorem mapPower_twin : (mapPower f s).twin = s.twin := rfl
@[simp] theorem mapPower_mgr : (mapPower f s).mgr = s.mgr := rfl
@[simp] theorem mapPower_mbx : (mapPower f s).mbx = s.mbx := rfl
@[simp] theorem mapPower_chan : (mapPower f s).chan = s.chan := rfl
@[simp] theorem mapPower_icu : (mapPower f s).icu = s.icu := rfl
@[simp] theorem mapPower_ports : (mapPower f s).ports = s.ports := rfl
@[simp] theorem mapPower_fw : (mapPower f s).fw = s.fw := rfl
end

section
variable (f : Twin → Twin) (s : State)
@[simp] theorem mapTwin_pending : (mapTwin f s).pending = s.pending := rfl
@[simp] theorem mapTwin_sent : (mapTwin f s).sent = s.sent := rfl
@[simp] theorem mapTwin_free : (mapTwin f s).free = s.free := rfl
@[simp] theorem mapTwin_tick : (mapTwin f s).tick = s.tick := rfl
@[simp] theorem mapTwin_lift : (mapTwin f s).lift = s.lift := rfl
@[simp] theorem mapTwin_boot : (mapTwin f s).boot = s.boot := rfl
@[simp] theorem mapTwin_pins : (mapTwin f s).pins = s.pins := rfl
@[simp] theorem mapTwin_mem : (mapTwin f s).mem = s.mem := rfl
@[simp] theorem mapTwin_memKeys : (mapTwin f s).memKeys = s.memKeys := rfl
@[simp] theorem mapTwin_keys : (mapTwin f s).keys = s.keys := rfl
@[simp] theorem mapTwin_cfg : (mapTwin f s).cfg = s.cfg := rfl
@[simp] theorem mapTwin_slices : (mapTwin f s).slices = s.slices := rfl
@[simp] theorem mapTwin_queues : (mapTwin f s).queues = s.queues := rfl
@[simp] theorem mapTwin_contexts : (mapTwin f s).contexts = s.contexts := rfl
@[simp] theorem mapTwin_units : (mapTwin f s).units = s.units := rfl
@[simp] theorem mapTwin_current : (mapTwin f s).current = s.current := rfl
@[simp] theorem mapTwin_slots : (mapTwin f s).slots = s.slots := rfl
@[simp] theorem mapTwin_sram : (mapTwin f s).sram = s.sram := rfl
@[simp] theorem mapTwin_sramErrs : (mapTwin f s).sramErrs = s.sramErrs := rfl
@[simp] theorem mapTwin_tallies : (mapTwin f s).tallies = s.tallies := rfl
@[simp] theorem mapTwin_held : (mapTwin f s).held = s.held := rfl
@[simp] theorem mapTwin_heldIncs : (mapTwin f s).heldIncs = s.heldIncs := rfl
@[simp] theorem mapTwin_counters : (mapTwin f s).counters = s.counters := rfl
@[simp] theorem mapTwin_gates : (mapTwin f s).gates = s.gates := rfl
@[simp] theorem mapTwin_xlat : (mapTwin f s).xlat = s.xlat := rfl
@[simp] theorem mapTwin_mp : (mapTwin f s).mp = s.mp := rfl
@[simp] theorem mapTwin_fab : (mapTwin f s).fab = s.fab := rfl
@[simp] theorem mapTwin_telemetry : (mapTwin f s).telemetry = s.telemetry := rfl
@[simp] theorem mapTwin_fq : (mapTwin f s).fq = s.fq := rfl
@[simp] theorem mapTwin_recovery : (mapTwin f s).recovery = s.recovery := rfl
@[simp] theorem mapTwin_patrol : (mapTwin f s).patrol = s.patrol := rfl
@[simp] theorem mapTwin_mgr : (mapTwin f s).mgr = s.mgr := rfl
@[simp] theorem mapTwin_mbx : (mapTwin f s).mbx = s.mbx := rfl
@[simp] theorem mapTwin_chan : (mapTwin f s).chan = s.chan := rfl
@[simp] theorem mapTwin_icu : (mapTwin f s).icu = s.icu := rfl
@[simp] theorem mapTwin_ports : (mapTwin f s).ports = s.ports := rfl
@[simp] theorem mapTwin_power : (mapTwin f s).power = s.power := rfl
@[simp] theorem mapTwin_fw : (mapTwin f s).fw = s.fw := rfl
end

section
variable (f : Keys → Keys) (s : State)
@[simp] theorem mapKeys_pending : (mapKeys f s).pending = s.pending := rfl
@[simp] theorem mapKeys_sent : (mapKeys f s).sent = s.sent := rfl
@[simp] theorem mapKeys_free : (mapKeys f s).free = s.free := rfl
@[simp] theorem mapKeys_tick : (mapKeys f s).tick = s.tick := rfl
@[simp] theorem mapKeys_lift : (mapKeys f s).lift = s.lift := rfl
@[simp] theorem mapKeys_boot : (mapKeys f s).boot = s.boot := rfl
@[simp] theorem mapKeys_pins : (mapKeys f s).pins = s.pins := rfl
@[simp] theorem mapKeys_mem : (mapKeys f s).mem = s.mem := rfl
@[simp] theorem mapKeys_memKeys : (mapKeys f s).memKeys = s.memKeys := rfl
@[simp] theorem mapKeys_cfg : (mapKeys f s).cfg = s.cfg := rfl
@[simp] theorem mapKeys_slices : (mapKeys f s).slices = s.slices := rfl
@[simp] theorem mapKeys_queues : (mapKeys f s).queues = s.queues := rfl
@[simp] theorem mapKeys_contexts : (mapKeys f s).contexts = s.contexts := rfl
@[simp] theorem mapKeys_units : (mapKeys f s).units = s.units := rfl
@[simp] theorem mapKeys_current : (mapKeys f s).current = s.current := rfl
@[simp] theorem mapKeys_slots : (mapKeys f s).slots = s.slots := rfl
@[simp] theorem mapKeys_sram : (mapKeys f s).sram = s.sram := rfl
@[simp] theorem mapKeys_sramErrs : (mapKeys f s).sramErrs = s.sramErrs := rfl
@[simp] theorem mapKeys_tallies : (mapKeys f s).tallies = s.tallies := rfl
@[simp] theorem mapKeys_held : (mapKeys f s).held = s.held := rfl
@[simp] theorem mapKeys_heldIncs : (mapKeys f s).heldIncs = s.heldIncs := rfl
@[simp] theorem mapKeys_counters : (mapKeys f s).counters = s.counters := rfl
@[simp] theorem mapKeys_gates : (mapKeys f s).gates = s.gates := rfl
@[simp] theorem mapKeys_xlat : (mapKeys f s).xlat = s.xlat := rfl
@[simp] theorem mapKeys_mp : (mapKeys f s).mp = s.mp := rfl
@[simp] theorem mapKeys_fab : (mapKeys f s).fab = s.fab := rfl
@[simp] theorem mapKeys_telemetry : (mapKeys f s).telemetry = s.telemetry := rfl
@[simp] theorem mapKeys_fq : (mapKeys f s).fq = s.fq := rfl
@[simp] theorem mapKeys_recovery : (mapKeys f s).recovery = s.recovery := rfl
@[simp] theorem mapKeys_patrol : (mapKeys f s).patrol = s.patrol := rfl
@[simp] theorem mapKeys_twin : (mapKeys f s).twin = s.twin := rfl
@[simp] theorem mapKeys_mgr : (mapKeys f s).mgr = s.mgr := rfl
@[simp] theorem mapKeys_mbx : (mapKeys f s).mbx = s.mbx := rfl
@[simp] theorem mapKeys_chan : (mapKeys f s).chan = s.chan := rfl
@[simp] theorem mapKeys_icu : (mapKeys f s).icu = s.icu := rfl
@[simp] theorem mapKeys_ports : (mapKeys f s).ports = s.ports := rfl
@[simp] theorem mapKeys_power : (mapKeys f s).power = s.power := rfl
@[simp] theorem mapKeys_fw : (mapKeys f s).fw = s.fw := rfl
end

section
variable (f : Firmware → Firmware) (s : State)
@[simp] theorem mapFw_pending : (mapFw f s).pending = s.pending := rfl
@[simp] theorem mapFw_sent : (mapFw f s).sent = s.sent := rfl
@[simp] theorem mapFw_free : (mapFw f s).free = s.free := rfl
@[simp] theorem mapFw_tick : (mapFw f s).tick = s.tick := rfl
@[simp] theorem mapFw_lift : (mapFw f s).lift = s.lift := rfl
@[simp] theorem mapFw_boot : (mapFw f s).boot = s.boot := rfl
@[simp] theorem mapFw_pins : (mapFw f s).pins = s.pins := rfl
@[simp] theorem mapFw_mem : (mapFw f s).mem = s.mem := rfl
@[simp] theorem mapFw_memKeys : (mapFw f s).memKeys = s.memKeys := rfl
@[simp] theorem mapFw_keys : (mapFw f s).keys = s.keys := rfl
@[simp] theorem mapFw_cfg : (mapFw f s).cfg = s.cfg := rfl
@[simp] theorem mapFw_slices : (mapFw f s).slices = s.slices := rfl
@[simp] theorem mapFw_queues : (mapFw f s).queues = s.queues := rfl
@[simp] theorem mapFw_contexts : (mapFw f s).contexts = s.contexts := rfl
@[simp] theorem mapFw_units : (mapFw f s).units = s.units := rfl
@[simp] theorem mapFw_current : (mapFw f s).current = s.current := rfl
@[simp] theorem mapFw_slots : (mapFw f s).slots = s.slots := rfl
@[simp] theorem mapFw_sram : (mapFw f s).sram = s.sram := rfl
@[simp] theorem mapFw_sramErrs : (mapFw f s).sramErrs = s.sramErrs := rfl
@[simp] theorem mapFw_tallies : (mapFw f s).tallies = s.tallies := rfl
@[simp] theorem mapFw_held : (mapFw f s).held = s.held := rfl
@[simp] theorem mapFw_heldIncs : (mapFw f s).heldIncs = s.heldIncs := rfl
@[simp] theorem mapFw_counters : (mapFw f s).counters = s.counters := rfl
@[simp] theorem mapFw_gates : (mapFw f s).gates = s.gates := rfl
@[simp] theorem mapFw_xlat : (mapFw f s).xlat = s.xlat := rfl
@[simp] theorem mapFw_mp : (mapFw f s).mp = s.mp := rfl
@[simp] theorem mapFw_fab : (mapFw f s).fab = s.fab := rfl
@[simp] theorem mapFw_telemetry : (mapFw f s).telemetry = s.telemetry := rfl
@[simp] theorem mapFw_fq : (mapFw f s).fq = s.fq := rfl
@[simp] theorem mapFw_recovery : (mapFw f s).recovery = s.recovery := rfl
@[simp] theorem mapFw_patrol : (mapFw f s).patrol = s.patrol := rfl
@[simp] theorem mapFw_twin : (mapFw f s).twin = s.twin := rfl
@[simp] theorem mapFw_mgr : (mapFw f s).mgr = s.mgr := rfl
@[simp] theorem mapFw_mbx : (mapFw f s).mbx = s.mbx := rfl
@[simp] theorem mapFw_chan : (mapFw f s).chan = s.chan := rfl
@[simp] theorem mapFw_icu : (mapFw f s).icu = s.icu := rfl
@[simp] theorem mapFw_ports : (mapFw f s).ports = s.ports := rfl
@[simp] theorem mapFw_power : (mapFw f s).power = s.power := rfl
end

section
variable (f : Recovery → Recovery) (s : State)
@[simp] theorem mapRecovery_pending : (mapRecovery f s).pending = s.pending := rfl
@[simp] theorem mapRecovery_sent : (mapRecovery f s).sent = s.sent := rfl
@[simp] theorem mapRecovery_free : (mapRecovery f s).free = s.free := rfl
@[simp] theorem mapRecovery_tick : (mapRecovery f s).tick = s.tick := rfl
@[simp] theorem mapRecovery_lift : (mapRecovery f s).lift = s.lift := rfl
@[simp] theorem mapRecovery_boot : (mapRecovery f s).boot = s.boot := rfl
@[simp] theorem mapRecovery_pins : (mapRecovery f s).pins = s.pins := rfl
@[simp] theorem mapRecovery_mem : (mapRecovery f s).mem = s.mem := rfl
@[simp] theorem mapRecovery_memKeys : (mapRecovery f s).memKeys = s.memKeys := rfl
@[simp] theorem mapRecovery_keys : (mapRecovery f s).keys = s.keys := rfl
@[simp] theorem mapRecovery_cfg : (mapRecovery f s).cfg = s.cfg := rfl
@[simp] theorem mapRecovery_slices : (mapRecovery f s).slices = s.slices := rfl
@[simp] theorem mapRecovery_queues : (mapRecovery f s).queues = s.queues := rfl
@[simp] theorem mapRecovery_contexts : (mapRecovery f s).contexts = s.contexts := rfl
@[simp] theorem mapRecovery_units : (mapRecovery f s).units = s.units := rfl
@[simp] theorem mapRecovery_current : (mapRecovery f s).current = s.current := rfl
@[simp] theorem mapRecovery_slots : (mapRecovery f s).slots = s.slots := rfl
@[simp] theorem mapRecovery_sram : (mapRecovery f s).sram = s.sram := rfl
@[simp] theorem mapRecovery_sramErrs : (mapRecovery f s).sramErrs = s.sramErrs := rfl
@[simp] theorem mapRecovery_tallies : (mapRecovery f s).tallies = s.tallies := rfl
@[simp] theorem mapRecovery_held : (mapRecovery f s).held = s.held := rfl
@[simp] theorem mapRecovery_heldIncs : (mapRecovery f s).heldIncs = s.heldIncs := rfl
@[simp] theorem mapRecovery_counters : (mapRecovery f s).counters = s.counters := rfl
@[simp] theorem mapRecovery_gates : (mapRecovery f s).gates = s.gates := rfl
@[simp] theorem mapRecovery_xlat : (mapRecovery f s).xlat = s.xlat := rfl
@[simp] theorem mapRecovery_mp : (mapRecovery f s).mp = s.mp := rfl
@[simp] theorem mapRecovery_fab : (mapRecovery f s).fab = s.fab := rfl
@[simp] theorem mapRecovery_telemetry : (mapRecovery f s).telemetry = s.telemetry := rfl
@[simp] theorem mapRecovery_fq : (mapRecovery f s).fq = s.fq := rfl
@[simp] theorem mapRecovery_patrol : (mapRecovery f s).patrol = s.patrol := rfl
@[simp] theorem mapRecovery_twin : (mapRecovery f s).twin = s.twin := rfl
@[simp] theorem mapRecovery_mgr : (mapRecovery f s).mgr = s.mgr := rfl
@[simp] theorem mapRecovery_mbx : (mapRecovery f s).mbx = s.mbx := rfl
@[simp] theorem mapRecovery_chan : (mapRecovery f s).chan = s.chan := rfl
@[simp] theorem mapRecovery_icu : (mapRecovery f s).icu = s.icu := rfl
@[simp] theorem mapRecovery_ports : (mapRecovery f s).ports = s.ports := rfl
@[simp] theorem mapRecovery_power : (mapRecovery f s).power = s.power := rfl
@[simp] theorem mapRecovery_fw : (mapRecovery f s).fw = s.fw := rfl
end

end Sys2Proof.Machine
end

