-- ==== Sys2Proof/Laws/Lookups.lean ====
section
/-! SUPPORT. Reading back what a named update wrote: the entry named has its new value, and every other entry its old one. -/

namespace Sys2Proof.Machine

theorem findSlice_mapSlice (s : State) (i j : Nat) (f : Slice → Slice) (hf : ∀ x, (f x).id = x.id) :
    findSlice (mapSlice i f s) j = (findSlice s j).map (fun x => if x.id = i then f x else x) := by
  unfold findSlice mapSlice
  rw [List.find?_map]
  congr 2
  funext x
  by_cases h : x.id = i <;> simp [h, hf]

theorem findSlice_id {s : State} {i : Nat} {x : Slice} (h : findSlice s i = some x) : x.id = i := by
  simpa using List.find?_some h

theorem findSlice_mapSlice_self {s : State} {i : Nat} {x : Slice} {f : Slice → Slice} (hf : ∀ x, (f x).id = x.id)
    (h : findSlice s i = some x) : findSlice (mapSlice i f s) i = some (f x) := by
  simp [findSlice_mapSlice s i i f hf, h, findSlice_id h]

theorem findSlice_mapSlice_ne {s : State} {i j : Nat} {f : Slice → Slice} (hf : ∀ x, (f x).id = x.id) (h : j ≠ i) :
    findSlice (mapSlice i f s) j = findSlice s j := by
  rw [findSlice_mapSlice s i j f hf]
  cases hj : findSlice s j with
  | none => rfl
  | some x => simp [findSlice_id hj, h]

theorem findQueue_key {s : State} {i q : Nat} {x : Queue} (h : findQueue s i q = some x) : x.slice = i ∧ x.id = q := by
  simpa using List.find?_some h

theorem findQueue_mapQueue (s : State) (i q j r : Nat) (f : Queue → Queue) (hf : ∀ x, (f x).slice = x.slice ∧ (f x).id = x.id) :
    findQueue (mapQueue i q f s) j r = (findQueue s j r).map (fun x => if x.slice = i ∧ x.id = q then f x else x) := by
  unfold findQueue mapQueue
  rw [List.find?_map]
  congr 2
  funext x
  by_cases h : x.slice = i ∧ x.id = q <;> simp [h, hf]

theorem findQueue_mapQueue_self {s : State} {i q : Nat} {x : Queue} {f : Queue → Queue}
    (hf : ∀ x, (f x).slice = x.slice ∧ (f x).id = x.id) (h : findQueue s i q = some x) :
    findQueue (mapQueue i q f s) i q = some (f x) := by
  simp [findQueue_mapQueue s i q i q f hf, h, findQueue_key h]

theorem findQueue_mapQueue_ne {s : State} {i q j r : Nat} {f : Queue → Queue}
    (hf : ∀ x, (f x).slice = x.slice ∧ (f x).id = x.id) (h : ¬(j = i ∧ r = q)) :
    findQueue (mapQueue i q f s) j r = findQueue s j r := by
  rw [findQueue_mapQueue s i q j r f hf]
  cases hj : findQueue s j r with
  | none => rfl
  | some x => simp [findQueue_key hj, h]

theorem findContext_slice {s : State} {i : Nat} {x : Context} (h : findContext s i = some x) : x.slice = i := by
  simpa using List.find?_some h

theorem findContext_mapContext (s : State) (i j : Nat) (f : Context → Context) (hf : ∀ x, (f x).slice = x.slice) :
    findContext (mapContext i f s) j = (findContext s j).map (fun x => if x.slice = i then f x else x) := by
  unfold findContext mapContext
  rw [List.find?_map]
  congr 2
  funext x
  by_cases h : x.slice = i <;> simp [h, hf]

theorem findUnit_key {s : State} {u : UnitId} {i : Nat} {x : UnitCtx} (h : findUnit s u i = some x) : x.unit = u ∧ x.slice = i := by
  simpa using List.find?_some h

theorem findUnit_mapUnit (s : State) (u v : UnitId) (i j : Nat) (f : UnitCtx → UnitCtx)
    (hf : ∀ x, (f x).unit = x.unit ∧ (f x).slice = x.slice) :
    findUnit (mapUnit u i f s) v j = (findUnit s v j).map (fun x => if x.unit = u ∧ x.slice = i then f x else x) := by
  unfold findUnit mapUnit
  rw [List.find?_map]
  congr 2
  funext x
  by_cases h : x.unit = u ∧ x.slice = i <;> simp [h, hf]

theorem findUnit_mapUnit_self {s : State} {u : UnitId} {i : Nat} {x : UnitCtx} {f : UnitCtx → UnitCtx}
    (hf : ∀ x, (f x).unit = x.unit ∧ (f x).slice = x.slice) (h : findUnit s u i = some x) :
    findUnit (mapUnit u i f s) u i = some (f x) := by
  simp [findUnit_mapUnit s u u i i f hf, h, findUnit_key h]

theorem mailbox_setMailbox_self {s : State} {m : Nat} (b : Mailbox) (h : Sparse.sorted s.mbx = true) : mailbox (setMailbox m b s) m = b :=
  Sparse.get_set_self _ _ _ _ h
theorem mailbox_setMailbox_ne {s : State} {m j : Nat} (b : Mailbox) (h : j ≠ m) : mailbox (setMailbox m b s) j = mailbox s j :=
  Sparse.get_set_ne _ _ _ h

theorem tallyAt_setTallyAt_self {s : State} {k : Nat} (t : Tally) (h : Sparse.sorted s.tallies = true) : tallyAt (setTallyAt k t s) k = t :=
  Sparse.get_set_self _ _ _ _ h
theorem tallyAt_setTallyAt_ne {s : State} {k j : Nat} (t : Tally) (h : j ≠ k) : tallyAt (setTallyAt k t s) j = tallyAt s j :=
  Sparse.get_set_ne _ _ _ h

theorem gateAt_setGate_self {s : State} {g : Nat} (x : Gate) (h : Sparse.sorted s.gates = true) : gateAt (setGate g x s) g = x :=
  Sparse.get_set_self _ _ _ _ h
theorem gateAt_setGate_ne {s : State} {g j : Nat} (x : Gate) (h : j ≠ g) : gateAt (setGate g x s) j = gateAt s j :=
  Sparse.get_set_ne _ _ _ h

theorem groupAt_setGroup_self {s : State} {g : Nat} (x : Group) (h : Sparse.sorted s.fab.groups = true) : groupAt (setGroup g x s) g = x :=
  Sparse.get_set_self _ _ _ _ h
theorem groupAt_setGroup_ne {s : State} {g j : Nat} (x : Group) (h : j ≠ g) : groupAt (setGroup g x s) j = groupAt s j :=
  Sparse.get_set_ne _ _ _ h

theorem laneAt_setLane_self {s : State} {k : Nat} (x : Lane) (h : Sparse.sorted s.fab.lanes = true) : laneAt (setLane k x s) k = x :=
  Sparse.get_set_self _ _ _ _ h
theorem laneAt_setLane_ne {s : State} {k j : Nat} (x : Lane) (h : j ≠ k) : laneAt (setLane k x s) j = laneAt s j :=
  Sparse.get_set_ne _ _ _ h

theorem enginePort_setEnginePort_self {s : State} {p : Nat} (x : EnginePort) (h : Sparse.sorted s.ports = true) :
    enginePort (setEnginePort p x s) p = x :=
  Sparse.get_set_self _ _ _ _ h
theorem enginePort_setEnginePort_ne {s : State} {p j : Nat} (x : EnginePort) (h : j ≠ p) :
    enginePort (setEnginePort p x s) j = enginePort s j :=
  Sparse.get_set_ne _ _ _ h

end Sys2Proof.Machine
end

