-- ==== Sys2Proof/Laws/Memory.lean ====
section
/-! SUPPORT. Every operation on memory keeps its canonical form, and touches nothing but memory and the table of its lines' keys. -/

namespace Sys2Proof.Machine

/-- Memory and the table of the keys its lines were written under are in their canonical form. -/
def Canonical (s : State) : Prop := Memory.wf s.mem = true ∧ Sparse.sorted s.memKeys = true

theorem reset_canonical : Canonical State.reset := ⟨rfl, rfl⟩

theorem writeLines_only (slot : Nat) (ls : List Nat) (s : State) : ∃ m k, writeLines s slot ls = { s with mem := m, memKeys := k } := by
  induction ls generalizing s with
  | nil => exact ⟨s.mem, s.memKeys, rfl⟩
  | cons l ls ih =>
    simp only [writeLines]
    split
    · exact ih s
    · obtain ⟨m, k, h⟩ := ih { s with mem := Sparse.delRange s.mem (l * 64) 64, memKeys := Sparse.put s.memKeys l (slot, keyNumber s slot) }
      exact ⟨m, k, h⟩

theorem writeLines_canonical (slot : Nat) (ls : List Nat) (s : State) (h : Canonical s) : Canonical (writeLines s slot ls) := by
  induction ls generalizing s with
  | nil => exact h
  | cons l ls ih =>
    simp only [writeLines]
    split
    · exact ih s h
    · exact ih _ ⟨Sparse.sorted_delRange _ _ _ h.1, Sparse.sorted_put _ _ _ h.2⟩

theorem memWrite_only (addr slot : Nat) (data : List Byte) (s : State) : ∃ m k, memWrite addr slot data s = { s with mem := m, memKeys := k } := by
  obtain ⟨m, k, h⟩ := writeLines_only slot (linesOf addr data.length) s
  exact ⟨_, k, by unfold memWrite; rw [h]⟩

theorem memWrite_canonical (addr slot : Nat) (data : List Byte) (s : State) (h : Canonical s) : Canonical (memWrite addr slot data s) :=
  ⟨Sparse.sorted_putList _ _ _ (writeLines_canonical _ _ s h).1, (writeLines_canonical _ _ s h).2⟩

end Sys2Proof.Machine
end

