-- ==== Sys2Proof/Laws/Ops.lean ====
section
/-! SUPPORT. What each shared operation can change: `f_only`, and the relations `Sends`, `Records`, `Opens` and `StopsWork`, name the only
fields of the state that change. A field that is not named is unchanged, by taking the equation apart and `rfl`. Of the operations that reach memory, `f_canonical` says that they keep its form. -/

namespace Sys2Proof.Machine

/-! ### Links and packets -/

/-- What sending can change: the fabric, what the block presents, and the free counter. -/
def Sends (s t : State) : Prop := ∃ f o n, t = { s with fab := f, sent := o, free := n }

theorem Sends.refl (s : State) : Sends s s := ⟨_, _, _, rfl⟩
theorem Sends.trans {s t u : State} (h : Sends s t) (g : Sends t u) : Sends s u := by
  obtain ⟨f, o, n, rfl⟩ := h
  obtain ⟨f', o', n', rfl⟩ := g
  exact ⟨f', o', n', rfl⟩

theorem emit_sends (o : Output) (s : State) : Sends s (emit o s) := ⟨_, _, _, rfl⟩

/-- Folding an operation that sends sends. -/
theorem foldl_sends {α : Type} (f : State → α → State) (h : ∀ s a, Sends s (f s a)) (l : List α) (s : State) : Sends s (l.foldl f s) := by
  induction l generalizing s with
  | nil => exact .refl s
  | cons a l ih => exact (h s a).trans (ih _)

theorem sendFrame_sends (g : Nat) (nak : Bool) (q : Parcel) (s : State) : Sends s (sendFrame g nak q s) := by
  unfold sendFrame
  simp only []
  split_ifs <;> split <;> exact ⟨_, _, _, rfl⟩

theorem pumpOne_sends {s t : State} (h : pumpOne s = some t) : Sends s t := by
  unfold pumpOne at h
  split at h
  · cases h
  · obtain ⟨q, _, rfl⟩ := Option.map_eq_some_iff.1 h
    exact Sends.trans ⟨_, _, _, rfl⟩ (sendFrame_sends _ _ _ _)

theorem pump_sends (n : Nat) (s : State) : Sends s (pump n s) := by
  induction n generalizing s with
  | zero => exact .refl s
  | succ n ih =>
    unfold pump
    split
    · rename_i t h
      exact (pumpOne_sends h).trans (ih t)
    · exact .refl s

theorem closeBlocks_sends (s : State) : Sends s (closeBlocks s) := by
  unfold closeBlocks
  split
  · exact .refl s
  · exact ⟨_, _, _, rfl⟩

theorem returnCredits_sends (s : State) : Sends s (returnCredits s) :=
  foldl_sends _ (fun s e => foldl_sends _ (fun s _ => by
    split
    · exact sendFrame_sends _ _ _ _
    · exact .refl s) _ s) _ s

theorem flushOutbox_sends (s : State) : Sends s (flushOutbox s) :=
  ((pump_sends _ s).trans (returnCredits_sends _)).trans (closeBlocks_sends _)

theorem sendParcel_sends (q : Parcel) (s : State) : Sends s (sendParcel q s) :=
  Sends.trans ⟨_, s.sent, s.free, rfl⟩ (flushOutbox_sends _)

theorem transmit_sends (p : Packet) (s : State) : Sends s (transmit p s) := by
  unfold transmit
  split
  · exact emit_sends _ s
  · exact sendParcel_sends _ s

theorem sendD2d_sends (b : Nat) (m : D2dMsg) (s : State) : Sends s (sendD2d b m s) := by
  unfold sendD2d
  split
  · exact emit_sends _ s
  · exact sendParcel_sends _ s

theorem emitD2d_sends (bs : List Nat) (m : D2dMsg) (s : State) : Sends s (emitD2d bs m s) := foldl_sends _ (fun s b => sendD2d_sends b m s) bs s

theorem transmitAll_sends (ps : List Packet) (s : State) : Sends s (transmitAll ps s) := foldl_sends _ (fun s p => transmit_sends p s) ps s

theorem releaseWaiting_sends (s : State) : Sends s (releaseWaiting s) := by
  unfold releaseWaiting
  exact Sends.trans ⟨_, s.sent, s.free, rfl⟩ (transmitAll_sends _ _)

theorem respond_sends (p : Packet) (status cause : Nat) (bs : List Byte) (s : State) : Sends s (respond p status cause bs s) := transmit_sends _ s

theorem postRequest_sends (slice : Nat) (p : Packet) (w : Owner) (a : OnRead) (s : State) : Sends s (postRequest slice p w a s) := by
  unfold postRequest
  simp only []
  split
  · exact Sends.trans ⟨_, s.sent, s.free, rfl⟩ (transmit_sends _ _)
  · exact ⟨_, s.sent, s.free, rfl⟩

/-! ### Interrupts and records -/

/-- What a record or an interrupt can change. -/
def Records (s t : State) : Prop := ∃ q i f o n, t = { s with fq := q, icu := i, fab := f, sent := o, free := n }

theorem Records.refl (s : State) : Records s s := ⟨_, _, _, _, _, rfl⟩
theorem Records.trans {s t u : State} (h : Records s t) (g : Records t u) : Records s u := by
  obtain ⟨q, i, f, o, n, rfl⟩ := h
  obtain ⟨q', i', f', o', n', rfl⟩ := g
  exact ⟨q', i', f', o', n', rfl⟩
theorem Sends.records {s t : State} (h : Sends s t) : Records s t := by
  obtain ⟨f, o, n, rfl⟩ := h
  exact ⟨_, _, f, o, n, rfl⟩

theorem raiseSource_records (n : Nat) (s : State) : Records s (raiseSource n s) := by
  unfold raiseSource
  split_ifs
  · exact .refl s
  · exact ⟨_, _, _, _, _, rfl⟩
  · exact .refl s
  · exact (sendD2d_sends _ _ s).records

theorem raiseSource_fq (n : Nat) (s : State) : (raiseSource n s).fq = s.fq := by
  unfold raiseSource
  split_ifs
  · rfl
  · rfl
  · rfl
  · obtain ⟨f, o, k, h⟩ := sendD2d_sends s.boot.leadId (.interrupt n) s
    rw [h]

theorem refreshLevels_only (s : State) : ∃ i, refreshLevels s = { s with icu := i } := ⟨_, rfl⟩

theorem enterRing_records (r : FaultRecord) (s : State) : Records s (enterRing r s) := by
  unfold enterRing
  simp only []
  split
  · exact ⟨_, _, _, _, _, rfl⟩
  · exact Records.trans ⟨_, _, _, _, _, rfl⟩ (raiseSource_records 7 _)

theorem writeRecord_records (r : FaultRecord) (s : State) : Records s (writeRecord r s) := by
  unfold writeRecord
  simp only []
  split
  · exact Records.trans ⟨_, _, _, _, _, rfl⟩ (enterRing_records _ _)
  · exact Records.trans ⟨_, _, _, _, _, rfl⟩ (sendD2d_sends _ _ _).records

/-- Every record takes the block's next `SEQ`. -/
theorem enterRing_count (r : FaultRecord) (s : State) : (enterRing r s).fq.count = s.fq.count := by
  unfold enterRing
  simp only []
  split
  · rfl
  · rw [raiseSource_fq]
theorem writeRecord_count (r : FaultRecord) (s : State) : (writeRecord r s).fq.count = nextCount s.fq.count := by
  unfold writeRecord
  simp only []
  split
  · exact enterRing_count _ _
  · obtain ⟨f, o, k, h⟩ := sendD2d_sends s.boot.leadId (.record (completeRecord s r)) { s with fq := { s.fq with count := nextCount s.fq.count } }
    rw [h]

/-! ### Open faults and queue stops -/

/-- What an open fault can change, beside the record that it writes. -/
def Opens (s t : State) : Prop := ∃ x q i f o n, t = { s with xlat := x, fq := q, icu := i, fab := f, sent := o, free := n }

theorem Opens.trans {s t u : State} (h : Opens s t) (g : Opens t u) : Opens s u := by
  obtain ⟨x, q, i, f, o, n, rfl⟩ := h
  obtain ⟨x', q', i', f', o', n', rfl⟩ := g
  exact ⟨x', q', i', f', o', n', rfl⟩
theorem Records.opens {s t : State} (h : Records s t) : Opens s t := by
  obtain ⟨q, i, f, o, n, rfl⟩ := h
  exact ⟨_, q, i, f, o, n, rfl⟩

theorem openEntry_opens (slice seg page : Nat) (es : List (UnitId × Nat × Nat)) (r : FaultRecord) (s : State) :
    Opens s (openEntry slice seg page es r s) := by
  unfold openEntry
  exact Opens.trans ⟨_, _, _, _, _, _, rfl⟩ (writeRecord_records _ _).opens

theorem admitOne_opens (s : State) : Opens s (admitOne s) := by
  unfold admitOne
  split
  · exact (Records.refl s).opens
  · split
    · exact (Records.refl s).opens
    · exact Opens.trans ⟨_, _, _, _, _, _, rfl⟩ (openEntry_opens _ _ _ _ _ _)

theorem admitWaiting_opens (s : State) : Opens s (admitWaiting s) := by
  unfold admitWaiting
  generalize List.range s.xlat.waiting.length = l
  induction l generalizing s with
  | nil => exact (Records.refl s).opens
  | cons _ l ih => exact (admitOne_opens s).trans (ih _)

theorem leaveOpenFaults_opens (slice q : Nat) (s : State) : Opens s (leaveOpenFaults slice q s) := by
  unfold leaveOpenFaults
  exact Opens.trans ⟨_, _, _, _, _, _, rfl⟩ (admitWaiting_opens _)

theorem dropRequests_only (slice q : Nat) (to' : Owner) (s : State) : ∃ m f, dropRequests slice q to' s = { s with mp := m, fab := f } :=
  ⟨_, _, rfl⟩

/-- What the stop of a queue can change: of the whole state these fields and no other. -/
def StopsWork (s t : State) : Prop := ∃ x q i f o n m us sl qs rc tk,
  t = { s with xlat := x, fq := q, icu := i, fab := f, sent := o, free := n, mp := m, units := us, slices := sl, queues := qs, recovery := rc, tick := tk }

theorem StopsWork.refl (s : State) : StopsWork s s := ⟨_, _, _, _, _, _, _, _, _, _, _, _, rfl⟩
theorem StopsWork.trans {s t u : State} (h : StopsWork s t) (g : StopsWork t u) : StopsWork s u := by
  obtain ⟨x, q, i, f, o, n, m, us, sl, qs, rc, tk, rfl⟩ := h
  obtain ⟨x', q', i', f', o', n', m', us', sl', qs', rc', tk', rfl⟩ := g
  exact ⟨x', q', i', f', o', n', m', us', sl', qs', rc', tk', rfl⟩
theorem Opens.stops {s t : State} (h : Opens s t) : StopsWork s t := by
  obtain ⟨x, q, i, f, o, n, rfl⟩ := h
  exact ⟨x, q, i, f, o, n, _, _, _, _, _, _, rfl⟩
theorem Records.stops {s t : State} (h : Records s t) : StopsWork s t := h.opens.stops
theorem Sends.stops {s t : State} (h : Sends s t) : StopsWork s t := h.records.stops

theorem askUnits_stops (us : List UnitId) (s : State) : StopsWork s (askUnits us s) := ⟨_, _, _, _, _, _, _, _, _, _, _, _, rfl⟩

theorem stopQueueWork_stops (slice q : Nat) (to' : Owner) (rebase calls : Bool) (s : State) :
    StopsWork s (stopQueueWork slice q to' rebase calls s) := by
  unfold stopQueueWork
  simp only []
  generalize (s.units.filter (fun x => x.slice == slice && holdsQueue x q)).map UnitCtx.unit = us
  refine (askUnits_stops us s).trans ((leaveOpenFaults_opens slice q (askUnits us s)).stops.trans ?_)
  exact ⟨_, _, _, _, _, _, _, _, _, _, _, _, rfl⟩

theorem mapQueue_stops (slice q : Nat) (f : Queue → Queue) (s : State) : StopsWork s (mapQueue slice q f s) :=
  ⟨_, _, _, _, _, _, _, _, _, _, _, _, rfl⟩

theorem reportQueue_sends (slice q : Nat) (s : State) : Sends s (reportQueue slice q s) := by
  unfold reportQueue
  split
  · exact .refl s
  · exact sendD2d_sends _ _ s

theorem closeQueue_stops (slice q st : Nat) (n : Word32) (s : State) : StopsWork s (closeQueue slice q st n s) := by
  unfold closeQueue
  exact (mapQueue_stops slice q _ s).trans ((reportQueue_sends _ _ _).trans (emitD2d_sends _ _ _)).stops

theorem stopQueue_stops (slice q st : Nat) (r : FaultRecord) (s : State) : StopsWork s (stopQueue slice q st r s) := by
  unfold stopQueue
  simp only []
  have work : ∀ r', StopsWork s (stopQueueWork slice q .none true false (writeRecord r' s)) := fun r' =>
    (writeRecord_records r' s).stops.trans (stopQueueWork_stops slice q .none true false _)
  split
  · exact (work _).trans (closeQueue_stops _ _ _ _ _)
  · exact (work _).trans (sendD2d_sends _ _ _).stops

theorem execFault_stops (u : UnitId) (slice eng q d pc c a t : Nat) (s : State) : StopsWork s (execFault u slice eng q d pc c a t s) :=
  StopsWork.trans (t := noteFault slice q (engineId s u eng) pc s) ⟨_, _, _, _, _, _, _, _, _, _, _, _, rfl⟩ (stopQueue_stops _ _ _ _ _)

theorem insnFault_stops (x : UnitCtx) (e : EngInsn) (c a t : Nat) (s : State) : StopsWork s (insnFault x e c a t s) :=
  execFault_stops _ _ _ _ _ _ _ _ _ s

/-! ### Tallies -/

theorem wakeEngineWaits_only (u : UnitId) (s : State) : ∃ p o, wakeEngineWaits u s = { s with ports := p, sent := o } := by
  cases u with
  | cluster c => exact ⟨s.ports, s.sent, rfl⟩
  | port p => exact ⟨_, _, rfl⟩

theorem checkPairs_stops (c : Cause) (u : UnitId) (slice k : Nat) (s : State) : StopsWork s (checkPairs c u slice k s) := by
  unfold checkPairs
  split
  · exact .refl s
  · split
    · exact .refl s
    · exact StopsWork.trans ⟨_, _, _, _, _, _, _, _, _, _, _, _, rfl⟩ (execFault_stops _ _ _ _ _ _ _ _ _ _)

/-- An addition to a tally changes the tallies and the engine ports' waits, and what a stop of a queue can change (R239, R245, R514). -/
theorem addTallyFrom_only (c : Cause) (u : UnitId) (slice k n : Nat) (s : State) :
    ∃ ts ps, StopsWork { s with tallies := ts, ports := ps } (addTallyFrom c u slice k n s) := by
  unfold addTallyFrom
  split
  · exact ⟨_, _, .refl s⟩
  · split
    · exact ⟨_, _, .refl s⟩
    · rename_i j hj hp
      obtain ⟨p, o, h⟩ := wakeEngineWaits_only u (setTallyAt j (bumpTally n (tallyAt s j)) (noteIncrement j n s))
      rw [h]
      exact ⟨_, p, StopsWork.trans ⟨_, _, _, _, _, _, _, _, _, _, _, _, rfl⟩ (checkPairs_stops _ _ _ _ _)⟩

/-- A poisoned tally takes no increment (R253). -/
theorem addTally_poisoned {u : UnitId} {slice k n j : Nat} {s : State} (hk : tallyKey s slice u k = some j)
    (hp : (tallyAt s j).poison = true) : addTally u slice k n s = s := by
  simp [addTally, addTallyFrom, hk, hp]

/-! ### Memory ports -/

theorem issueReq_only (r : MemReq) (s : State) : ∃ p m k, issueReq r s = { s with mp := p, mem := m, memKeys := k } := by
  unfold issueReq
  simp only []
  split
  · exact ⟨_, s.mem, s.memKeys, rfl⟩
  · split
    · obtain ⟨m, k, h⟩ := memWrite_only r.addr r.key r.data { s with mp := { s.mp with out := s.mp.out ++ [r] } }
      exact ⟨_, m, k, h⟩
    · split
      · exact ⟨_, s.mem, s.memKeys, rfl⟩
      · obtain ⟨m, k, h⟩ := memWrite_only _ _ _ _
        exact ⟨_, m, k, h⟩

theorem issueReq_canonical (r : MemReq) (s : State) (h : Canonical s) : Canonical (issueReq r s) := by
  unfold issueReq
  simp only []
  split
  · exact h
  · split
    · exact memWrite_canonical _ _ _ _ h
    · split
      · exact h
      · exact memWrite_canonical _ _ _ _ h

theorem drainList_only (rs : List MemReq) (s : State) : ∃ p m k, drainList rs s = { s with mp := p, mem := m, memKeys := k } := by
  induction rs generalizing s with
  | nil => exact ⟨_, s.mem, s.memKeys, rfl⟩
  | cons r rs ih =>
    unfold drainList
    split
    · exact ⟨_, s.mem, s.memKeys, rfl⟩
    · obtain ⟨p, m, k, h⟩ := issueReq_only _ _
      rw [h]
      obtain ⟨p', m', k', h'⟩ := ih _
      exact ⟨p', m', k', h'⟩

theorem drainList_canonical (rs : List MemReq) (s : State) (h : Canonical s) : Canonical (drainList rs s) := by
  induction rs generalizing s with
  | nil => exact h
  | cons r rs ih =>
    unfold drainList
    split
    · exact h
    · exact ih _ (issueReq_canonical _ _ h)

theorem mpRequest_only (rs : List MemReq) (s : State) : ∃ p m k, mpRequest rs s = { s with mp := p, mem := m, memKeys := k } := by
  unfold mpRequest drainPorts
  obtain ⟨p, m, k, h⟩ := drainList_only _ _
  exact ⟨p, m, k, h⟩

theorem mpRequest_canonical (rs : List MemReq) (s : State) (h : Canonical s) : Canonical (mpRequest rs s) :=
  drainList_canonical _ _ h

/-! ### Packets -/

theorem addPeer_only (slice node : Nat) (s : State) : ∃ sl o, addPeer slice node s = { s with slices := sl, sent := o } := by
  unfold addPeer
  simp only []
  split_ifs
  · exact ⟨_, _, rfl⟩
  · exact ⟨_, s.sent, rfl⟩

theorem sendRequest_only (slice : Nat) (p : Packet) (w : Owner) (a : OnRead) (s : State) :
    ∃ f o n sl, sendRequest slice p w a s = { s with fab := f, sent := o, free := n, slices := sl } := by
  unfold sendRequest
  split
  · obtain ⟨sl, o, h⟩ := addPeer_only slice p.dnode s
    rw [h]
    obtain ⟨f, o', n, h'⟩ := postRequest_sends slice p w a { s with slices := sl, sent := o }
    exact ⟨f, o', n, sl, h'⟩
  · obtain ⟨f, o, n, h⟩ := postRequest_sends slice p w a s
    exact ⟨f, o, n, s.slices, h⟩

theorem foldl_sendRequest_only {β : Type} (slice : Nat) (pk : β → Packet) (w : Owner) (act : β → OnRead) (ps : List β) (s : State) :
    ∃ f o n sl, ps.foldl (fun s p => sendRequest slice (pk p) w (act p) s) s = { s with fab := f, sent := o, free := n, slices := sl } := by
  induction ps generalizing s with
  | nil => exact ⟨s.fab, s.sent, s.free, s.slices, rfl⟩
  | cons p ps ih =>
    rw [List.foldl_cons]
    obtain ⟨f, o, n, sl, h⟩ := sendRequest_only slice (pk p) w (act p) s
    rw [h]
    obtain ⟨f', o', n', sl', h'⟩ := ih { s with fab := f, sent := o, free := n, slices := sl }
    exact ⟨f', o', n', sl', h'⟩

theorem sendRequests_only (slice : Nat) (w : Owner) (ps : List (Packet × OnRead)) (s : State) :
    ∃ f o n sl, sendRequests slice w ps s = { s with fab := f, sent := o, free := n, slices := sl } :=
  foldl_sendRequest_only _ _ _ _ _ _

/-! ### SRAM and translated data -/

theorem sramWrite_only (slice : Nat) (u : UnitId) (a : Nat) (bs : List Byte) (s : State) :
    ∃ us m n, sramWrite slice u a bs s = { s with units := us, sram := m, sramErrs := n } := by
  unfold sramWrite
  split
  · exact ⟨_, _, _, rfl⟩
  · exact ⟨s.units, s.sram, s.sramErrs, rfl⟩

/-- What moving data at physical addresses can change: the memory ports and memory, or the fabric. -/
def MovesData (s t : State) : Prop :=
  (∃ p m k f o n sl, t = { s with mp := p, mem := m, memKeys := k, fab := f, sent := o, free := n, slices := sl }) ∧
  (Canonical s → Canonical t)

theorem MovesData.refl (s : State) : MovesData s s := ⟨⟨_, _, _, _, _, _, _, rfl⟩, id⟩

theorem MovesData.trans {s t u : State} (h : MovesData s t) (g : MovesData t u) : MovesData s u := by
  obtain ⟨⟨p, m, k, f, o, n, sl, rfl⟩, c⟩ := h
  obtain ⟨⟨p', m', k', f', o', n', sl', rfl⟩, c'⟩ := g
  exact ⟨⟨_, _, _, _, _, _, _, rfl⟩, fun x => c' (c x)⟩

theorem mpRequest_moves (rs : List MemReq) (s : State) : MovesData s (mpRequest rs s) := by
  obtain ⟨p, m, k, h⟩ := mpRequest_only rs s
  exact ⟨⟨p, m, k, s.fab, s.sent, s.free, s.slices, h⟩, mpRequest_canonical rs s⟩

theorem foldl_sendRequest_moves {β : Type} (slice : Nat) (pk : β → Packet) (w : Owner) (act : β → OnRead) (ps : List β) (s : State) :
    MovesData s (ps.foldl (fun s p => sendRequest slice (pk p) w (act p) s) s) := by
  obtain ⟨f, o, n, sl, h⟩ := foldl_sendRequest_only slice pk w act ps s
  exact ⟨⟨s.mp, s.mem, s.memKeys, f, o, n, sl, h⟩, fun c => by rw [h]; exact c⟩

theorem sendRequest_moves (slice : Nat) (p : Packet) (w : Owner) (a : OnRead) (s : State) : MovesData s (sendRequest slice p w a s) :=
  foldl_sendRequest_moves slice (fun _ : Unit => p) w (fun _ => a) [()] s

theorem readPiece_moves (slice tc : Nat) (w : Owner) (a : OnRead) (p : Piece) (s : State) : MovesData s (readPiece slice tc w a p s) := by
  unfold readPiece
  split
  · exact mpRequest_moves _ _
  · exact foldl_sendRequest_moves _ _ _ _ _ _

theorem writePiece_moves (slice tc : Nat) (w : Owner) (pa key : Nat) (bs : List Byte) (s : State) :
    MovesData s (writePiece slice tc w pa key bs s) := by
  unfold writePiece
  split
  · exact mpRequest_moves _ _
  · exact foldl_sendRequest_moves slice _ w (fun _ => OnRead.discard) _ s

theorem writePieces_moves (slice tc : Nat) (w : Owner) (ps : List Piece) (bs : List Byte) (s : State) :
    MovesData s (writePieces slice tc w ps bs s) := by
  induction ps generalizing bs s with
  | nil => exact .refl s
  | cons p ps ih => exact (writePiece_moves _ _ _ _ _ _ s).trans (ih _ _)

theorem atomPiece_moves (slice tc : Nat) (w : Owner) (a : OnRead) (pa key width sub fmt v c : Nat) (s : State) :
    MovesData s (atomPiece slice tc w a pa key width sub fmt v c s) := by
  unfold atomPiece
  split
  · exact mpRequest_moves _ _
  · exact sendRequest_moves _ _ _ _ _

theorem reducePiece_moves (slice tc : Nat) (w : Owner) (a : OnRead) (pa key sub fmt : Nat) (bs : List Byte) (s : State) :
    MovesData s (reducePiece slice tc w a pa key sub fmt bs s) := by
  unfold reducePiece
  split
  · exact mpRequest_moves _ _
  · exact sendRequest_moves _ _ _ _ _

end Sys2Proof.Machine
end

