-- ==== Sys2Proof/Laws/Steps.lean ====
section
/-! SUPPORT. How each family of commands reaches its effect: one lemma for a word at a sequencer, an instruction at a queue head, a packet
that arrives, a manager command in progress, a descriptor that may start. -/

namespace Sys2Proof.Machine

theorem isOp_of {op : Nat} {w : InsnWord} (h : opOf w = op) : isOp op w = true := by simp [isOp, h]

/-- A word at a sequencer that the command names is done, once it has been fetched. -/
theorem issueStep_at {sel : InsnWord → Bool} {u : UnitId} {k : UnitCtx → Seq → Slice → InsnWord → State → State} {s : State} {x : UnitCtx}
    {z : Seq} {sl : Slice} {w : InsnWord} (h : AtWord s u x z sl w) (hs : sel w = true) :
    issueStep sel u k s = .next (k x z sl w (fetchStep u sl z s)) := by
  obtain ⟨h1, h2, h3, h4, h5, h6⟩ := h
  simp [issueStep, h1, h2, h3, h4, h5, h6, hs]

/-- An instruction at a queue head that the command names is done, where it need not be its unit's oldest or is. -/
theorem headStep_at {sel : InsnWord → Bool} {u : UnitId} {eng : Nat} {b : Bool} {k : UnitCtx → EngInsn → Slice → State → State} {s : State}
    {x : UnitCtx} {e : EngInsn} {sl : Slice} (h : AtHead s u eng x e sl) (hs : sel e.word = true) (ho : b = true → oldest x e = true) :
    headStep sel eng u b k s = .next (k x e sl (stepFree s)) := by
  obtain ⟨h1, h2, h3, h4, h5, h6, h7⟩ := h
  cases b <;> simp_all [headStep]

theorem goNext_at {x : UnitCtx} {z : Seq} {s : State} (h : z.pc + 1 < z.run.nwords) :
    goNext x z s = putSeq x { z with pc := z.pc + 1 } s := by
  simp [goNext, goTo, h]

/-- R124: an instruction goes to the tail of its engine's queue where that has room. -/
theorem doIssue_room {x : UnitCtx} {z : Seq} {sl : Slice} {w : InsnWord} {s : State}
    (h : ¬16 ≤ (x.insns.filter (fun e => e.eng == engOf w)).length) (hn : z.pc + 1 < z.run.nwords) :
    doIssue x z sl w s = putSeq x { z with pc := z.pc + 1 }
      (mapUnit x.unit x.slice (fun y => { y with insns := y.insns ++ [capture x z w], nextInsn := y.nextInsn + 1 }) s) := by
  unfold doIssue
  rw [if_pos (by unfold queueRoom; simpa using h)]
  simp [goNext, goTo, hn]

/-- R125: with 16 instructions there, nothing is issued. -/
theorem doIssue_full {x : UnitCtx} {z : Seq} {sl : Slice} {w : InsnWord} {s : State}
    (h : 16 ≤ (x.insns.filter (fun e => e.eng == engOf w)).length) : doIssue x z sl w s = s := by
  unfold doIssue
  rw [if_neg (by unfold queueRoom; simpa using h)]

theorem setS_run (i : Nat) (v : Word64) (z : Seq) : (setS i v z).run = z.run := rfl

/-- A packet that passes the header's checks is done, once its sender is noted. -/
theorem acceptType_at {type : Nat} {act : State → State} {s : State} {p : Packet} (h : Arrives s p type) :
    acceptType type p act s = .next (act (notePeer p s)) := by
  obtain ⟨h1, h2, h3⟩ := h
  simp [acceptType, h1, h2, h3]

theorem notePeer_only (p : Packet) (s : State) : ∃ o sl, notePeer p s = { s with sent := o, slices := sl } := by
  unfold notePeer
  split
  · split
    · obtain ⟨sl, o, h⟩ := addPeer_only _ _ _
      exact ⟨o, sl, h⟩
    · exact ⟨s.sent, s.slices, rfl⟩
  · exact ⟨s.sent, s.slices, rfl⟩

/-- A manager command in progress whose turn it is takes its step. -/
theorem cmdStep_at {s : State} {seq : Word32} {op : Nat} {c : CmdReq} {act : CmdReq → State → State} (h : AtCommand s seq op c) :
    cmdStep op seq act s = .next (act c s) := by
  obtain ⟨h1, h2, h3⟩ := h
  simp [cmdStep, h1, h2, h3]

/-- A descriptor that may start belongs to a queue and a slice that are there. -/
theorem startable_found {s : State} {slice q : Nat} {sl : Slice} {x : Queue} {d : Desc} (h : startable s slice q = some (sl, x, d)) :
    findQueue s slice q = some x ∧ findSlice s slice = some sl := by
  unfold startable at h
  split at h
  · rename_i a b ha hb
    split at h
    · split at h
      · split at h
        · cases h; exact ⟨hb, ha⟩
        · cases h
      · cases h
    · cases h
  · cases h

/-- The status that a rejected descriptor takes is one that applies. -/
theorem pickStatus_mem (n b : Nat) (bad : List Nat) : pickStatus n (b :: bad) ∈ b :: bad := by
  unfold pickStatus
  have h : Config.freeNat n % (b :: bad).length < (b :: bad).length := Nat.mod_lt _ (by simp)
  rw [List.getD_eq_getElem _ _ h]
  exact List.getElem_mem _

end Sys2Proof.Machine
end

