-- ==== Sys2Proof/Tests/Slice0.lean ====
section
/-! SUPPORT. Tests: ill-formed commands that `Instr.wellFormed` refuses, small runs of one command whose results the manual gives, and for
every statement with hypotheses a state and operands that meet them, clause by clause. -/

namespace Sys2Proof.Tests

open Sys2Proof.Machine

set_option Elab.async false

/-! ### A small block: the lead, ready, with slice 1 on cluster 0 -/

def host : Requester := { func := 1, pasid := some 2 }
def stranger : Requester := { func := 1, pasid := some 3 }
def manager : Agent := .host host

/-- One page of 2 MiB at address 0, with every right. -/
def page0 : Segment := { vbase := 0, npages := 1, psize := 0, rd := true, wr := true, at' := true, red := true, v := true, key := 0, table := 0x100000 }

/-- Its cached translation. -/
def cached0 : Xlat := { place := .l2, slice := 1, segment := 0, page := 0, frame := 0, rd := true, wr := true, at' := true, red := true, psize := 0, gen := 1 }

def slice1 : Slice := { id := 1, inForce := [page0], staged := [page0] }
def cfg1 : SliceCfg := { id := 1, identity := host, table := 0, tableLog2 := 0 }
def pool1 : Pool := { slice := 1, block := 0, qlimit := 2, epmask := 1, clmask := 1, windows := 4, save := 0, shares := [] }
def queue0 : Queue := { slice := 1, id := 0, owner := 0, ring := 0x1000, ringLog2 := 4 }
def context1 : Context := {
  slice := 1, slot := 0, resident := true, shown := true, pinned := false, wanting := none, lastDispatch := 0, enteredChair := 0
  saving := [], loading := [], saved := none }

def cl0 : UnitId := .cluster 0

/-- The block's state: slice 1 with a queue, a context and cluster 0. -/
def block : State := {
  boot := { blkId := 0, elected := true, leadId := 0, isLead := true, ready := true, phase := 9, admitted := 1 }
  lift := { src := 1 }
  cfg := { active := { slices := [cfg1], pools := [pool1] } }
  slices := [slice1], queues := [queue0], contexts := [context1]
  units := [{ unit := cl0, slice := 1 }], current := [(0, 1)]
  xlat := { cache := [cached0] } }

/-- A state whose memory lists these bytes only, within one line, written under key slot 0. -/
def withBytes (a : Nat) (bs : List Byte) (s : State) : State :=
  { s with mem := ((List.range bs.length).zip bs).map (fun p => (a + p.1, p.2)), memKeys := [(a / 64, 0, 0)] }

/-- A word with an opcode, `ENG`, `SUB`, and its low 104 bits. -/
def word (op eng sub low : Nat) : InsnWord := BitVec.ofNat 128 (op * 2 ^ 120 + eng * 2 ^ 116 + sub * 2 ^ 112 + low)

def run0 : Run := {
  nwords := 8, tallyFirst := 0, tallyCount := 2, incs := [1, 2], statusBase := 0, regInit := 0, paramMin := 0, proxy := false
  id := 0, queue := 0, desc := 0, node := none, prog := 0, param := List.replicate 8 1, paramVa := none, instNo := 0, instances := 1, rt := false
  ready := 0, bases := [0, 0] }

def seq0 : Seq := { run := run0 }

/-- Cluster 0 is about to issue the word `w`. -/
def issuing (z : Seq) (w : InsnWord) : State :=
  withBytes (64 + 16 * z.pc) (leBytes w.toNat 16) { block with units := [{ unit := cl0, slice := 1, seq := some z }] }

theorem atWord {z : Seq} {w : InsnWord} (h1 : readWord (fetchStep cl0 slice1 z (issuing z w)) cl0 slice1 z.run z.pc = .ok w) (h2 : decodes z.run.proxy w = true) :
    AtWord (issuing z w) cl0 { unit := cl0, slice := 1, seq := some z } z slice1 w :=
  ⟨rfl, rfl, rfl, rfl, h1, h2⟩

/-- An instruction in engine `eng`'s queue, with tile operands and scalars. -/
def insn (eng : Nat) (w : InsnWord) (d s1 s2 : TileReg) (ar : Word64 := 0) (sx : Word64 := 0) : EngInsn := {
  id := 0, eng := eng, word := w, pc := 0, run := 0, queue := 0, tD := [d], tS1 := [s1], tS2 := [s2], tS3 := 0, tV := 0, ar := ar, ar2 := 0
  sX := sx, sY := 0 }

def unitWith (e : EngInsn) : UnitCtx := { unit := cl0, slice := 1, seq := some seq0, insns := [e] }

/-- Cluster 0 holds one engine instruction. -/
def holding (e : EngInsn) : State := { block with units := [unitWith e] }

theorem atHead {e : EngInsn} {eng : Nat} (h1 : headInsn (unitWith e) eng = some e) (h2 : e.fault = none) :
    AtHead (holding e) cl0 eng (unitWith e) e slice1 :=
  ⟨rfl, h1, rfl, rfl, rfl, rfl, h2⟩

/-- A tile: base, three extents, pitch 1, format, and whether it is in memory. -/
def tile (base n0 n1 n2 pitch fmt : Nat) (mem : Bool := false) : TileReg :=
  BitVec.ofNat 256 (base + n0 * 2 ^ 64 + n1 * 2 ^ 96 + n2 * 2 ^ 128 + pitch * 2 ^ 160 + fmt * 2 ^ 224 + (if mem then 2 ^ 232 else 0))

/-! ### Ill-formed commands are refused -/

theorem test_wellFormed_refuses :
    ([.doorbellWrite host (2 ^ 22) 8 0, .doorbellWrite host 0 65 0, .doorbellForward 1024 0 ⟨0, 0⟩, .doorbellForward 0 64 ⟨0, 0⟩, .laneInject 48,
      .laneSignalChange 48 true true, .laneCheckerLock 48, .laneCheckerLoss 48, .linkRetrainDone 8 true, .laneStateExitDone 8,
      .fabricTrainingDone 8 true 0 0 true, .fabricTrainingDone 0 true 0 4096 true, .phyCalDone 8 true, .linkKeyUpdate 8,
      .d2dPortStateChange 3 0 true [], .d2dPortStateChange 0 4 true [], .mbxDataWrite manager 16 0 0, .mbxDataWrite manager 0 16 0,
      .mbxSend manager 16, .mbxAck manager 16, .mbxLockClaim manager 16 1, .mbxLockRelease manager 16 1, .resetMailbox 16,
      .interruptEvent 256, .interruptForward 256, .icuPendWrite 8 0, .icuHoldoffExpiry 16, .wakeLatch 256, .memoryReadResponse 4 0 false,
      .memoryReadResponse 0 1024 false, .memoryWriteAck 4 0, .memoryWriteAck 0 1024] : List Instr).all (fun c => !c.wellFormed) = true := by decide

theorem test_wellFormed_refuses_ports :
    ([.engineCallDone 8 0, .engineCallDone 0 16, .engineDmaRequest 8 ⟨false, 0, 1, 0, 0, []⟩, .engineDmaRequest 0 ⟨false, 0, 0, 0, 0, []⟩,
      .engineDmaRequest 0 ⟨false, 0, 257, 0, 0, []⟩, .engineDmaRequest 0 ⟨false, 0, 1, 16, 0, []⟩, .engineDmaRequest 0 ⟨false, 0, 1, 0, 512, []⟩,
      .engineDmaRequest 0 ⟨false, 2 ^ 56, 1, 0, 0, []⟩, .engineDmaRequest 0 ⟨true, 0, 1, 0, 0, []⟩, .engineDmaRequest 0 ⟨false, 0, 1, 0, 0, [1]⟩,
      .engineSignal 8 0 0 1, .engineSignal 0 16 0 1, .engineSignal 0 0 64 1, .engineSignal 0 0 0 65536, .engineWait 8 0 0 0 0,
      .engineWait 0 4 0 0 0, .engineWait 0 0 16 0 0, .engineWait 0 0 0 64 0, .engineWait 0 0 0 0 (2 ^ 48), .engineThrottleAck 8 0,
      .engineThrottleAck 0 16, .throttleAckTimeout 8, .schedWatchdog 4, .schedRestart 4 true, .powerDomainOn 82, .fusePgmDone 64] : List Instr).all
      (fun c => !c.wellFormed) = true := by decide

theorem test_wellFormed_refuses_units :
    ([.descriptorFetch 0 64, .descriptorComplete 0 64 0, .runStart (.cluster 32) 0, .runComplete (.port 8) 0 0, .br (.cluster 32), .slotEnd (.port 8),
      .dmaLd (.cluster 32) .issue, .dmaLd (.cluster 0) (.head 9), .waitgeWake (.cluster 0) 9, .engineInstructionComplete (.cluster 0) 9,
      .arrayInstructionStart (.cluster 0) 0, .arrayInstructionStart (.cluster 0) 5, .arrayWriteback (.cluster 0) 0 0, .arrayWriteback (.cluster 0) 5 0,
      .arrayWriteback (.cluster 0) 1 4, .contextSaveDone 0 (.port 8), .contextLoadDone 0 (.port 8), .stagedSetConfirm 8, .syncAck 0 8,
      .syncDrainDone 0 8, .thermalTrip 8, .translationWalkReturn 0 16 ⟨0, false⟩, .resurfaceZeroDone 0 32, .resetRung (.cluster 0) 9 .notStopped,
      .patrolRun (.cluster 0) 0 0 0, .patrolRun (.cluster 0) 5 0 0, .patrolDiscard (.cluster 0) 0, .coreInterruptTake 256,
      .syncOrder (.cluster 32) 0 0, .syncOrder (.cluster 0) 4096 0, .syncOrder (.cluster 0) 0 65536, .linkFrame 11 ⟨0, [], [], [], [], true⟩] :
      List Instr).all (fun c => !c.wellFormed) = true := by decide

/-- A packet with one field changed. -/
def bad (f : Packet → Packet) : Bool := (Instr.fabricRead (f blankPacket)).wellFormed

theorem test_wellFormed_refuses_packets :
    bad id = true ∧ bad (fun p => { p with type := 256 }) = false ∧ bad (fun p => { p with tc := 16 }) = false ∧ bad (fun p => { p with dnode := 4096 }) = false ∧
    bad (fun p => { p with snode := 4096 }) = false ∧ bad (fun p => { p with stag := 2 ^ 22 }) = false ∧ bad (fun p => { p with win := 1024 }) = false ∧
    bad (fun p => { p with txid := 65536 }) = false ∧ bad (fun p => { p with len := 257 }) = false ∧ bad (fun p => { p with addr := 2 ^ 64 }) = false ∧
    bad (fun p => { p with key := 4096 }) = false ∧ bad (fun p => { p with badSyms := 3 }) = false ∧
    (Instr.gateArrive blankPacket ⟨0, 1024, 0, 1, ⟨0, 0, 0, 0⟩⟩).wellFormed = false ∧ (Instr.gateArrive blankPacket ⟨0, 0, 0, 4097, ⟨0, 0, 0, 0⟩⟩).wellFormed = false ∧
    (Instr.gateRelease blankPacket 1024 0).wellFormed = false ∧ (Instr.gateRelease blankPacket 0 65536).wellFormed = false := by decide

/-! ### Every statement's hypotheses are met: the queue of commands, the front end -/

theorem witness_StepRunsFrontCommand :
    ({ block with pending := [.liftTick] } : State).pending = .liftTick :: [] ∧ State.reset.pending = [] := ⟨rfl, rfl⟩

theorem witness_WellFormedCommandsNeverStop :
    (Instr.laneInject 47).wellFormed = true ∧ exec (.laneInject 48) block = .fault .noSuchPlace := ⟨rfl, rfl⟩

theorem witness_DoorbellIdentityIsChecked :
    block.boot.ready = true ∧ block.boot.isLead = true ∧ sliceCfg block (4096 / 4096) = some cfg1 ∧ cfg1.identity ≠ stranger := by decide

theorem witness_DoorbellStaleValueIsIgnored :
    block.boot.ready = true ∧ block.boot.isLead = true ∧ sliceCfg block 1 = some cfg1 ∧ cfg1.identity = host ∧
    findQueue block 1 0 = some queue0 ∧ queue0.owner = block.boot.blkId ∧ (0 : Word64).toNat ≤ queue0.posted := by decide

/-- A full ring and one beyond it, a stopped queue, a queue of another block, and the last doorbell byte. -/
theorem witness_DoorbellsPostAndStop :
    findQueue block 1 0 = some queue0 ∧ queue0.owner = block.boot.blkId ∧ queueOpen queue0 = true ∧ queue0.quiescing = false ∧
    queue0.posted < (16 : Word64).toNat ∧ (16 : Word64).toNat ≤ queue0.completed + 2 ^ queue0.ringLog2 ∧
    queue0.completed + 2 ^ queue0.ringLog2 < (17 : Word64).toNat ∧
    queueOpen { queue0 with state := .stopped } = false ∧ sliceCfg block 1 = some cfg1 ∧
    ({ queue0 with owner := 3 } : Queue).owner ≠ block.boot.blkId := by decide

/-- Queue 0 with this many posted, and a descriptor of a type in its ring. -/
def posted (type : Byte) : State := withBytes 0x1000 (type :: List.replicate 63 0) { block with queues := [{ queue0 with posted := 1 }] }

theorem witness_DescriptorFetchListsOrRejects :
    (findSlice block 1 = some slice1 ∧ findQueue block 1 0 = some queue0 ∧ sliceCfg block 1 = some cfg1 ∧ queue0.owner = block.boot.blkId ∧
      queueOpen queue0 = true ∧ queue0.quiescing = false ∧ block.recovery.halted = false ∧ stalled block 1 (frontEngine block 1 0) = false ∧ queue0.posted ≤ queue0.fetched) ∧
    (findQueue (posted 0) 1 0 = some { queue0 with posted := 1 } ∧
      readNow (cachePages .l2 slice1 0x1000 64 (stepFree (posted 0))) slice1 .fetch 0x1000 64 = .ok (0 :: List.replicate 63 0) ∧
      checkDesc (cachePages .l2 slice1 0x1000 64 (stepFree (posted 0))) slice1 cfg1 (0 :: List.replicate 63 0) = .ok ([], some .nop)) ∧
    (readNow (cachePages .l2 slice1 0x1000 64 (stepFree (posted 8))) slice1 .fetch 0x1000 64 = .ok (8 :: List.replicate 63 0) ∧
      checkDesc (cachePages .l2 slice1 0x1000 64 (stepFree (posted 8))) slice1 cfg1 (8 :: List.replicate 63 0) = .ok ([1], none)) := by decide

theorem witness_BadTypeIsRejected :
    readNow (cachePages .l2 slice1 0x1000 64 (stepFree (posted 8))) slice1 .fetch (0x1000 + 64 * (0 % 2 ^ 4)) 64 = .ok (8 :: List.replicate 63 0) ∧
    7 < byteField (8 :: List.replicate 63 0) 0 1 ∧ byteField (7 :: List.replicate 63 0) 0 1 = 7 := by decide

theorem witness_StoppingAQueueTouchesNoOther : findQueue block 1 0 = some queue0 ∧ ¬((1 : Nat) = 1 ∧ (1 : Nat) = 0) := by decide

/-! ### Descriptors, graphs and runs -/

def descOf (o : DescOp) (ph : DescPhase) : Desc := { index := 0, tag := 7, ordered := false, op := o, phase := ph, timed := true }

/-- The block with one descriptor in queue 0. -/
def holdingDesc (d : Desc) : State := { block with queues := [{ queue0 with posted := 1, fetched := 1, state := .active, descs := [d] }] }

def queueWith (d : Desc) : Queue := { queue0 with posted := 1, fetched := 1, state := .active, descs := [d] }

def program0 : Program := { nwords := 8, tallyFirst := 0, tallyCount := 2, incs := [1, 2], statusBase := 0, regInit := 0, paramMin := 0, proxy := false }

/-- Each descriptor that the statement names may start. -/
theorem witness_DescriptorsStartInOrder :
    ([.nop, .fence, .launch 0 program0 0 0 256 0] : List DescOp).all (fun o =>
      decide (startable (holdingDesc (descOf o .fetched)) 1 0 = some (slice1, queueWith (descOf o .fetched), descOf o .fetched))) = true := by decide +kernel

theorem witness_DescriptorsMoveData :
    ([.copy 0 64 64, .fill 0 64 8 1, .signal 64 (-1), .wait 64 1] : List DescOp).all (fun o =>
      decide (startable (holdingDesc (descOf o .fetched)) 1 0 = some (slice1, queueWith (descOf o .fetched), descOf o .fetched)) &&
      !stalled (holdingDesc (descOf o .fetched)) 1 (moverEngine (holdingDesc (descOf o .fetched)) 1 0)) = true ∧
    xlatBound (stepFree block) .l2 slice1 true .read 0 64 = .ok [{ va := 0, pa := 0, len := 64, key := 0 }] ∧
    xlatBound (stepFree block) .l2 slice1 true .write (2 ^ 21 - 64) 64 = .ok [{ va := 2 ^ 21 - 64, pa := 2 ^ 21 - 64, len := 64, key := 0 }] ∧
    xlatBound (stepFree block) .l2 slice1 true .atomic 64 8 = .ok [{ va := 64, pa := 64, len := 8, key := 0 }] ∧ slice1.id = 1 ∧
    readNow (withBytes 64 [1, 0, 0, 0, 0, 0, 0, 0] block) slice1 .read 64 8 = .ok [1, 0, 0, 0, 0, 0, 0, 0] ∧
    (1 : Word64).toNat ≤ leNat [1, 0, 0, 0, 0, 0, 0, 0] := by decide +kernel

/-- A standing wait whose word is one short, and one whose word is enough. -/
theorem witness_DescriptorsMoveData_reread :
    let s := withBytes 64 [1, 0, 0, 0, 0, 0, 0, 0] (holdingDesc (descOf (.wait 64 2) .started))
    let x := queueWith (descOf (.wait 64 2) .started)
    findSlice s 1 = some slice1 ∧ findQueue s 1 0 = some x ∧ queueOpen x = true ∧ contextRuns s 1 = true ∧ stalled s 1 (moverEngine s 1 0) = false ∧
    x.descs.find? standingWait = some (descOf (.wait 64 2) .started) ∧ readNow (stepFree s) slice1 .read 64 8 = .ok [1, 0, 0, 0, 0, 0, 0, 0] ∧
    ¬((2 : Word64).toNat ≤ leNat [1, 0, 0, 0, 0, 0, 0, 0]) := by decide +kernel

/-- A finished head with one done descriptor behind it; a head at its timeout, with and without an open gate. -/
theorem witness_DescriptorsEndOrTimeOut :
    let d := descOf (.copy 0 64 64) .started
    let s := holdingDesc d
    (findSlice s 1 = some slice1 ∧ findQueue s 1 0 = some (queueWith d) ∧ queueOpen (queueWith d) = true ∧ (queueWith d).quiescing = false ∧
      mirroring s = false ∧ descFinished s slice1 0 d = true ∧ donePrefix [{ d with index := 1, phase := .done }] = 1) ∧
    (let x := { queueWith d with timer := 1562500 }
     queueOpen x = true ∧ x.descs ≠ [] ∧ x.timeout ≤ x.timer ∧ openGate s 1 0 = none ∧
     openGate (holding { insn 8 (word 0x83 8 0 1) 0 0 0 with started := true }) 1 0 =
       some (unitWith { insn 8 (word 0x83 8 0 1) 0 0 0 with started := true }, { insn 8 (word 0x83 8 0 1) 0 0 0 with started := true })) := by
  decide +kernel

/-- A graph of one node; its first launch and its second; a patched word between others. -/
def node0 : GNode := { prog := 0x2080, program := program0, pfirst := 0, pwords := 1, instances := 256, target := 0 }
def graph0 : Graph := {
  handle := 1, base := 0x2000, len := 208, gen := 0, step := false, nodes := [node0], edges := [], even := [5, 6], odd := [5, 6], next := 0
  lastStart := 0, queues := [0], launches := [] }

theorem witness_PatchesApplyInOrder :
    graph0.next = 0 ∧ (launchGraph 0 0 0 0 false [(0, 9), (0, 8)] graph0).even = [8, 6] ∧
    ({ graph0 with next := 1 } : Graph).next ≠ 0 ∧ (launchGraph 0 0 0 0 false [(1, 7)] { graph0 with next := 1 }).odd = [5, 7] ∧
    0 < ([5, 6] : List Word32).length ∧ (∀ p ∈ [((1 : Nat), (3 : Word32))], p.1 ≠ 0) := by decide +kernel

/-- A graph image: header, node, one word, and its program of one `HALT`, each part summing to 0. -/
def progImage : List Byte :=
  leBytes 0x50535645 4 ++ leBytes 3 2 ++ leBytes 0 2 ++ leBytes 1 4 ++ leBytes 0 48 ++
    leBytes (2 ^ 32 - (0x50535645 + 3 + 1) % 2 ^ 32 - 0x04000000) 4 ++ leBytes (0x04 * 2 ^ 120) 16
def graphImage : List Byte :=
  leBytes 0x47535645 4 ++ leBytes 3 2 ++ leBytes 0 2 ++ leBytes 1 4 ++ leBytes 0 4 ++ leBytes 1 4 ++ leBytes 80 4 ++ leBytes 80 4 ++ leBytes 0 32 ++
    leBytes (2 ^ 32 - (0x47535645 + 3 + 1 + 1 + 80 + 80 + 128 + 1 + 5) % 2 ^ 32) 4 ++
    leBytes 128 4 ++ leBytes 0 4 ++ leBytes 1 2 ++ leBytes 0 6 ++ leBytes 5 4 ++ leBytes 0 44 ++ progImage

def graphState : State := memWrite 0x2000 0 graphImage (holdingDesc (descOf (.launchGraph 1 0x2000 208 0 [(0, 9)]) .fetched))

/-- The image passes its check: what the check finds has this initial word. -/
theorem witness_GraphLaunches_image :
    (match checkGraph (stepFree graphState) slice1 0x2000 208 with
     | .ok (some im) => im.init
     | _ => []) = [5] := by decide +kernel

theorem witness_GraphLaunches :
    (startable graphState 1 0).isSome = true ∧ stepMayStart (stepFree graphState) slice1 = true ∧
    slice1.graphs.find? (fun g => g.handle == 1) = none ∧ slice1.graphs.length < 64 ∧ ({ graph0 with launches := [] } : Graph).launches.length < 2 ∧
    [graph0].find? (fun g => g.handle == 1) = some graph0 ∧ 0 ∈ graph0.queues := by decide +kernel

theorem witness_GraphLaunches_node :
    let l : GLaunch := { number := 0, queue := 0, desc := 0, ordered := false, nodes := [none], stepNo := 1, imageAcked := false, imageSent := false }
    let g := { graph0 with launches := [l] }
    let sl := { slice1 with graphs := [g] }
    let s : State := { block with slices := [sl] }
    findSlice s 1 = some sl ∧ sl.graphs.find? (fun g => g.handle == 1) = some g ∧ g.launches.find? (fun y => y.number == 0) = some l ∧
    g.nodes[0]? = some node0 ∧ findQueue s 1 l.queue = some queue0 ∧ nodeMayStart s g l 0 = true ∧ contextRuns s 1 = true ∧ sl.aborted = false ∧
    queueOpen queue0 = true := by decide +kernel

theorem witness_RunsStartAndComplete :
    let sl := { slice1 with runs := [run0], nextRun := 1 }
    let s : State := { block with slices := [sl] }
    (findUnit s cl0 1 = some { unit := cl0, slice := 1 } ∧ findSlice s 1 = some sl ∧ currentSlice s cl0 = some 1 ∧ contextRuns s 1 = true ∧
      pickRun s 1 (sl.runs.filter (unitTakes s 1 cl0)) = some run0 ∧ run0.rt = false ∧ run0.paramVa = none ∧
      stalled s 1 (cl0, 0, 2 ^ 33 + run0.id) = false ∧ run0.tallyFirst + 256 ≤ tallyCount (stepFree s) 1 cl0) ∧
    (let x : UnitCtx := { unit := cl0, slice := 1, draining := [run0] }
     findUnit { block with units := [x] } cl0 1 = some x ∧ x.draining.find? (fun r => r.id == 0) = some run0 ∧ x.insns = [] ∧ run0.node = none) := by
  decide +kernel

theorem witness_InitialRegisters : run0.instNo < 2 ^ 64 ∧ (256 : Nat) < 2 ^ 64 ∧ (29 : Nat) < 32 := by decide +kernel

/-! ### The sequencer -/

/-- The word at a sequencer's program counter is read and decodes (`atWord`). -/
def goodWord (z : Seq) (w : InsnWord) : Bool :=
  decide (readWord (fetchStep cl0 slice1 z (issuing z w)) cl0 slice1 z.run z.pc = .ok w) && decodes z.run.proxy w

theorem witness_ScalarInstructions :
    ([word 0x10 0 0 (1 * 2 ^ 91 + 2 * 2 ^ 86 + 3 * 2 ^ 81), word 0x10 0 0 (2 ^ 96 + 2 ^ 91 + 0xFFFFFFFF), word 0x13 0 0 (31 * 2 ^ 91 + 5),
        word 0x13 0 1 (2 ^ 86), word 0x13 0 2 (15 * 2 ^ 91), word 0x13 0 3 0, word 0x13 0 4 (2 ^ 81), word 0x13 0 5 (6 * 2 ^ 96),
        word 0x13 0 6 (2 ^ 91 + 2 * 2 ^ 86), word 0x12 0 0 0, word 0x12 0 0 1, word 0x12 0 0 2, word 0x12 0 2 0,
        word 0x12 0 1 (2 ^ 96 + (2 ^ 21 - 8)), word 0x11 0 0 (2 ^ 96 + 63), word 0x11 0 1 (2 ^ 81), word 0x11 0 2 (2 ^ 81)] :
      List InsnWord).all (goodWord seq0) = true ∧ seq0.pc + 1 < seq0.run.nwords ∧ seq0.run.param.length = 8 ∧
    4 * fld 31 0 (word 0x12 0 0 0) + 8 ≤ 8 ∧ 4 * fld 31 0 (word 0x12 0 0 1) % 8 ≠ 0 ∧ 8 < 4 * fld 31 0 (word 0x12 0 0 2) + 8 ∧
    sramSize (stepFree block) 1 cl0 = 2 ^ 21 := by decide +kernel

/-- A register file for the branches: s1 is all ones, the rest 0. -/
def seqR : Seq := { seq0 with s := [(1, -1)] }

/-- Branches to -1 and to 8 fault; to 0 and to 7 go. -/
theorem witness_BranchesAndLoops_br :
    ([word 0x01 0 0 0xFFFFFFFF, word 0x01 0 0 8, word 0x01 0 0 7, word 0x01 0 1 (2 ^ 91 + 7), word 0x01 0 2 7, word 0x01 0 3 (2 ^ 91 + 1),
        word 0x01 0 4 (2 ^ 91 + 1), word 0x01 0 5 (2 ^ 91 + 1), word 0x04 0 0 0] : List InsnWord).all (goodWord seqR) = true ∧
    (seqR.pc : Int) + imm32 (word 0x01 0 0 0xFFFFFFFF) < 0 ∧ (8 : Int) ≤ (seqR.pc : Int) + imm32 (word 0x01 0 0 8) ∧
    (seqR.pc : Int) + imm32 (word 0x01 0 0 7) = 7 := by decide +kernel

/-- A `LOOP` and its `ENDLOOP` in the next word, for a count of 0, a count of 2, and with four loops open; one to itself, one beyond the
program, and one whose target is no `ENDLOOP`. -/
def loopAt (z : Seq) (w : InsnWord) (next : InsnWord) : State :=
  withBytes 64 (leBytes w.toNat 16 ++ leBytes next.toNat 16) { block with units := [{ unit := cl0, slice := 1, seq := some z }] }

theorem witness_BranchesAndLoops_loop :
    (let w := word 0x02 0 0 (1 * 2 ^ 91 + 2 * 2 ^ 86 + 1)
     let e := word 0x03 0 0 0
     let l : LoopEntry := { start := 0, stop := 1, left := 2, index := 2, pass := 0 }
     [({ seq0 with s := [(1, 2)] } : Seq), seq0, { seq0 with loops := [l, l, l, l] }].all (fun z =>
       decide (readWord (fetchStep cl0 slice1 z (loopAt z w e)) cl0 slice1 run0 0 = .ok w) && decide (readWord (fetchStep cl0 slice1 z (loopAt z w e)) cl0 slice1 run0 1 = .ok e)) = true ∧
     readWord (fetchStep cl0 slice1 seq0 (loopAt seq0 w w)) cl0 slice1 run0 1 = .ok w ∧ opOf w ≠ 0x03 ∧ decodes false w = true ∧
     goodWord seq0 (word 0x02 0 0 0) = true ∧ goodWord seq0 (word 0x02 0 0 8) = true ∧ imm32 (word 0x02 0 0 0) ≤ 0) ∧
    (let l : LoopEntry := { start := 0, stop := 3, left := 2, index := 2, pass := 0 }
     [({ seq0 with pc := 3 } : Seq), { seq0 with pc := 3, loops := [l] }, { seq0 with pc := 3, loops := [{ l with left := 1 }] }].all (fun z =>
       goodWord z (word 0x03 0 0 0)) = true) := by decide +kernel

theorem witness_HaltRaisesExpectations : Sparse.sorted ([(1, 5)] : List (Nat × BitVec 48)) = true ∧
    expectOf (haltExpect run0 { unit := cl0, slice := 1, expect := [(1, 5)] }) 1 = 7 ∧
    expectOf (haltExpect run0 { unit := cl0, slice := 1, expect := [(1, 5)] }) 2 = 0 := by decide +kernel

/-! ### Engine queues and tallies -/

def seq1 : Seq := { seq0 with run := { run0 with proxy := true } }

/-- One word per queued opcode of a cluster, and of a proxy. -/
def clusterWords : List InsnWord :=
  [word 0x20 8 0 0, word 0x21 8 0 0, word 0x22 8 0 0, word 0x23 8 0 0, word 0x30 5 0 0, word 0x31 5 0 0, word 0x32 5 0 0, word 0x40 6 0 0,
    word 0x41 6 0 0, word 0x42 6 0 0, word 0x43 6 0 0, word 0x50 1 0 (15 * 2 ^ 76), word 0x51 2 0 (2 ^ 76), word 0x52 3 0 (15 * 2 ^ 76),
    word 0x53 4 0 (2 ^ 76), word 0x60 7 0 0, word 0x61 7 0 0, word 0x70 8 0 0, word 0x71 8 0 0, word 0x72 8 0 0, word 0x73 8 0 0,
    word 0x74 8 0 (2 ^ 32), word 0x83 8 0 1, word 0x80 8 0 (2 ^ 32), word 0x81 8 0 0, word 0x82 8 0 1, word 0x82 8 1 0]

/-- A proxy that is about to issue the word `w`. -/
def issuingP (w : InsnWord) : State :=
  withBytes 64 (leBytes w.toNat 16) { block with
    units := [{ unit := .port 0, slice := 1, seq := some seq1 }], current := [(0, 1), (32, 1)] }

def fullUnit : UnitCtx :=
  { unit := cl0, slice := 1, seq := some seq0, insns := List.replicate 16 (insn 8 (word 0x20 8 0 0) 0 0 0) }

theorem witness_EngineInstructionsQueue :
    clusterWords.all (goodWord seq0) = true ∧ seq0.pc + 1 < seq0.run.nwords ∧
    (queuedCommands cl0).all (fun p => p.2 == 0x90 || clusterWords.any (fun w => opOf w == p.2)) = true ∧
    clusterWords.all (fun w => (queuedCommands cl0).any (fun p => p.2 == opOf w) || (tallyCommands cl0 w).any Prod.snd) = true ∧
    (let w := word 0x90 1 0 0
     currentUnit (issuingP w) (.port 0) = some { unit := .port 0, slice := 1, seq := some seq1 } ∧
     canIssue (issuingP w) { unit := .port 0, slice := 1, seq := some seq1 } seq1 slice1 = true ∧
     readWord (fetchStep (.port 0) slice1 seq1 (issuingP w)) (.port 0) slice1 seq1.run 0 = .ok w ∧ decodes true w = true) ∧
    16 ≤ (fullUnit.insns.filter (fun e => e.eng == 8)).length := by decide +kernel

/-- The instruction at the head of its engine's queue on cluster 0, behind no other (`atHead`). -/
def goodHead (e : EngInsn) : Bool :=
  decide (headInsn (unitWith e) e.eng = some e) && decide (e.fault = none) && oldest (unitWith e) e

/-- Cluster 0 with one engine instruction and these tallies. -/
def holdingT (ts : List (Nat × Tally)) (e : EngInsn) : State := { holding e with tallies := ts }

theorem atHeadT {ts : List (Nat × Tally)} {e : EngInsn} {eng : Nat} (h1 : headInsn (unitWith e) eng = some e) (h2 : e.fault = none) :
    AtHead (holdingT ts e) cl0 eng (unitWith e) e slice1 :=
  ⟨rfl, h1, rfl, rfl, rfl, rfl, h2⟩

/-- Tally 1 is the last of the run's range; its value meets a threshold of 5 exactly. A pair that stands, one that does not, and a
declaration that pairs a tally with itself. -/
theorem witness_TallyInstructions :
    let five : List (Nat × Tally) := [(1, { value := 5 })]
    let wait (n : Nat) := insn 8 (word 0x81 8 0 (2 ^ 48 + n)) 0 0 0
    let declare := insn 8 (word 0x82 8 0 (2 ^ 56 + 4)) 0 0 0
    let self := insn 8 (word 0x82 8 0 (2 ^ 56 + 2 ^ 48 + 4)) 0 0 0
    let dissolve := insn 8 (word 0x82 8 1 (2 ^ 56)) 0 0 0
    let stands : UnitCtx := { unitWith dissolve with
      pairs := [{ producer := 0, consumer := 1, capacity := 4, originP := 0, originC := 0, run := 0, queue := 0, desc := 0, raised := false }] }
    ([insn 8 (word 0x80 8 0 (2 ^ 48 + 2 ^ 32)) 0 0 0, wait 5, wait 6, { wait 5 with started := true }, declare, self, dissolve].all (fun e =>
      goodHead e && decide (insnRun (unitWith e) e = some run0) && tallyOk (stepFree (holdingT five e)) (unitWith e) run0 1 &&
        tallyOk (stepFree (holdingT five e)) (unitWith e) run0 0)) = true ∧
    (tally (stepFree (holdingT five (wait 5))) 1 cl0 1).value.toNat = 5 ∧
    pairInvalid (stepFree (holdingT five declare)) (unitWith declare) declare.word = false ∧
    pairInvalid (stepFree (holdingT five self)) (unitWith self) self.word = true ∧
    pairStands (unitWith dissolve) dissolve.word = false ∧ pairStands stands dissolve.word = true ∧ headInsn stands 8 = some dissolve := by
  decide +kernel

/-- A saturated tally, a poisoned one, and one that is both, at a queue head (waiting or not) and on the sequencer. -/
theorem witness_WaitOnSaturatedFaults :
    let e := insn 8 (word 0x81 8 0 (2 ^ 48)) 0 0 0
    let w := word 0x81 0 0 (2 ^ 48)
    ([({ sat := true } : Tally), { poison := true }, { sat := true, poison := true }].all (fun t =>
      goodHead e && goodHead { e with started := true } && decide (insnRun (unitWith e) e = some run0) &&
        decide (tally (stepFree (holdingT [(1, t)] e)) 1 cl0 1 = t) && tallyOk (stepFree (holdingT [(1, t)] e)) (unitWith e) run0 1 &&
        decide (tally (fetchStep cl0 slice1 seq0 { issuing seq0 w with tallies := [(1, t)] }) 1 cl0 1 = t) &&
        decide (readWord (fetchStep cl0 slice1 seq0 { issuing seq0 w with tallies := [(1, t)] }) cl0 slice1 run0 0 = .ok w))) = true ∧
    decodes false w = true ∧ engOf w = 0 := by decide +kernel

theorem witness_IncrementsSaturate :
    tallyKey block 1 cl0 255 = some 255 ∧ Sparse.sorted ([(255, { value := -1 })] : List (Nat × Tally)) = true ∧
    tallyAt { block with tallies := [(255, { poison := true })] } 255 = { poison := true } ∧
    findUnit block cl0 1 = some { unit := cl0, slice := 1 } := by decide +kernel

/-- A gate at its own node and one at another; arrivals of another tag, generation and count, a second one, and one that is accepted. -/
theorem witness_StartGates :
    (let e := insn 8 (word 0x83 8 0 (2 ^ 48 + 1)) 0 0 0
     let far := insn 8 (word 0x83 8 0 (5 * 2 ^ 64 + 1)) 0 0 0
     goodHead e = true ∧ goodHead far = true ∧ insnTallyOk (stepFree (holding e)) (unitWith e) e 0 = true ∧
     insnTallyOk (stepFree (holding far)) (unitWith far) far 0 = true ∧
     fld 75 64 e.word = ownNode (holding e) ∧ fld 75 64 far.word ≠ ownNode (holding far) ∧
     (arriveAt (gateArrival (stepFree (holding e)) (unitWith e) e.word) (gateAt (holding e) 1)).toOption.isSome = true ∧
     (let s := { holding e with gates := [(1, { tag := 3, free := false })] }
      arriveAt (gateArrival (stepFree s) (unitWith e) e.word) (gateAt s 1) = .error 0x20A)) ∧
    (let who : Participant := { node := 0, cluster := 0, slot := 0, tally := 0 }
     let a : Arrival := { tag := 1, gate := 0, gen := 2, expected := 2, who := who }
     let g : Gate := { tag := 1, free := false, gen := 2, expected := 2, count := 1, list := [{ who with tally := 1 }] }
     [arriveAt a { g with tag := 2 }, arriveAt a { g with gen := 1 }, arriveAt a { g with expected := 3 }, arriveAt a { g with list := [who] }] =
       [.error 0x20A, .error 0x20B, .error 0x20C, .error 0x20D] ∧
     arriveAt a g = .ok { g with count := 2, list := [{ who with tally := 1 }, who] } ∧ g.takeNext = false ∧
     Sparse.sorted ([(0, g)] : List (Nat × Gate)) = true) := by decide +kernel

/-! ### Engine instructions -/

/-- Each DMA instruction with an empty source; with places inside the partition up to its last byte; and with places beyond it. -/
theorem witness_DmaInstructionsMove :
    let none' := tile 0 0 1 1 0 0 true
    let mem := tile 4096 8 2 1 8 0 true
    let fits := tile (2 ^ 21 - 16) 8 2 1 8 0
    let out := tile (2 ^ 21 - 8) 8 2 1 8 0
    let ld (d s : TileReg) := insn 8 (word 0x20 8 0 0) d s 0
    let st (d s : TileReg) := insn 8 (word 0x21 8 0 0) d s 0
    let bc (m : Nat) (d s : TileReg) := insn 8 (word 0x23 8 0 m) d s 0
    let sound (e : EngInsn) (n : Nat) (v : UnitId) (t : TileReg) :=
      sramOk (stepFree (holding e)) (unitWith e) v (sramBase t) (walkOf (s1T e) t) n
    [ld fits none', st mem none', insn 8 (word 0x22 8 0 0) mem none' 0, bc 1 fits none', ld fits mem, ld out mem, st mem fits, st mem out,
      insn 8 (word 0x22 8 0 0) mem mem 0, bc 1 fits mem, bc 2 fits mem, bc 1 fits fits].all goodHead = true ∧
    tEmpty none' = true ∧ tEmpty mem = false ∧ tEmpty fits = false ∧
    sound (ld fits mem) 8 cl0 fits = true ∧ sound (ld out mem) 8 cl0 out = false ∧
    sound (st mem fits) 8 cl0 fits = true ∧ sound (st mem out) 8 cl0 out = false ∧ sound (bc 1 fits fits) 8 cl0 fits = true ∧
    (maskUnits 1).all (holdsCluster (stepFree (holding (bc 1 fits mem))) 1) = true ∧
    (maskUnits 2).all (holdsCluster (stepFree (holding (bc 2 fits mem))) 1) = false ∧ tMem mem = true ∧ tMem fits = false := by decide +kernel

/-- Rows of 32 bytes go and rows of 31 do not; rows that may be added and rows that may not; the filter cleared and walked. -/
theorem witness_GatherScatterWalk :
    let idx := tile 0 4 2 1 4 0
    let row (n fmt : Nat) := tile 4096 n 2 1 32 fmt
    let g (n : Nat) (sub : Nat) := insn 5 (word 0x30 5 sub 0) (row n 0) (row n 0) idx
    let sc (f fmt : Nat) := insn 5 (word 0x31 5 0 (f * 2 ^ 96)) (row 32 fmt) (row 32 fmt) idx
    let wk (sub : Nat) := insn 5 (word 0x32 5 sub 0) (tile 8192 4 2 1 4 0) (row 32 0) idx
    let fits (e : EngInsn) (t : TileReg) (n k : Nat) :=
      sramOk (stepFree (holding e)) (unitWith e) cl0 (sramBase t) ((List.range k).map (fun j => j * tPitch1 t)) n
    [g 32 0, g 32 1, g 31 0, sc 0 0, sc 1 8, sc 1 0, wk 0, wk 1].all goodHead = true ∧ (sc 1 8).issued = false ∧
    rowSizeOk 32 32 = true ∧ rowSizeOk 31 32 = false ∧ rowSizeOk 4096 4096 = true ∧ rowSizeOk 4128 4128 = false ∧
    tEmpty (row 32 0) = false ∧ tEmpty idx = false ∧ indexOk (stepFree (holding (g 32 0))) (unitWith (g 32 0)) idx = true ∧
    fits (g 32 0) (row 32 0) 32 2 = true ∧ scatterAdd 0 = none ∧ scatterAdd 8 ≠ none ∧ fits (sc 0 0) (row 32 0) 32 2 = true ∧
    statusOk (stepFree (holding (wk 0))) (unitWith (wk 0)) (wk 0) = true ∧ fits (wk 0) idx 4 2 = true ∧
    fits (wk 0) (tile 8192 4 2 1 4 0) 4 2 = true := by decide +kernel

theorem witness_WalkFilterSuppressesVisited :
    Sparse.sorted ([] : List (Nat × Bool)) = true ∧ (probeRow 2 [7, 0xFFFFFFFF, 7, 9, 11] []).1 = [7, 9] := by decide +kernel

/-- `PUT`, `GET`, `ATOM` and `REDUCE` with and without `WIN`; addresses aligned and off by one; a reduction of 256 bytes and one of 255. -/
theorem witness_FabricInstructions :
    let mem (n : Nat) := tile 4096 n 1 1 0 8 true
    let here (n : Nat) := tile 0 n 1 1 0 8
    let put (f : Nat) := insn 8 (word 0x70 8 0 (f * 2 ^ 96)) (mem 8) (here 8) 0
    let get (f : Nat) := insn 8 (word 0x71 8 0 (f * 2 ^ 96)) (here 8) (mem 8) 0
    let atom (f : Nat) (ar : Word64) := insn 8 (word 0x72 8 0 (f * 2 ^ 96)) (here 8) (mem 8) 0 ar
    let red (f n : Nat) (ar : Word64) := insn 8 (word 0x73 8 1 (f * 2 ^ 96)) (mem n) (here n) 0 ar
    let fits (e : EngInsn) (n : Nat) := sramOk (stepFree (holding e)) (unitWith e) cl0 0 [0] n
    [put 0, put 1, get 0, get 1, atom 0 0, atom 0 1, atom 4 0, red 0 256 0, red 1 256 0, red 0 255 0, red 0 256 1,
      insn 8 (word 0x74 8 0 (2 ^ 32)) 0 0 0].all goodHead = true ∧
    tEmpty (here 8) = false ∧ tEmpty (mem 8) = false ∧ fits (put 0) 8 = true ∧ fits (get 0) 8 = true ∧ fits (red 0 256 0) 256 = true ∧
    sramFits (stepFree (holding (atom 0 0))) 1 cl0 0 8 = true ∧ memBase (mem 8) 0 % 4 = 0 ∧ memBase (mem 8) 1 % 4 ≠ 0 ∧ winBase (mem 8) 0 % 4 = 0 ∧
    reduceFmt 1 8 = some 4 ∧ walkOf (here 256) (mem 256) = [0] ∧ memBase (mem 256) 0 % 256 = 0 ∧ memBase (mem 256) 1 % 256 ≠ 0 ∧
    tLen0 (here 256) % 256 = 0 ∧ tLen0 (here 255) % 256 ≠ 0 := by decide +kernel

/-- Lists of the keys 1 and 2, and of 2 and 1: in order and not; outputs beside the inputs and on them. -/
theorem witness_SetInstructions :
    let sr : List (Nat × Byte) := [(0, 1), (4, 2), (8, 2), (12, 1)]
    let up := tile 0 4 2 1 4 0
    let down := tile 8 4 2 1 4 0
    let out := tile 64 4 4 1 4 0
    let sort (d : TileReg) := insn 6 (word 0x40 6 0 0) d down 0
    let list (op : Nat) (b : TileReg) := insn 6 (word op 6 0 0) out up b
    let st (e : EngInsn) : State := stepFree { holding e with sram := sr }
    [sort out, sort down, list 0x41 up, list 0x42 up, list 0x43 up, list 0x41 down, list 0x42 down, list 0x43 down].all (fun e =>
      goodHead e && statusOk (st e) (unitWith e) e && !tEmpty (s1T e)) = true ∧
    (listAddrs up ++ listAddrs down ++ itemAddrs down down ++ itemAddrs down out).all (fun a => sramFits (st (sort out)) 1 cl0 a 4) = true ∧
    itemsMeet (itemAddrs down down) (itemAddrs down down) = true ∧ itemsMeet (itemAddrs down down) (itemAddrs down out) = false ∧
    keysAt (st (sort out)) (unitWith (sort out)) (itemAddrs down down) = [2, 1] ∧
    [ListOp.merge, .isect, .union].all (fun op =>
      let good := listRun op 5 4 (0, none, [1, 2]) (0, none, [1, 2])
      let bad := listRun op 5 4 (0, none, [1, 2]) (0, none, [2, 1])
      good.bad.isNone && bad.bad.isSome && writesFit (st (list 0x41 up)) (unitWith (list 0x41 up)) (listWrites op (list 0x41 up) good.keys) &&
        writesFit (st (list 0x41 up)) (unitWith (list 0x41 up)) (listWrites op (list 0x41 up) bad.keys)) = true := by decide +kernel

theorem witness_MergeEmitsEveryKeyInOrder :
    (([1, 2] : List Nat).Pairwise (· ≤ ·)) ∧ (listRun .merge 4 4 (0, none, [1, 2]) (0, none, [2])).keys.map Prod.fst = [1, 2, 2] := by decide +kernel

/-- One item of one element and of three bytes; FP32 and another format; a per-row operation; an output that fits and one that does not. -/
theorem witness_VectorInstructions :
    let t (n fmt : Nat) := tile 0 n 1 1 0 fmt
    let vop (v n fmt : Nat) := insn 7 (word 0x60 7 0 (v * 2 ^ 72)) (t n fmt) (t n fmt) (t n fmt)
    let vred (d : TileReg) := insn 7 (word 0x61 7 0 0) d (t 4 8) 0
    let far := tile (2 ^ 21 - 2) 4 1 1 0 8
    let st (e : EngInsn) : State := stepFree (holding e)
    [vop 0 4 8, vop 0 4 9, vop 0 3 8, vop 0x22 4 8, vred (t 4 8), vred far].all (fun e => goodHead e && statusOk (st e) (unitWith e) e) = true ∧
    tFmt (t 4 9) ≠ 8 ∧ tFmt (t 4 8) = 8 ∧ tEmpty (t 4 8) = false ∧
    (s1T (vop 0 4 8) :: dT (vop 0 4 8) :: vOthers (vop 0 4 8) 0).all (fun t => walkFits (st (vop 0 4 8)) (unitWith (vop 0 4 8)) (s1T (vop 0 4 8)) t 4) = true ∧
    vKind 0x22 = .perRow ∧ sramFits (st (vop 0x22 4 8)) 1 cl0 0 4 = true ∧
    writesFit (st (vred (t 4 8))) (unitWith (vred (t 4 8))) (vredWrites (vred (t 4 8)) [[0]]) = true ∧
    writesFit (st (vred far)) (unitWith (vred far)) (vredWrites (vred far) [[0]]) = false := by decide +kernel

/-- A carved instruction on quadrant 0 that passes its checks: with the quadrant free, busy, and holding another anchor. -/
theorem witness_ArrayInstructions :
    let t := tile 0 64 8 1 64 8
    let e := insn 1 (word 0x51 1 0 (2 ^ 76)) t (tile 0 64 8 1 64 6) (tile 0 64 8 1 64 6)
    let held : Held := { whole := false, exact := true, anchor := 0, elems := [] }
    let busy : UnitCtx := { unitWith { e with started := true } with quads := [(4, { busy := some 0 })] }
    let waits : UnitCtx := { unitWith e with quads := [(4, { busy := some 9 })] }
    let holds : UnitCtx := { unitWith e with quads := [(4, { held := some held })] }
    goodHead e = true ∧ isArray e.word = true ∧ arrQuads e = [0] ∧ (quadAt busy 1 0).busy = some 0 ∧
    busy.insns.find? (fun e => e.id == 0) = some { e with started := true } ∧ headInsn waits 1 = some e ∧ (quadAt waits 1 0).busy ≠ none ∧
    headInsn holds 1 = some e ∧ mismatched (unitWith e) e = [] ∧
    mismatched holds e = [(0, held)] ∧ arrayCheck (stepFree (holding e)) (unitWith e) e = none := by decide +kernel

/-- A proxy with an `EPCALL` at its head and 15 calls out; an instruction issued whole, with a request out and without. -/
theorem witness_CallsAndCompletions :
    (let e := insn 1 (word 0x90 1 0 0) 0 0 0
     let x : UnitCtx := { unit := .port 0, slice := 1, seq := some seq1, insns := [e] }
     let p : EnginePort := { calls := (List.range 15).map (fun i => { id := i, slice := 1, insn := 9, done := false }) }
     let s : State := { block with units := [x], current := [(0, 1), (32, 1)], ports := [(0, p)] }
     currentUnit s (.port 0) = some x ∧ headInsn x 1 = some e ∧ findSlice s x.slice = some slice1 ∧ contextRuns s x.slice = true ∧
     x.stopping = false ∧ stalled s x.slice (insnEngine x e) = false ∧ e.fault = none ∧ (enginePort s 0).calls.length < 16 ∧
     (enginePort s 0).calls.all (fun c => c.id != 15) = true) ∧
    (let e := { insn 8 (word 0x70 8 0 0) 0 0 0 with started := true, issued := true }
     let r : MemReq := { port := 0, tag := 0, addr := 0, len := 8, key := 0, write := true, data := [], owner := .insn cl0 1 0, onRead := .discard }
     currentUnit (holding e) cl0 = some (unitWith e) ∧ finishing (unitWith e) 8 = some e ∧
     outstanding (holding e) (.insn cl0 1 e.id) = false ∧ outstanding { holding e with mp := { out := [r] } } (.insn cl0 1 e.id) = true) := by
  decide +kernel

/-! ### The lift clock and chairs -/

def groupUp : Group := { up := true, lanes := 0x3F }

/-- The count, at a given tick of its chair; the count of a chair's last tick. -/
def atTick (t : Nat) : State := { block with lift := { src := 1, count := BitVec.ofNat 64 t } }

theorem witness_LiftClockCounts :
    let up : State := { atTick 100 with fab := { groups := [(0, groupUp)] } }
    up.boot.isLead = true ∧ groupCarries up 0 = true ∧ up.lift.src = 1 ∧ groupCarries { up with lift := {} } 0 = true ∧
    anyGroupUp { block with lift := {} } = false ∧ groupCarries block 0 = false ∧
    ((1125 : Word64) - up.lift.count).toInt.natAbs = 1025 ∧ ((1124 : Word64) - up.lift.count).toInt.natAbs = 1024 ∧
    findQueue block 1 0 = some queue0 ∧ tickOf (tickOnce (atTick (2 ^ 64 - 1))) = 0 ∧ up.lift.holdover = false := by decide +kernel

def commit0 : Commit := { seq := 9, chair := 0, next := { serial := 1, slices := [cfg1] }, confirms := [], go := none }

/-- At ticks 16,127, 16,128, 16,351 and 16,352 of a chair, with a commit that every block has confirmed and one that not all have. -/
theorem witness_RelayZoneEvents :
    tickOf (atTick 16127) = 16127 ∧ (atTick 16127).lift.planDone = false ∧ (atTick 16127).power.deep = false ∧ 16128 ≤ tickOf (atTick 16128) ∧
    (let s := { atTick 16351 with cfg := { commit := some { commit0 with confirms := [0] } } }
     s.cfg.commit = some { commit0 with confirms := [0] } ∧ 1 ∉ [0] ∧ tickOf s < 16352 ∧ commit0.chair = chairOf s) ∧
    (let s := { atTick 16352 with cfg := { commit := some { commit0 with confirms := [0] } } }
     16352 ≤ tickOf s ∧ s.lift.goDone = false ∧ (∀ b ∈ partBlocks s, b ∈ [0]) ∧ partBlocks { s with boot := { s.boot with admitted := 3 } } = [0, 1]) := by
  decide +kernel

theorem witness_ChairBoundarySwapsOnce :
    let s := { atTick 16384 with lift := { (atTick 16384).lift with chairDone := false }, cfg := { commit := some { commit0 with go := some true } } }
    s.cfg.commit = some { commit0 with go := some true } ∧ s.lift.chairDone = false ∧
    (∀ k, (atTick 16384).cfg.commit = some k → k.go ≠ some true) := by decide +kernel

/-- A slot that has ended and one that has not; a save, a load and a resurfacing that may end. -/
theorem witness_SlotsSavesAndLoads :
    (unitOk cl0 = true ∧ lastSlot (atTick 256) cl0 < now (atTick 256) / 256 ∧ lastSlot (atTick 255) cl0 = now (atTick 255) / 256 ∧
      holdsCall (atTick 256) cl0 = false) ∧
    (let s : State := { block with contexts := [{ context1 with saving := [cl0] }] }
     findContext s 1 = some { context1 with saving := [cl0] } ∧ findUnit s cl0 1 = some { unit := cl0, slice := 1 } ∧ unitBusy s 1 cl0 = false) ∧
    (let c := { context1 with loading := [cl0], saved := some { tallies := [], sram := [] } }
     let s : State := { block with contexts := [c] }
     findContext s 1 = some c ∧ cl0 ∈ c.loading ∧ c.resident = true ∧ (∀ k ∈ s.contexts, cl0 ∉ k.saving ∧ (k.slice = 1 → k = c))) ∧
    (let r : Resurf := { chair := 0, clusters := [0], zeroed := [], ports := [], seq := none, destroy := false }
     let s : State := { atTick 33 with slices := [{ slice1 with resurf := some r }] }
     findSlice s 1 = some { slice1 with resurf := some r } ∧ r.chair = chairOf s ∧ 33 ≤ tickOf s) := by decide +kernel

/-! ### The fabric -/

def packet0 : Packet := { blankPacket with snode := 5, stag := 1 }
def writePacket : Packet := { packet0 with type := 2, addr := 2 ^ 35 - 8, len := 8, payload := [1, 2, 3, 4, 5, 6, 7, 8] }
def atomPacket : Packet := { packet0 with type := 3, addr := 0, len := 16, payload := List.replicate 16 1 }
def window0 : Window := {
  block := 0, id := 0, tbase := 0, length := 4096, owner := 1, v := true, rd := true, wr := false, at' := false, red := false, allow := 1, amask := 1 }
def withWindow : State := { block with cfg := { active := { slices := [cfg1], pools := [pool1], windows := [window0] } } }
def winPacket0 (addr : Nat) : Packet := { packet0 with type := 1, tc := 2, winv := true, len := 8, addr := addr }

/-- Every type of access; the last bytes of memory and the first beyond it; a window's last bytes and the first beyond it. -/
theorem witness_FabricAccessesAreServed :
    ([(1, { packet0 with type := 1, len := 256 }), (2, writePacket), (3, atomPacket),
        (4, { packet0 with type := 4, sub := 1, fmt := 4, len := 4, payload := [0, 0, 0, 0] })] : List (Nat × Packet)).all (fun p =>
      serves block && decide (p.2.type = p.1) && decide (headerCause block p.2 = none)) = true ∧
    serves { block with twin := { fenced := true } } = false ∧ headerCause block { writePacket with dnode := 7 } = some 0x701 ∧
    headerCause block { writePacket with tc := 3 } = some 0x702 ∧ headerCause block { writePacket with len := 7 } = some 0x703 ∧
    nodeBytes block = 2 ^ 35 ∧ paLocal writePacket.addr + accessLen writePacket = nodeBytes block ∧
    nodeBytes block < paLocal (2 ^ 35) + 8 ∧ writePacket.badSyms < 2 ∧ writePacket.epoch = 0 ∧ block.mp = {} ∧
    headerCause withWindow (winPacket0 4088) = none ∧ windowCheck withWindow (winPacket0 4088) = .ok (slice1, 4088) ∧
    windowCheck withWindow (winPacket0 4092) = .error 0x10A ∧ windowCheck block (winPacket0 0) = .error 0x107 ∧
    (xlatBound (stepFree withWindow) .l2 slice1 true .read 4088 8).toOption.isSome = true ∧
    (match xlatBound (stepFree withWindow) .l2 slice1 true .read (2 ^ 21) 8 with | .error _ => true | .ok _ => false) = true := by decide +kernel

/-- A signal to tally `i` of cluster 0. -/
def sigTo (i need epoch : Nat) : Packet := { packet0 with type := 5, len := 16, epoch := epoch, payload := sigPayload false 0 i 1 need }
def arrival0 : Arrival := { tag := 1, gate := 0, gen := 0, expected := 2, who := { node := 0, cluster := 0, slot := 0, tally := 0 } }
def gatePacket : Packet := { packet0 with type := 6, len := 16, payload := List.replicate 16 0 }
def held0 : HeldSignal := { unit := cl0, slice := 1, source := 5, epoch := 2, need := 1, tally := 0, amount := 1, since := 0, request := sigTo 0 1 2 }

/-- Signals to the last tally and beyond it, fenced and not; gates that accept and that refuse; a held signal before its time and at it. -/
theorem witness_FabricSignalsAndGates :
    ([sigTo 255 0 0, sigTo 255 1 0, sigTo 255 1 2].all (fun p =>
      decide (headerCause block p = none) && decide (sigTarget (notePeer p block) p = some (1, cl0, 255)))) = true ∧
    sigTarget (notePeer (sigTo 0 0 0) block) { sigTo 0 0 0 with stag := 2 } = none ∧ byteField (sigTo 255 1 2).payload 8 3 = 1 ∧
    hasCounter { block with counters := [{ source := 5, epoch := 2, landed := 0, tag := 1 }] } (sigTo 255 1 2) = true ∧
    headerCause block gatePacket = none ∧ knownAssumed block 5 = false ∧ gatePlace block 0 0 = 0 ∧
    (arriveAt arrival0 (gateAt block 0)).toOption.isSome = true ∧
    arriveAt arrival0 (gateAt { block with gates := [(0, { tag := 3, free := false })] } 0) = .error 0x20A ∧
    headerCause block { gatePacket with type := 7 } = none ∧ tagSlice block 0 1 = some 1 ∧ tagSlice block 0 2 = none ∧
    (let s (t : Nat) : State := { atTick t with held := [held0] }
     (s 0).held.find? (fun h => decide (h.unit = cl0) && h.source == 5 && h.epoch == 2) = some held0 ∧
     now (s 1562499) < held0.since + heldTimeout (s 0) held0 ∧ held0.since + heldTimeout (s 0) held0 ≤ now (s 1562500)) := by decide +kernel

def stepPacket (k : Nat) : Packet := { packet0 with type := 0x0B, tc := 4, len := 16, payload := leBytes k 16 }
def mgmtPacket (n : Nat) : Packet := { packet0 with type := 0x0A, tc := 4, snode := n }
def txn0 : Txn := { txid := 3, packet := packet0, owner := .none, onRead := .discard, sent := true, retries := 0, dataErrors := 0, due := some 4, slice := 1 }

/-- Abort and restart notices; management traffic from the part and not; the tether from the twin and not; `RETRY` and `OK`. -/
theorem witness_NoticesAndAnswers :
    headerCause block (stepPacket 0) = none ∧ headerCause block (stepPacket 1) = none ∧ byteField (stepPacket 1).payload 0 1 = 1 ∧
    (let s : State := { block with boot := { block.boot with admitted := 3, nodeIds := [(1, 8)] } }
     headerCause s (mgmtPacket 8) = none ∧ fromPart s (mgmtPacket 8) = true ∧ fromPart s (mgmtPacket 9) = false) ∧
    (let s : State := { block with twin := { state := .tight, node := some 5 } }
     let p := { packet0 with type := 9, tc := 3 }
     headerCause s p = none ∧ tetherSource s p = true ∧ tetherSource s { p with snode := 6 } = false) ∧
    (let s (t : Nat) : State := { atTick t with fab := { txns := [txn0] } }
     findTxn (s 0) 3 = some txn0 ∧ ({ packet0 with status := 1, txid := 3 } : Packet).status = 1 ∧
     (s 0).fab.txns.find? (fun t => t.txid == 3) = some txn0 ∧ txn0.due = some 4 ∧ now (s 3) < 4 ∧ 4 ≤ now (s 4)) := by decide +kernel

/-! ### Links and translation -/

/-- A frame with a header, no payload, and the header's CRC (R312, R314). -/
def frame0 (tag : Word64) : Frame :=
  let h : List Byte := leBytes 1 28
  { tag := tag, header := h ++ leBytes (crc32 h).toNat 4, payload := [], check := [], codewords := [15, 3], tagOk := false }

/-- Frames on a group that is up, in order and out of order, broken, and encrypted; a group that retrains, exits, trains; the last lane. -/
theorem witness_LinksAndLanes :
    let lane : Lane := { cdrLock := true, sigdet := true }
    let lanes := (List.range 6).map (fun k => (k, lane))
    let s : State := { block with fab := { groups := [(0, groupUp)], lanes := lanes } }
    let t := mapGroup 0 (takeAckSeq 0) s
    linkHears s 0 = true ∧ linkHears s 1 = false ∧ linkHears { s with pins := { s.pins with d2dPresent := 4 } } 10 = true ∧ linkHears s 10 = false ∧
    frameShape (frame0 0) = true ∧ frameCrc (frame0 0) = true ∧ frameCrc { frame0 0 with header := leBytes 1 32 } = false ∧
    frameShape { frame0 0 with payload := [0] } = false ∧
    (∀ n ∈ (frame0 0).codewords, n ≤ 15) ∧ fecSym (frame0 0) = 18 ∧ (∃ n ∈ ({ frame0 0 with codewords := [16] } : Frame).codewords, 15 < n) ∧ groupUp.enc = false ∧ bitOf 24 (0 : Word64).toNat = false ∧ (groupAt t 0).rxSeq + 1 = 0 ∧
    BitVec.ofNat 12 (1 : Word64).toNat ≠ (groupAt t 0).rxSeq + 1 ∧
    bestRoute [(1, 2, 1), (1, 0, 2), (1, 1, 1)] 1 = some (1, 1) ∧
    injects { block with fab := { lanes := [(0, { inj := true, mode := 3 })] } } 0 = true ∧
    injects { block with fab := { lanes := [(0, { inj := true })] } } 0 = false ∧
    injects { block with fab := { groups := [(0, groupUp)], lanes := [(0, { inj := true })] } } 0 = true ∧
    (groupAt { block with fab := { groups := [(0, { groupUp with retrain := true })] } } 0).retrain = true ∧
    (let g := { groupUp with exiting := some 1 }
     groupAt { block with fab := { groups := [(7, g)] } } 7 = g ∧ g.unacked = []) ∧
    (let d : State := { block with fab := { lanes := lanes } }
     7 ≤ d.boot.phase ∧ (groupAt d 0).up = false ∧ (laneAt d 5).sigdet = true ∧ d.boot.image.linkEnc = false) ∧
    Sparse.sorted ([(47, { inj := true, injKind := 2, injLen := 64, mode := 2, lock := true })] : List (Nat × Lane)) = true ∧
    (laneAt { block with fab := { lanes := [(47, { inj := true, injKind := 2, injLen := 64, mode := 2, lock := true })] } } 47).injLen = 64 := by
  decide +kernel

def walk0 : Walk := { slice := 1, segment := 0, page := 0, gen := 1, place := .l2, kind := 0, demand := [] }
def demand0 : Demand := { unit := cl0, eng := 8, id := 0, access := 0, va := 0, row := noRow, record := { cause := 0x102 } }
/-- The block with an entry of the page table, at bit 0 the entry's `V` (R284), and a walk of it. -/
def walking (v : Nat) (w : Walk) : State :=
  withBytes 0x100000 (leBytes v 8) { block with xlat := { walks := [w] } }

/-- Walks that return a good entry and a bad one, with and without accesses that wait, and one of an earlier generation. -/
theorem witness_TranslationEvents_walks :
    let found (s : State) (w : Walk) := decide (s.xlat.walks.find? (fun w => w.slice == 1 && w.segment == 0 && w.page == 0) = some w)
    let g := segmentAt slice1.inForce 0
    let entry (s : State) := pageOfEntry g (readEntry (stepFree { s with xlat := { s.xlat with walks := [] } }) g 0)
    let readOnly := entry (walking 3 walk0)
    let d := { walk0 with demand := [demand0] }
    let o := { d with gen := 0 }
    found (walking 0 walk0) walk0 = true ∧ found (walking 0 d) d = true ∧ found (walking 0 o) o = true ∧ walk0.gen = slice1.gen ∧ o.gen ≠ slice1.gen ∧
    (segmentAt slice1.inForce 0).v = true ∧ (entry (walking 0 walk0)) = .error 0x102 ∧
    pageOfEntry g none = .error 0x105 ∧ readOnly.toOption.map (pageGrants 0) = some true ∧ readOnly.toOption.map (pageGrants 1) = some false ∧
    (entry (walking 1 walk0)).toOption.isSome = true ∧ entry (walking (1 + 2 ^ 5) d) = .error 0x104 ∧ entry (walking (1 + 2 ^ 20) d) = .error 0x104 := by
  decide +kernel

def sync0 : Sync := { seq := 9, gen := 2, since := 0, acks := [], switchTick := none, switched := false, drained := [] }
def syncing (t : Nat) (y : Sync) : State := { atTick t with slices := [{ slice1 with sync := some y }] }
def cmd (op : Nat) (f : Word16) (ps : List Byte) : CmdReq := { seq := 9, opcode := op, sliceField := f, params := ps, sender := manager, buffer := 0 }
/-- The block with one accepted command. -/
def accepts (c : CmdReq) (s : State) : State := { s with mgr := { s.mgr with accepted := [c] } }

/-- A member that is asked, and the lead, under the generation asked for and under another; a last acknowledgement at tick 256 and one that leaves another to come; the time-out at tick 257; the switch at
its tick and before it; the drained report of a slice at rest. -/
theorem witness_TranslationEvents_sync :
    (let s : State := { block with boot := { block.boot with isLead := false, leadId := 1 } }
     findSlice s 1 = some slice1 ∧ s.boot.isLead = false) ∧
    (syncing 0 sync0).boot.isLead = true ∧ sync0.gen = 2 ∧ sync0.gen ≠ 3 ∧
    (findSlice (syncing 256 sync0) 1 = some { slice1 with sync := some sync0 } ∧ syncBlocks (syncing 256 sync0) 1 = [0] ∧ now (syncing 256 sync0) = 256) ∧
    (let s : State := { syncing 256 sync0 with
       boot := { block.boot with admitted := 3 }
       cfg := { active := { slices := [cfg1], pools := [pool1, { pool1 with block := 1 }] } } }
     syncBlocks s 1 = [0, 1]) ∧
    (let s := accepts (cmd 0x0303 1 (leBytes 2 4)) (syncing 257 sync0)
     syncCmd s sync0 = some (cmd 0x0303 1 (leBytes 2 4)) ∧ sync0.since + 256 < now s) ∧
    (let y := { sync0 with switchTick := some 300 }
     now (syncing 299 y) < 300 ∧ 300 ≤ now (syncing 300 y) ∧ y.switched = false) ∧
    (let y := { sync0 with switched := true }
     eraBusy (syncing 300 y) 1 = false ∧ 0 ∈ syncBlocks (syncing 300 y) 1 ∧
     (let r : MemReq := { port := 0, tag := 0, addr := 0, len := 8, key := 0, write := true, data := [], owner := .none, onRead := .discard, slice := some 1 }
      eraBusy { syncing 300 y with mp := { out := [r] } } 1 = false ∧
      eraBusy { syncing 300 y with slices := [{ slice1 with sync := some y, era := 1 }], mp := { out := [r] } } 1 = true)) := by decide +kernel

/-! ### Commands of the manager -/

/-- The command is accepted and may take its step (`AtCommand`), and its parameters have the layout of R360. -/
def goodCmd (c : CmdReq) (s : State) : Bool :=
  decide (cmdAt (accepts c s) 9 c.opcode = some c) && managerRuns (accepts c s) && !heldBack (accepts c s) c && paramsOk c.opcode c.params &&
    sliceForm c.opcode c.sliceField

theorem atCommand {c : CmdReq} {s : State} (h : goodCmd c s = true) : AtCommand (accepts c s) 9 c.opcode c := by
  unfold goodCmd at h
  simp only [Bool.and_eq_true, decide_eq_true_eq, Bool.not_eq_true'] at h
  exact ⟨h.1.1.1.1, h.1.1.1.2, h.1.1.2⟩

def createParams : List Byte := leBytes 1 4 ++ leBytes 3 4 ++ leBytes 0x10000 8 ++ leBytes 10 1
def poolParams : List Byte := leBytes (2 * 2 ^ 16 + 2 ^ 32) 8 ++ leBytes 4 8 ++ leBytes 0 8
def rtParams (q : Nat) : List Byte := leBytes q 1 ++ leBytes 2 1 ++ leBytes 1 1 ++ leBytes 0 5 ++ leBytes 0 4 ++ leBytes 1 4
def windowParams : List Byte := leBytes 0 8 ++ leBytes 0 8 ++ leBytes (4096 + 2 ^ 40 + 2 ^ 50 + 2 ^ 51) 8 ++ leBytes 1 4 ++ leBytes 1 4 ++ leBytes 0 8
def atRest (s : State) : State := { s with queues := [{ queue0 with state := .quiesced }] }

/-- Each set command with parameters that hold, with some that do not, and at each of the points where the checks turn it away. -/
theorem witness_SetCommandsStage :
    let create := cmd 0x0101 2 createParams
    let window := cmd 0x0307 1 windowParams
    let envelope (w : Nat) := cmd 0x0701 0x8000 (leBytes w 4)
    let ok (c : CmdReq) (s : State) := setParamsOk (accepts c s) s.cfg.active c.opcode (cmdSlice c) c.params
    let next (c : CmdReq) := setApply block.cfg.active c.opcode (cmdSlice c) c.params
    let room (c : CmdReq) := setResources block block.cfg.active c.opcode (cmdSlice c) c.params
    [create, cmd 0x0102 1 [], cmd 0x0106 1 poolParams, cmd 0x0204 1 (rtParams 0), window, cmd 0x0308 1 (leBytes 0 4), envelope 200,
      envelope 2400, envelope 199, envelope 2401].all (fun c => goodCmd c block && decide (c.phase = .fresh)) = true ∧
    [create, cmd 0x0102 1 [], cmd 0x0106 1 poolParams, cmd 0x0204 1 (rtParams 0), window, envelope 200, envelope 2400].all (fun c =>
      ok c block && room c) = true ∧ ok (cmd 0x0308 1 (leBytes 0 4)) withWindow = true ∧
    [cmd 0x0101 1 createParams, cmd 0x0102 2 [], cmd 0x0106 2 poolParams, cmd 0x0204 1 (rtParams 9), cmd 0x0308 1 (leBytes 0 4), envelope 199,
      envelope 2401].all (fun c => !ok c block) = true ∧
    notQuiesced (accepts create block) (changedSlices block.cfg.active (next create)) = none ∧
    notQuiesced (accepts window block) (changedSlices block.cfg.active (next window)) = some 1 ∧
    notQuiesced (accepts window (atRest block)) (changedSlices block.cfg.active (next window)) = none ∧
    tickOf (atTick 16127) < 16128 ∧ ¬tickOf (atTick 16128) < 16128 := by decide +kernel

/-- An edit of the shadow, a commit of it, and a commit of the rollback copy. -/
theorem witness_SetCommandsStage_shadow :
    (let c := cmd 0x0808 0x8000 (leBytes (0x0101 + 2 * 2 ^ 16) 8 ++ leBytes 0 8 ++ createParams)
     goodCmd c block = true ∧ carriedOp c ∈ setOps ∧ paramsOk (carriedOp c) (carriedParams c) = true ∧
     sliceForm (carriedOp c) (carriedField c) = true ∧ par c 4 4 = block.cfg.active.serial.toNat ∧
     setParamsOk (accepts c block) block.cfg.active (carriedOp c) 2 (carriedParams c) = true ∧ block.cfg.commit = none) ∧
    (let c (n : Nat) := cmd 0x0809 0x8000 (leBytes n 8)
     let s : State := { block with cfg := { block.cfg with rollback := some block.cfg.active, shadow := block.cfg.active } }
     goodCmd (c 0) s = true ∧ goodCmd (c 1) s = true ∧ par (c 1) 0 1 = 1 ∧ par (c 1) 4 4 = s.cfg.active.serial.toNat ∧
     notQuiesced (accepts (c 1) s) (changedSlices s.cfg.active block.cfg.active) = none ∧ s.cfg.edited = false ∧
     goodCmd (c 0) { s with cfg := { s.cfg with edited := true } } = true) := by decide +kernel

def withRole (who : Agent) (t : Nat) : State := { atTick t with mgr := { holder := some who, expiry := 78125000 } }

/-- The role free, held by the sender and held by another; the lease at its warning and at its end; the reports with their buffers. -/
theorem witness_ManagerRoleAndReports :
    let claim (n : Nat) := cmd 0x0806 0x8000 (leBytes n 1)
    let lastBuf : Nat := 2 ^ 35 - 64
    [claim 0, claim 1, cmd 0x0807 0x8000 [], cmd 0x0801 0x8000 [], cmd 0x0505 0x8000 (leBytes 1 8 ++ leBytes lastBuf 8),
      cmd 0x0805 0x8000 (leBytes 0 8 ++ leBytes lastBuf 8 ++ leBytes 64 4),
      cmd 0x0601 0x8000 (leBytes 0 32 ++ leBytes lastBuf 8 ++ leBytes 64 4),
      cmd 0x0601 1 (leBytes 0 32 ++ leBytes lastBuf 8 ++ leBytes 64 4)].all (fun c => goodCmd c block && goodCmd c (withRole manager 0)) = true ∧
    block.mgr.holder = none ∧ (withRole manager 0).mgr.holder = some manager ∧ (withRole (.host stranger) 0).mgr.holder ≠ some manager ∧
    (withRole manager 62500000).mgr.expiry ≤ now (withRole manager 62500000) + 15625000 ∧
    (withRole manager 78125000).mgr.expiry ≤ now (withRole manager 78125000) ∧ (mailbox (withRole manager 78125000) 0).lock = none ∧
    bufferOk block lastBuf 64 = true ∧ bufferOk block lastBuf 65 = false ∧ beingResurfaced block 1 = false ∧
    statusLogged 0 = true ∧ statusLogged 10 = false := by decide +kernel

/-- Each command on a slice's queues, with parameters that hold. -/
theorem witness_QueueCommands :
    let stop (op mask force : Nat) := cmd op 1 (leBytes mask 8 ++ leBytes force 8 ++ leBytes 0 12)
    let resume (k n : Nat) := cmd 0x0104 1 (leBytes k 4 ++ leBytes n 4)
    let queue (q : Nat) := cmd 0x0201 1 (leBytes q 1 ++ leBytes 0 1 ++ leBytes 4 1 ++ leBytes 0 5 ++ leBytes 4096 8)
    let timeout (n : Nat) := cmd 0x0203 1 (leBytes 0 8 ++ leBytes n 8)
    let open0 : OpenFault := { slice := 1, segment := 0, page := 0, seq := 3, engines := [] }
    [stop 0x0103 1 0, stop 0x0103 1 1, stop 0x0105 0 1, resume 0 0, resume 1 3, resume 2 0, queue 63, queue 1, cmd 0x0202 1 [0], timeout 1000,
      timeout (10 ^ 12), cmd 0x0605 1 []].all (fun c => goodCmd c block && decide (c.phase = .fresh)) = true ∧
    [stop 0x0103 1 0, stop 0x0103 1 1, stop 0x0105 0 1].all (fun c => stopParamsOk (accepts c block) c && !stopBusy (accepts c block) c) = true ∧
    stopForced 0x0103 (stop 0x0103 1 1).params = true ∧ stopForced 0x0103 (stop 0x0103 1 0).params = false ∧ commitChanges block 1 = false ∧
    findQueue (atRest block) 1 0 = some { queue0 with state := .quiesced } ∧ restingQueues (atRest block) 1 = [0] ∧ par (resume 1 3) 4 4 / 2 ^ 29 = 0 ∧
    openOf { block with xlat := { opens := [open0] } } 1 (BitVec.ofNat 32 (par (resume 1 3) 4 4)) = some open0 ∧
    (let x := newQueue 1 (queue 63).params
     poolOn block 1 x.owner = some pool1 ∧ x.id = 63 ∧ x.ringLog2 = 4 ∧ findQueue block 1 63 = none ∧ ringOk block 1 x = true) ∧
    (block.queues.filter (fun q => q.slice == 1 && q.owner == 0)).length < pool1.qlimit ∧
    mayDestroy queue0 = true ∧ mayDestroy { queue0 with posted := 1 } = false ∧
    par (timeout 1000) 8 8 = 1000 ∧ unquiesced (atRest block) 1 = none ∧ slice1.resurf = none := by decide +kernel

/-- Each command on a slice's segments, logs and tallies, with parameters that hold, and a sync that is open. -/
theorem witness_SliceStateCommands :
    let seg : List Byte := leBytes (2 ^ 30) 8 ++ leBytes (1 + 2 ^ 26 + 2 ^ 30) 4 ++ leBytes 1 2 ++ leBytes 0 2 ++ leBytes 0x200000 8 ++ leBytes 0 8
    let map := cmd 0x0301 1 (leBytes 1 8 ++ seg)
    let log := cmd 0x0304 1 (leBytes 0 8 ++ leBytes 4096 8 ++ leBytes 8192 8)
    let dump := cmd 0x0401 1 (leBytes 4096 8 ++ leBytes 64 4)
    let tally (i : Nat) := cmd 0x0402 1 (leBytes 0 2 ++ leBytes i 1 ++ leBytes 0 5 ++ leBytes 7 8)
    let snap := cmd 0x0504 1 (leBytes 0 8 ++ leBytes 4096 8 ++ leBytes 64 4)
    let sync (g : Nat) := cmd 0x0303 1 (leBytes g 4)
    [map, cmd 0x0302 1 [15], sync 2, sync 1, log, cmd 0x0305 1 [0], cmd 0x0306 1 [0], dump, tally 255, snap].all (fun c =>
      goodCmd c block && decide (c.phase = .fresh) && decide (findSlice (accepts c block) (cmdSlice c) = some slice1)) = true ∧
    mapOk (accepts map block) slice1 1 (map.params.drop 8) = true ∧ slice1.sync = none ∧ par (sync 2) 0 4 = slice1.gen + 1 ∧
    (segmentAt slice1.staged 0).v = true ∧ bufferOk (accepts log block) 8192 (bitmapBytes (segmentAt slice1.staged 0)) = true ∧ findLog slice1 0 = none ∧
    (let sl := { slice1 with dirty := [{ segment := 0, active := 4096, shadow := 8192 }] }
     let s : State := accepts (cmd 0x0305 1 [0]) { block with slices := [sl] }
     findSlice s 1 = some sl ∧ findLog sl 0 = some { segment := 0, active := 4096, shadow := 8192 } ∧ logBusy s (cmd 0x0305 1 [0]) = false ∧
     ({ sl with sync := some sync0 } : Slice).sync ≠ none) ∧
    bufferOk block 4096 64 = true ∧ sliceBlocks block 1 = [] ∧ tallyUnit (par (tally 255) 1 1) = some cl0 ∧ (findUnit block cl0 1).isSome = true ∧
    par (tally 255) 2 1 < tallyCount block 1 cl0 ∧ (∀ x ∈ (atRest block).queues, x.slice = 1 → x.state = .quiesced) := by decide +kernel

/-- Key and firmware commands with a session, a free weight slot, a key, an open update and a hand-off. -/
theorem witness_KeyAndFirmwareCommands :
    let session := cmd 0x0602 1 (leBytes 0 8 ++ leBytes 4096 8)
    let release := cmd 0x0603 1 (leBytes 4 8 ++ leBytes 4096 8 ++ leBytes 64 4)
    let load := cmd 0x0604 1 (leBytes 3 8 ++ leBytes 4096 8 ++ leBytes 0 8 ++ leBytes 65536 8)
    let start := cmd 0x0802 0x8000 (leBytes (2 ^ 24) 4)
    let part (n : Nat) := cmd 0x0803 0x8000 (leBytes 0 8 ++ leBytes 4096 8 ++ leBytes n 4)
    let keyed : State := { withBytes 4096 (List.replicate 64 0) block with
      keys := { sessions := [{ id := 4, purpose := 0, slice := 1, isOpen := true }], weight := [(3, 1, 0)] } }
    let updating : State := { withBytes 4096 (List.replicate 64 1) block with fw := { opened := some 64 } }
    [session, release, load, start, part 64, part 16, cmd 0x0804 0x8000 []].all (fun c => goodCmd c block && decide (c.phase = .fresh)) = true ∧
    beingResurfaced block 1 = false ∧ sessionOpen (accepts release keyed) 4 1 = true ∧ keyed.boot.dbgUnlocked = false ∧
    freeWeightSlot (accepts release keyed) = some 0 ∧ (bufferRead (accepts release keyed) 4096 64).isSome = true ∧ bufferOk keyed 4096 64 = true ∧
    keyed.keys.weight.find? (fun w => w.1 == 3 && w.2.1 == 1) = some (3, 1, 0) ∧ bufferOk keyed 4096 (65536 + 16) = true ∧
    destOk (accepts load keyed) slice1 0 65536 = true ∧ par start 0 4 ≤ 2 ^ 24 ∧ block.fw.handoff = none ∧ block.fw.opened = none ∧
    updating.fw.verified = false ∧ (bufferRead (accepts (part 64) updating) 4096 64).isSome = true ∧
    stagedBytes (stagePart 0 (List.replicate 64 1) (accepts (part 64) updating)).fw.staged = 64 ∧
    stagedBytes (stagePart 0 (List.replicate 16 1) (accepts (part 16) updating)).fw.staged = 16 ∧
    ({ block with fw := { handoff := some (9, some 0) } } : State).fw.handoff = some (9, some 0) ∧
    now (atTick 1562499) < 0 + 1562500 ∧ 0 + 1562500 ≤ now (atTick 1562500) := by decide +kernel

/-- Commands on links and the twin: lanes 0 and 47, a group that may change and the last one that may not, and each pairing state. -/
theorem witness_LinkAndTwinCommands :
    let lane (n : Nat) : List Byte := leBytes n 1 ++ leBytes 1 1 ++ leBytes 0 1 ++ leBytes 0 1 ++ leBytes 10 1 ++ leBytes 0 3
    let test := cmd 0x0703 0x8000 (leBytes 2 8 ++ lane 0 ++ lane 47)
    let state (g st : Nat) := cmd 0x0704 0x8000 (leBytes g 1 ++ leBytes st 1)
    let pair (n mode : Nat) := cmd 0x0501 0x8000 (leBytes n 2 ++ leBytes mode 1)
    let tight : State := { block with twin := { state := .tight, node := some 5 } }
    [cmd 0x0702 0x8000 [1], test, state 0 1, state 7 0, pair 5 0, pair 0 2, cmd 0x0502 0x8000 [], cmd 0x0503 0x8000 (leBytes 5 2)].all (fun c =>
      goodCmd c block && goodCmd c tight && decide (c.phase = .fresh)) = true ∧
    (List.range 2).all (laneEntryOk test.params) = true ∧
    (∀ g < 8, groupTesting block g = true → groupTesting ((laneEntries test.params).foldl startTest block) g = true) ∧
    (∃ h < 8, h ≠ 0 ∧ groupTarget block h = 0) ∧
    (let s : State := { block with fab := { groups := (List.range 7).map (fun i => (i + 1, { ls := 1 })) } }
     ∀ h < 8, h ≠ 0 → groupTarget s h ≠ 0) ∧
    block.twin.state = .unpaired ∧ block.twin.fenced = false ∧ block.twin.asked = none ∧ block.twin.peerAsked = none ∧ ownNode block ≠ 5 ∧
    ({ block with twin := { asked := some (9, 0) } } : State).twin.asked = some (9, 0) ∧ now (atTick 78124999) < 0 + 78125000 ∧
    0 + 78125000 ≤ now (atTick 78125000) ∧ failingOver tight = false ∧ pairedNow tight = true ∧ tight.twin.node = some 5 := by decide +kernel

/-! ### Recovery -/

def ladder (rung : Nat) : Ladder := { id := 2, rung := rung, since := 0, left := [0], unit := cl0, eng := 1 }
def climbing (rung t : Nat) : State := { atTick t with recovery := { ladders := [ladder rung] } }
def capture0 : Capture := { unit := .cluster 7, slice := 1, eng := 4, start := [], operands := [], ending := [] }

/-- An engine to reset and one under reset; each rung before and at its limit; restarts, captures and the twin's time-outs. -/
theorem witness_RecoveryEvents :
    underReset block cl0 1 = false ∧ underReset (climbing 1 0) cl0 1 = true ∧ unitOk cl0 = true ∧
    [1, 2, 3, 4].all (fun r => decide ((climbing r 0).recovery.ladders.find? (fun l => l.id == 2) = some (ladder r)) &&
      decide (now (climbing r (rungLimit r - 1)) < 0 + rungLimit r) && decide (0 + rungLimit r ≤ now (climbing r (rungLimit r)))) = true ∧
    (block.recovery.schedDown ||| block.recovery.schedRestarting).getLsbD 3 = false ∧
    ({ block with recovery := { schedRestarting := 8 } } : State).recovery.schedRestarting.getLsbD 3 = true ∧
    block.recovery.restartSince = none ∧ block.cfg.commit = none ∧
    ({ withRole manager 9 with recovery := { restartSince := some 4 } } : State).recovery.restartSince = some 4 ∧ (withRole manager 9).mgr.holder ≠ none ∧
    (let s : State := { block with patrol := { captures := [capture0] } }
     headEmpty s (.cluster 8) 4 = true ∧ s.patrol.captures.find? (fun c => nextArray s (captureArray c) == arrayIx (.cluster 8) 4) = some capture0 ∧
     s.patrol.captures.find? (fun c => decide (c.unit = .cluster 7) && c.eng == 4) = some capture0) ∧
    (let tight (t : Nat) : State := { atTick t with twin := { state := .tight, node := some 5 } }
     let probed (t : Nat) : State := { tight t with twin := { state := .tight, node := some 5, probing := some 0 }, fab := { groups := [(0, groupUp)] } }
     pairedNow (tight 0) = true ∧ (tight 0).twin.probing = none ∧ now (tight 1562499) < (tight 0).twin.lastHeartbeat + 1562500 ∧
     (tight 0).twin.lastHeartbeat + 1562500 ≤ now (tight 1562500) ∧ pairedNow (probed 0) = true ∧ anyGroupUp (probed 0) = true ∧
     now (probed 2343749) < 0 + 2343750 ∧ 0 + 2343750 ≤ now (probed 2343750) ∧
     ({ tight 0 with twin := { state := .failedOver, node := some 5, remapWanted := true } } : State).twin.remapWanted = true) := by decide +kernel

/-- The image of a step whose last node is running. -/
theorem witness_RecoveryEvents_image :
    let l : GLaunch := { number := 0, queue := 0, desc := 0, ordered := false, nodes := [some 1], stepNo := 1, imageAcked := false, imageSent := false }
    let g := { graph0 with step := true, launches := [l] }
    let sl := { slice1 with graphs := [g] }
    let s : State := { block with slices := [sl], twin := { state := .tight, node := some 5 } }
    findSlice s 1 = some sl ∧ imageDue sl = some (g, l) ∧ mirroring s = true ∧ sl.aborted = false ∧ (findContext s 1).isSome = true := by
  decide +kernel

/-! ### Mailboxes, interrupts and ports -/

def locked (who : Agent) (go : Bool) : State := { block with mbx := [(0, { go := go, lock := some (7, who) })], chan := { kind := 1 } }

/-- Words, sends, acknowledgements, locks and time-outs; ring counts one beyond, at the room, and 257 beyond. -/
theorem witness_MailboxesAndRings :
    Sparse.sorted (locked manager false).mbx = true ∧
    (let s := locked manager false
     reaches s manager 0 = true ∧ senderSide manager 0 = true ∧ (mailbox s 0).go = false ∧ holdsLock s manager 0 = true ∧ mbxUnused s 0 = false ∧
     holdsLock (locked (.host stranger) false) manager 0 = false ∧ receiverSide manager 0 = false) ∧
    (let s : State := { block with mbx := [(0, { go := true }), (15, { go := true })] }
     let core : Agent := .core 2
     reaches s core 15 = true ∧ senderSide core 15 = true ∧ receiverSide core 15 = true ∧ (mailbox s 15).go = true ∧ (mailbox s 14).go = false ∧
     receiverSide core 0 = true ∧ (mailbox s 15).lock = none) ∧
    (let s : State := { atTick 78125000 with mbx := [(1, { go := true })], chan := { kind := 1, replySince := some 0 } }
     reaches s manager 1 = true ∧ receiverSide manager 1 = true ∧ (mailbox s 1).go = true ∧ 0 + 78125000 ≤ now s ∧ s.mgr.holder = none) ∧
    (let s : State := { atTick 78125000 with mbx := [(0, { lock := some (7, manager) })] }
     (mailbox s 0).lock ≠ none ∧ s.chan.exchange = false ∧ s.chan.lastHostWrite + 78125000 ≤ now s) ∧
    isHost manager = true ∧ hostOpen block = true ∧ block.chan.kind = 0 ∧ managerRuns block = true ∧ (mailbox block 0).go = false ∧
    ((256 : Word32) - block.chan.reqTail).toNat ≤ 256 - (block.chan.reqTail - block.chan.reqHead).toNat ∧
    256 - (block.chan.reqTail - block.chan.reqHead).toNat < ((257 : Word32) - block.chan.reqTail).toNat ∧
    ((1 : Word32) - (0 : Word32)).toNat ≤ ((1 : Word32) - 0).toNat ∧ ((1 : Word32) - 0).toNat < ((2 : Word32) - 0).toNat ∧
    [0, 1, 2].all (fun k => let s : State := { locked manager true with chan := { kind := k } }
      managerRuns s && (mailbox s 0).go && decide (s.chan.kind = k)) = true := by decide +kernel

/-- Sources 0 and 47 and the reserved and level ones beside them; a source that may send and none that may; a core and a watcher. -/
theorem witness_InterruptsAndRegisters :
    [0, 5, 7, 47, 128, 255].all (fun n => !sourceLevel n && !sourceReserved n) = true ∧ [6, 16, 17].all sourceLevel = true ∧
    [12, 15, 18, 31, 48, 127].all (fun n => sourceReserved n && !sourceLevel n) = true ∧ block.icu.powered = true ∧
    (let s : State := { block with icu := { gdis := false, pend := 2 ^ 47, owed := 2 ^ 47 } }
     hostOpen s = true ∧ s.pins.nvec ≠ 0 ∧ sourceEligible s 47 = true ∧ (∀ k, k < 47 → sourceEligible s k = false)) ∧
    (List.range 128).all (fun k => !sourceEligible block k) = true ∧ block.icu.gdis = true ∧ groupFree block 15 = true ∧
    (let s : State := { block with icu := { pend := 2 ^ 200, coreEn := [(1, 2 ^ 200)] } }
     handlerOf s 1 = none ∧ (s.icu.pend &&& Sparse.get 0 s.icu.coreEn 1).getLsbD 200 = true ∧
     (List.range 200).all (fun k => !(s.icu.pend &&& Sparse.get 0 s.icu.coreEn 1).getLsbD k) = true) ∧
    (let s : State := { block with icu := { powered := false, wakeSel := [(31, 0x1FF)] } }
     wakeSelected s.icu 255 = true ∧ 255 ∉ s.icu.latched) ∧
    isHost manager = true ∧ hostOpen block = true ∧ hostOpen State.reset = false := by decide +kernel

/-- Requests that are out; the aperture of a bound identity at its last bytes and beyond them; an open call and none. -/
theorem witness_PortsAnswer :
    (let r : MemReq := { port := 3, tag := 9, addr := 64, len := 4, key := 0, write := false, data := [], owner := .none, onRead := .discard }
     let s : State := { withBytes 64 [1, 2, 3, 4] block with mp := { out := [r, { r with tag := 8, write := true, data := [1, 2, 3, 4] }] } }
     findReq s 3 9 false = some r ∧ (memRead s r.key r.addr r.len).isSome = true ∧ (findReq s 3 8 true).isSome = true ∧ findReq s 3 9 true = none ∧
     findReq s 3 8 false = none) ∧
    hostServes block = true ∧ (aperturePieces block host .read (2 ^ 21 - 64) 64).isSome = true ∧ aperturePieces block host .read (2 ^ 21 - 64) 65 = none ∧
    (aperturePieces block stranger .write (2 ^ 35 - 8) 8).isSome = true ∧ aperturePieces block stranger .write (2 ^ 35 - 8) 9 = none ∧
    (let s : State := { block with boot := { block.boot with ready := false, elected := false, phase := 2 } }
     hostServes s = true ∧ s.boot.ready = false) ∧
    (let k : Call := { id := 15, slice := 1, insn := 0, done := false }
     let s : State := { block with boot := { block.boot with epPresent := 0x80 }, ports := [(7, { calls := [k] })] }
     portHere s 7 = true ∧ portHere s 0 = false ∧ openCall s 7 15 = some k ∧ openCall s 7 3 = none ∧ dmaRoom (enginePort s 7) 511 = true ∧
     (192 + 64 ≤ 256)) := by decide +kernel

/-! ### Power -/

/-- The relay zone at its first and its last governing tick; a clamp at its time; a domain that was asked for. -/
theorem witness_PowerEvents :
    (let s := atTick 16128
     s.boot.isLead = true ∧ s.boot.ready = true ∧ tickOf s < 16352 ∧ s.power.lastGoverned ≠ chairOf s + 1 ∧
     ({ atTick 16351 with power := { lastGoverned := 1 } } : State).power.lastGoverned = chairOf (atTick 16351) + 1) ∧
    block.power.trip = false ∧
    (let p : Power := { clamp := true, clampSince := some 16384, alertHighSince := some 16384 }
     let s (t ns : Nat) : State := { atTick t with lift := { (atTick t).lift with wallNs := ns }, power := p }
     16384 + 1000000 ≤ (s 32768 1016384).lift.wallNs ∧ wholeChairEnd 16384 ≤ now (s 32768 1016384) ∧ now (s 32767 0) < wholeChairEnd 16384 ∧
     (s 32768 1016383).lift.wallNs < 16384 + 1000000 ∧ p.clamp = true ∧ p.clampSince = some 16384 ∧ p.alertHighSince = some 16384) ∧
    ({ block with power := { wantNominal := true } } : State).power.mv = 750 ∧
    ({ block with boot := { block.boot with epPresent := 0x80 } } : State).boot.epPresent.getLsbD 7 = true ∧
    (let s (t : Nat) : State := { atTick t with ports := [(7, { ackPending := true, levelTick := 4 })] }
     (enginePort (s 20) 7).ackPending = true ∧ 4 + 16 ≤ now (s 20) ∧ now (s 19) < 4 + 16) ∧
    (let s : State := { block with power := { off := 2 ^ 6 + 2 ^ 38 } }
     s.power.off.getLsbD 6 = true ∧ s.power.off.getLsbD 38 = true ∧ clusterAsked s 0 = true) := by decide +kernel

theorem witness_LevelFollowsTheEnvelope : (0 : Int) < 1 ∧ levelOf 5 4 = 0 ∧ levelOf 0 4 = 15 ∧ levelOf 1 4 = 12 := by decide +kernel

/-! ### Start-up, memory, and what every step keeps -/

/-- Each phase's event where it may come; a fuse that is wanted; a block in reset. -/
theorem witness_StartUpAndSecurity :
    block.pins.blkRst = true ∧ block.pins.aoRst = true ∧ ({ block with pins := { blkRst := false } } : State).pins.blkRst = false ∧
    starting State.reset = true ∧ starting block = false ∧
    (let s : State := { State.reset with boot := { phase := 6, hpPresent := true } }
     let fs := ownFrame s :: s.boot.frames
     starting s = true ∧ s.boot.elected = false ∧ duplicated fs s.boot.blkId = false ∧ electedLead fs = some (ownFrame s)) ∧
    (let s : State := { State.reset with boot := { phase := 9, elected := true, slot := 0 }, fw := { slotA := { conf := 0 } } }
     starting s = true ∧ s.boot.elected = true ∧ s.boot.isLead = false ∧ slotConfirmed (fwSlot s s.boot.slot) = true) ∧
    ({ block with boot := { block.boot with fuseWanted := [63, 0] } } : State).boot.fuseWanted = [63, 0] ∧ block.boot.dbgUnlocked = false ∧
    ({ block with boot := { block.boot with dbgUnlocked := true } } : State).boot.dbgUnlocked = true ∧ managerRuns block = true := by decide +kernel

theorem witness_MemoryReadsBackWrites :
    let s := memWrite 0x7F 0 [1, 2] block
    Memory.wf s.mem = true ∧ Sparse.sorted s.memKeys = true ∧ Sparse.get? s.memKeys (0x7E / 64) = some (0, keyNumber s 0) ∧
    2 ∉ linesOf 0x7F 1 ∧ readByte s 0 0x7F = some 1 ∧ readByte s 0 0x80 = some 2 := by decide +kernel

theorem witness_StepsKeepMemoryCanonical :
    Memory.wf block.mem = true ∧ Sparse.sorted block.memKeys = true ∧ step { block with pending := [.fqStatusWrite 0] } = .next block :=
  ⟨rfl, rfl, rfl⟩

theorem witness_CounterNeverFalls :
    let s : State := { block with boot := { block.boot with antiRollback := 8 } }
    s.boot.antiRollback.getLsbD 3 = true ∧ step s = .next s := ⟨rfl, rfl⟩

theorem witness_CommandsKeepTheQueue :
    exec (.fqStatusWrite 0) { block with pending := [.ready] } = .next { block with pending := [.ready] } ∧ step block = .next block := ⟨rfl, rfl⟩

/-! ### The manual's worked examples -/

/-- The example of spec/02: a ring of 64, `COMPLETED` 517 and posted count 530; 581 is accepted, the same again is stale, and 600 stops the
queue. -/
theorem test_doorbell_example :
    let x := { queue0 with ringLog2 := 6, posted := 530, completed := 517, fetched := 530, state := .active }
    let after (v : Word64) (y : Queue) : Option (Nat × Bool × QState × Nat) :=
      match exec (.doorbellForward 1 0 { value := v, tick := 0 }) { block with queues := [y] } with
      | .next t => (findQueue t 1 0).map (fun z => (z.posted, z.stale, z.state, z.dstatus))
      | _ => none
    after 581 x = some (581, false, .active, 0) ∧ after 581 { x with posted := 581 } = some (581, true, .active, 0) ∧
    (after 600 x).map (fun r => r.2.2) = some (.stopped, 0x0D) := by decide +kernel

/-- The example of spec/17: four blocks, four engines of 180 W, `P` 1,130 W, `E` 1,100 W: level 2. -/
theorem test_governor_example :
    let s : State := { block with
      boot := { block.boot with admitted := 0xF, image := { block.boot.image with epPmax := [180] } }
      cfg := { active := { block.cfg.active with envelope := 1100 } } }
    let rs := (List.range 4).map (fun b => ({ block := b, draw := 60, issuing := 0, present := 1, late := 0 } : DrawReport))
    available512 s 1130 rs = 512 * 895 + 320 ∧ demand512 s rs = 512 * 972 ∧ levelOf (available512 s 1130 rs) (demand512 s rs) = 2 := by
  decide +kernel

/-- The example of spec/07: the third of three arrivals at gate 37 of generation 9 meets the count, and the gate opens generation 10. -/
theorem test_gate_example :
    let g : Gate := { free := false, tag := 1, gen := 9, expected := 3, count := 2, list := [] }
    let a : Arrival := { tag := 1, gate := 37, gen := 9, expected := 3, who := { node := 0x3A, cluster := 0, slot := 0, tally := 12 } }
    (match arriveAt a g with
     | .ok h => some ((gateAt (placeArrival 37 h block) 37).gen.toNat, (gateAt (placeArrival 37 h block) 37).count)
     | .error _ => none) = some (10, 0) := by decide +kernel

/-- R315: the polynomial's usual check, over the nine digits. -/
theorem test_crc32 : crc32 ((List.range 9).map (fun i => BitVec.ofNat 8 (0x31 + i))) = 0xCBF43926 := by decide +kernel

/-- FP32: 1 + 2 is 3; 2^24 + 1 ties to the even 2^24; 1.5 times 2 is 3. -/
theorem test_fp32 :
    fAdd 0x3F800000 0x40000000 = 0x40400000 ∧ fAdd 0x4B800000 0x3F800000 = 0x4B800000 ∧ fMul 0x3FC00000 0x40000000 = 0x40400000 := by
  decide +kernel

/-- R584: a shift by 64 gives 0, and the sign with `SUB` 2. -/
theorem test_shifts : shiftBy 0 1 64 = 0 ∧ shiftBy 1 (-1) 64 = 0 ∧ shiftBy 2 (-2) 64 = -1 ∧ shiftBy 2 (-8) 1 = -4 := by decide

/-- spec/00, conventions: values of several bytes are little-endian: byte 0 of a word is its low byte. -/
theorem test_little_endian : leBytes 0x0102 2 = [2, 1] ∧ leNat [2, 1] = 0x0102 := by decide

/-- A command that names no place of the block stops the machine. -/
theorem test_no_such_place :
    exec (.laneInject 48) block = .fault .noSuchPlace ∧ exec (.interruptEvent 256) block = .fault .noSuchPlace := ⟨rfl, rfl⟩

/-! ### SRAM words with bad symbols (R137, R138), and arrays that two queues share (R145) -/

/-- A clean partition, a word with one bad symbol and one with two; an instruction of each kind that reads the word. -/
theorem witness_BadSramWords :
    let here (n : Nat) := tile 0 n 1 1 0 8
    let st := insn 8 (word 0x21 8 0 0) (tile 4096 8 1 1 0 8 true) (here 8) 0
    let vop := insn 7 (word 0x60 7 0 0) (here 4) (here 4) (here 4)
    let mma := insn 1 (word 0x51 1 0 (2 ^ 76)) (tile 0 64 8 1 64 8) (tile 0 64 8 1 64 6) (tile 0 64 8 1 64 6)
    let bad (e : EngInsn) (n : Nat) : State := stepFree { holding e with sramErrs := if n = 0 then [] else [(0, n)] }
    [st, vop, mma].all (fun e => goodHead e && !e.started) = true ∧
    badWords (bad st 0) 1 cl0 (walkRanges 0 (walkOf (here 8) (here 8)) 8) = [] ∧
    badWords (bad st 1) 1 cl0 (walkRanges 0 (walkOf (here 8) (here 8)) 8) = [1] ∧
    2 ∈ badWords (bad st 2) 1 cl0 (walkRanges 0 (walkOf (here 8) (here 8)) 8) ∧
    2 ∈ badWords (bad vop 2) 1 cl0 ((itemAddrs (s1T vop) (s1T vop)).map (fun a => (a, 4))) ∧
    2 ∈ badWords (bad mma 2) 1 cl0 ((arrParts mma).map (partReads mma)).flatten ∧
    badWords (bad mma 0) 1 cl0 ((arrParts mma).map (partReads mma)).flatten = [] ∧
    2 ∈ badWords (bad st 2) 1 cl0 [(8, 8)] ∧ badWords (bad st 2) 1 cl0 [(16, 8)] = [] := by decide +kernel

/-- Array 0 of cluster 0 retired: queues 1 and 2 share array 1, and take turns. -/
theorem witness_SharedArray :
    let e (q i : Nat) : EngInsn := { insn q (word 0x51 q 0 (2 ^ 76)) 0 0 0 with id := i }
    let x : UnitCtx := { unitWith (e 1 0) with insns := [e 1 0, e 2 1] }
    let s (t : List (Nat × Nat)) : State := { holding (e 1 0) with recovery := { retiredArrays := 1, turns := t } }
    physicalArray (s []) cl0 1 = 2 ∧ physicalArray (s []) cl0 2 = 2 ∧ physicalArray (s []) cl0 3 = 3 ∧ sharers (holding (e 1 0)) cl0 1 = [] ∧
    arrayTurn (holding (e 1 0)) x (e 1 0) = true ∧ arrayTurn (s []) x (e 1 0) = true ∧ arrayTurn (s [(1, 1)]) x (e 1 0) = false ∧
    arrayTurn (s [(1, 1)]) x (e 2 1) = true ∧ (noteTurn x (e 2 1) (s [(1, 1)])).recovery.turns = [(1, 2)] := by decide +kernel

/-! ### Further clauses -/

/-- A message to the lead, a member's report, and the conditions on the run-control word: a resume of an open fault and of the resting queues. -/
theorem witness_QueueCommands_resume :
    let o : OpenFault := { slice := 1, segment := 0, page := 0, seq := 3, engines := [] }
    let resume (k n : Nat) := cmd 0x0104 1 (leBytes k 4 ++ leBytes n 4)
    let s : State := { atRest block with xlat := { opens := [o] } }
    [resume 0 0, resume 1 3, resume 2 0].all (fun c => goodCmd c s && decide (cmdSlice c = 1) && !commitChanges (accepts c s) 1 &&
      !stopBusy (accepts c s) c) = true ∧
    par (resume 1 3) 4 4 / 2 ^ 29 = s.boot.blkId ∧ openOf (accepts (resume 1 3) s) 1 (BitVec.ofNat 32 (par (resume 1 3) 4 4)) = some o ∧
    restingQueues (accepts (resume 2 0) s) 1 ≠ [] ∧ (findQueue s 1 0).map queueAtRest = some true := by decide +kernel

/-- Slice 1 with clusters of block 1 too: a swap of its log and a dump that ask a member, and an image that may be installed. -/
theorem witness_SliceStateCommands_more :
    let sl := { slice1 with dirty := [{ segment := 0, active := 4096, shadow := 8192 }] }
    let s : State := { block with
      slices := [sl], boot := { block.boot with admitted := 3 }
      cfg := { active := { slices := [cfg1], pools := [pool1, { pool1 with block := 1 }] } } }
    let q0 : SnapQueue := { queue := 0, owner := 0, ring := 4096, ringLog2 := 5, posted := 0, fetched := 0, completed := 0, timeout := 1562500 }
    let im : Snapshot := { queues := [q0], tallies := [], table := 4096, tableLog2 := 4, graphs := [] }
    let snap := cmd 0x0504 1 (leBytes 1 8 ++ leBytes 4096 8 ++ leBytes 64 4)
    let dump := cmd 0x0401 1 (leBytes 4096 8 ++ leBytes 64 4)
    [cmd 0x0305 1 [0], cmd 0x0306 1 [0], dump, snap].all (fun c =>
      goodCmd c s && decide (c.phase = .fresh) && decide (findSlice (accepts c s) (cmdSlice c) = some sl) && !logBusy (accepts c s) c) = true ∧
    findLog sl 0 = some { segment := 0, active := 4096, shadow := 8192 } ∧ sl.sync = none ∧ sliceBlocks s 1 = [1] ∧ sliceBlocks block 1 = [] ∧
    bufferOk (accepts dump s) 4096 64 = true ∧ par snap 0 1 = 1 ∧ bufferOk (accepts snap s) 4096 64 = true ∧
    installable (accepts snap s) 1 = true ∧ snapshotOk (accepts snap s) 1 im = true ∧
    (bufferRead (accepts snap (withBytes 4096 (List.replicate 64 1) s)) 4096 64).isSome = true := by decide +kernel

/-- A twin that has asked already, with the same mode and with another; in time and late. -/
theorem witness_LinkAndTwinCommands_asked :
    let c := cmd 0x0501 0x8000 (leBytes 5 2 ++ leBytes 1 1)
    let s (t m : Nat) : State := { atTick t with twin := { peerAsked := some (5, m, 0) } }
    goodCmd c (s 0 1) = true ∧ goodCmd c (s 78124999 0) = true ∧ par c 2 1 = 1 ∧ par c 0 2 = 5 ∧ par c 0 2 ≠ ownNode (s 0 1) ∧
    (s 0 1).twin.state = .unpaired ∧ (s 0 1).twin.fenced = false ∧ (s 0 1).twin.asked = none ∧
    now (s 78124999 0) < 0 + 78125000 := by decide +kernel

/-- An engine that was asked to stop, in time and late; a scheduler core at its limit and before it; a commit while the pair fails. -/
theorem witness_RecoveryEvents_more :
    (let s (t : Nat) : State := { atTick t with recovery := { stopAsked := [(0, 0)] } }
     unitIdx cl0 = 0 ∧ underReset (s 782) cl0 1 = false ∧ (0, 0) ∈ (s 782).recovery.stopAsked ∧ 0 + 782 ≤ now (s 782) ∧ now (s 781) < 0 + 782) ∧
    (let s (t : Nat) : State := { atTick t with recovery := { schedSeen := [(2, 4)] } }
     now (s 31253) < Sparse.get 0 (s 31253).recovery.schedSeen 2 + 31250 ∧ Sparse.get 0 (s 31254).recovery.schedSeen 2 + 31250 ≤ now (s 31254) ∧
     ((s 0).recovery.schedDown ||| (s 0).recovery.schedRestarting).getLsbD 2 = false) ∧
    (let s (go : Option Bool) : State := { block with cfg := { block.cfg with commit := some { commit0 with go := go } } }
     [none, some true].all (fun go => decide ((s go).recovery.restartSince = none) && decide ((s go).cfg.commit = some { commit0 with go := go })) = true) ∧
    ({ block with recovery := { restartSince := some 4 } } : State).mgr.holder = none ∧
    (let l := ladder 2
     (∀ x ∈ l.left, x ∈ [0, 1]) ∧ (∃ x ∈ l.left, x ∉ [1]) ∧ 2 ≤ l.rung ∧ (ladder 1).rung = 1) := by decide +kernel

/-- A member of a part of two blocks. -/
def member : State := { block with boot := { block.boot with isLead := false, leadId := 1, blkId := 0, admitted := 3 } }

/-- The count of a member that is unlocked; an event at a member; a commit in a stall of the manager; a unit that must wait for its context's work. -/
theorem witness_MembersAndStalls :
    member.boot.isLead = false ∧ member.boot.elected = true ∧ ({ member with lift := {} } : State).lift.src = 0 ∧ sourceLevel 47 = false ∧
    sourceReserved 47 = false ∧ block.tick.dumps = [] ∧ 8 ≤ block.boot.phase ∧
    (let s : State := { atTick 16352 with cfg := { commit := some { commit0 with confirms := [0] } }, recovery := { restartSince := some 4 } }
     managerStalled s = true ∧ s.lift.goDone = false ∧ commit0.go = none ∧ managerStalled block = false) ∧
    (let e := { insn 8 (word 0x21 8 0 0) 0 0 0 with started := true, issued := true }
     let r : MemReq := { port := 0, tag := 0, addr := 0, len := 8, key := 0, write := true, data := [], owner := .insn cl0 1 0, onRead := .discard }
     let s : State := { atTick 256 with units := [unitWith e], mp := { out := [r] }, contexts := [{ context1 with saving := [cl0] }] }
     mustWait s cl0 = true ∧ lastSlot s cl0 < now s / 256 ∧ currentSlice s cl0 = some 1 ∧ findUnit s cl0 1 = some (unitWith e) ∧
     (unitWith e).stopping = false ∧ mustWait (atTick 256) cl0 = false) := by decide +kernel

/-- The manual's checks on the reset ladder's and the links' numbers: a pattern's polynomial, and the best of three routes (R341, R349). -/
theorem test_routes_and_patterns :
    bestRoute [(1, 2, 1), (1, 0, 2), (1, 1, 1)] 1 = some (1, 1) ∧ bestRoute [(1, 2, 1)] 2 = none ∧ prbs 1 = (7, [6, 0]) := by decide

/-- R160: the correctly rounded exp 1, log 2, reciprocal root of 2 and sigmoid 1 (from tables of the constants), and the bound of 2 ulp. -/
theorem test_special_functions :
    (fp32OfEV (.fin (spExp 1 0)) = 0x402DF854 ∧ fp32OfEV (.fin (spLog 2 0)) = 0x3F317218 ∧
      fp32OfEV (.fin (spRsqrt 2 0)) = 0x3F3504F3 ∧ fp32OfEV (.fin (spSigmoid 1 0)) = 0x3F3B26A8) ∧
    (withinTwoUlp (spExp 1 0) 0x402DF856 = true ∧ withinTwoUlp (spExp 1 0) 0x402DF857 = false) := by decide +kernel

end Sys2Proof.Tests
end

/-! PROOFS. The AHNIF queue interface (spec/02): the patches of a graph's launches, doorbell writes, and descriptors that a check rejects. -/

namespace Sys2Proof.Machine

/-! ### Patches of a graph's launches (R71, R73) -/

@[simp] theorem applyPatches_nil (w : List Word32) : applyPatches w [] = w := rfl

@[simp] theorem applyPatches_cons (w : List Word32) (p : Nat × Word32) (ps : List (Nat × Word32)) :
    applyPatches w (p :: ps) = applyPatches (w.set p.1 p.2) ps := rfl

theorem applyPatches_append (w : List Word32) (ps qs : List (Nat × Word32)) :
    applyPatches w (ps ++ qs) = applyPatches (applyPatches w ps) qs := List.foldl_append

@[simp] theorem length_applyPatches (w : List Word32) (ps : List (Nat × Word32)) : (applyPatches w ps).length = w.length := by
  induction ps generalizing w with
  | nil => rfl
  | cons p ps ih => rw [applyPatches_cons, ih, List.length_set]

/-- A word that no patch names keeps its value. -/
theorem getElem?_applyPatches_of_unnamed {i : Nat} {ps : List (Nat × Word32)} (h : ∀ p ∈ ps, p.1 ≠ i) (w : List Word32) :
    (applyPatches w ps)[i]? = w[i]? := by
  induction ps generalizing w with
  | nil => rfl
  | cons p ps ih =>
    obtain ⟨hp, hps⟩ := List.forall_mem_cons.1 h
    rw [applyPatches_cons, ih hps, List.getElem?_set_ne hp]

/-- Of the patches that name a word of the block, the last one's value stands. -/
theorem getElem?_applyPatches_of_last {i : Nat} {w : List Word32} (hi : i < w.length) (ps : List (Nat × Word32)) (v : Word32)
    {qs : List (Nat × Word32)} (h : ∀ p ∈ qs, p.1 ≠ i) : (applyPatches w (ps ++ (i, v) :: qs))[i]? = some v := by
  have hlen : i < (applyPatches w ps).length := by simpa using hi
  rw [applyPatches_append, applyPatches_cons, getElem?_applyPatches_of_unnamed h, List.getElem?_set_self hlen]

/-- The buffer of a graph that launch `i` uses: the two take turns (R73). -/
def launchBuffer (g : Graph) (i : Nat) : List Word32 := if i % 2 = 0 then g.even else g.odd

theorem launchGraph_next (q k n t : Nat) (o : Bool) (ps : List (Nat × Word32)) (g : Graph) :
    (launchGraph q k n t o ps g).next = g.next + 1 := by
  unfold launchGraph
  dsimp only
  split <;> rfl

/-- A launch's own buffer takes the buffer of the launch before it, patched; the first launch's takes its own. -/
theorem launchBuffer_launchGraph (q k n t : Nat) (o : Bool) (ps : List (Nat × Word32)) (g : Graph) :
    launchBuffer (launchGraph q k n t o ps g) g.next =
      applyPatches (if g.next = 0 then g.even else launchBuffer g (g.next - 1)) ps := by
  rcases Nat.mod_two_eq_zero_or_one g.next with even | odd
  · have before (h : g.next ≠ 0) : (g.next - 1) % 2 = 1 := by omega
    by_cases first : g.next = 0
    · simp [launchBuffer, launchGraph, first]
    · simp [launchBuffer, launchGraph, even, first, before first]
  · have first : g.next ≠ 0 := by omega
    have before : (g.next - 1) % 2 = 0 := by omega
    simp [launchBuffer, launchGraph, odd, first, before]

/-- Settles O12: a launch writes its own buffer from the other one, and patches are applied from the first entry to the last. -/
theorem patchesApplyInOrder : Obligations.PatchesApplyInOrder := by
  refine ⟨fun q k n t o ps g => ⟨launchGraph_next q k n t o ps g, fun later => ?_, fun first => ?_⟩,
    fun w ps qs i v hi hqs => ⟨getElem?_applyPatches_of_last hi ps v hqs, getElem?_applyPatches_of_unnamed hqs w⟩,
    fun _ _ _ _ _ _ => ⟨rfl, rfl⟩⟩
  · have h := launchBuffer_launchGraph q k n t o ps g
    rwa [if_neg later] at h
  · have h := launchBuffer_launchGraph q k n t o ps g
    rwa [if_pos first, first] at h

/-! ### Doorbell writes (R40, R47) -/

/-- The lead reports no queue to itself (R34). -/
theorem reportQueue_of_isLead {s : State} (h : s.boot.isLead = true) (slice q : Nat) : reportQueue slice q s = s := if_pos h

theorem takeDoorbell_of_stale {s : State} {slice q value : Nat} {x : Queue} (hx : findQueue s slice q = some x)
    (h : doorbellStale x value = true) (tick : Nat) :
    takeDoorbell slice q value tick s = reportQueue slice q (mapQueue slice q (fun y => { y with stale := true }) s) := by
  simp only [takeDoorbell, hx, h, if_true]

theorem doorbellStale_of_le {x : Queue} {value : Nat} (h : value ≤ x.posted) : doorbellStale x value = true := by
  simp [doorbellStale, h]

section
variable {s : State} (ready : s.boot.ready = true) (lead : s.boot.isLead = true)
include ready lead

theorem execDoorbellWrite_of_identity_ne {offset : Nat} {c : SliceCfg} {id : Requester} (hc : sliceCfg s (offset / 4096) = some c)
    (hid : c.identity ≠ id) (size : Nat) (v : Word64) :
    execDoorbellWrite id offset size v s =
      .next (mapSlice (offset / 4096) (fun x => { x with rejectedWrites := x.rejectedWrites + 1 }) s) := by
  simp [execDoorbellWrite, ready, lead, hc, hid]

/-- A write under the bound identity to the register of a queue that this block owns reaches its front end; as value 0 where it
is not the whole register. -/
theorem execDoorbellWrite_of_owner {slice q reg : Nat} {c : SliceCfg} {x : Queue} (hc : sliceCfg s slice = some c)
    (hx : findQueue s slice q = some x) (hq : q < 64) (hreg : reg < 8) (owner : x.owner = s.boot.blkId) (size : Nat) (v : Word64) :
    execDoorbellWrite c.identity (4096 * slice + 64 * q + reg) size v s =
      .next (takeDoorbell slice q (if reg = 0 ∧ size = 8 then v else 0).toNat (now s) s) := by
  have hslice : (4096 * slice + 64 * q + reg) / 4096 = slice := by omega
  have hqueue : (4096 * slice + 64 * q + reg) % 4096 / 64 = q := by omega
  have hoffset : (4096 * slice + 64 * q + reg) % 64 = reg := by omega
  simp [execDoorbellWrite, hslice, hqueue, hoffset, ready, lead, hc, hx, owner, Nat.not_le.2 hreg]

end

/-- Settles O3: at a ready lead the identity is compared before anything else of the write is looked at. -/
theorem doorbellIdentityIsChecked : Obligations.DoorbellIdentityIsChecked :=
  fun _ _ _ size v _ ready lead hc hid => execDoorbellWrite_of_identity_ne ready lead hc hid size v

/-- Settles O4: such a value is stale, and the lead, which owns the queue, has nobody to report it to. -/
theorem doorbellStaleValueIsIgnored : Obligations.DoorbellStaleValueIsIgnored := by
  rintro s _ slice q v c x hq ready lead hc rfl hx owner stale
  calc exec (.doorbellWrite c.identity (4096 * slice + 64 * q) 8 v) s
    _ = .next (takeDoorbell slice q v.toNat (now s) s) :=
        execDoorbellWrite_of_owner ready lead hc hx hq (Nat.zero_lt_succ 7) owner 8 v
    _ = .next (mapQueue slice q (fun y => { y with stale := true }) s) := by
        rw [takeDoorbell_of_stale hx (doorbellStale_of_le stale), reportQueue_of_isLead]
        exact lead

/-! ### Descriptors that fail a check (R56, R70) -/

theorem checkDesc_of_type_gt {d : List Byte} (h : 7 < byteField d 0 1) (s : State) (sl : Slice) (c : SliceCfg) :
    checkDesc s sl c d = .ok ([0x01], none) := if_pos h

@[simp] theorem pickStatus_singleton (n b : Nat) : pickStatus n [b] = b := by
  simpa using pickStatus_mem n b []

/-- The front end may fetch the next descriptor of a queue of this block. -/
structure MayFetch (s : State) (slice q : Nat) (sl : Slice) (x : Queue) (c : SliceCfg) : Prop where
  hasSlice : findSlice s slice = some sl
  hasQueue : findQueue s slice q = some x
  hasCfg : sliceCfg s slice = some c
  owner : x.owner = s.boot.blkId
  isOpen : queueOpen x = true
  notQuiescing : x.quiescing = false
  notHalted : s.recovery.halted = false
  notStalled : stalled s slice (frontEngine s slice q) = false
  posted : x.fetched < x.posted

/-- The place in memory of the next descriptor to fetch. -/
def fetchVa (x : Queue) : Nat := x.ring + 64 * (x.fetched % 2 ^ x.ringLog2)

/-- The state in which the next descriptor is read and checked. -/
def fetchState (sl : Slice) (x : Queue) (s : State) : State := cachePages .l2 sl (fetchVa x) 64 (stepFree s)

/-- A fetched descriptor to which some status applies is rejected. -/
theorem execDescriptorFetch_of_bad {s : State} {slice q : Nat} {sl : Slice} {x : Queue} {c : SliceCfg} {d : List Byte} {b : Nat}
    {bad : List Nat} {o : Option DescOp} (may : MayFetch s slice q sl x c)
    (hread : readNow (fetchState sl x s) sl .fetch (fetchVa x) 64 = .ok d)
    (hcheck : checkDesc (fetchState sl x s) sl c d = .ok (b :: bad, o)) :
    execDescriptorFetch slice q s = .next
      (rejectDesc slice q x.fetched (byteField d 4 4) (pickStatus (fetchState sl x s).free (b :: bad)) (fetchState sl x s)) := by
  obtain ⟨hsl, hx, hc, owner, isOpen, notQuiescing, notHalted, notStalled, posted⟩ := may
  unfold fetchState fetchVa at hread hcheck ⊢
  simp [execDescriptorFetch, ringSize, hsl, hx, hc, owner, isOpen, notQuiescing, notHalted, notStalled, Nat.not_le.2 posted, hread, hcheck]

/-- Settles O7: no other check is made of a descriptor of such a type, so `BAD_TYPE` is the one status that applies. -/
theorem badTypeIsRejected : Obligations.BadTypeIsRejected := by
  intro s slice q sl x c d hsl hx hc owner isOpen notQuiescing notHalted notStalled posted va s1 hread htype
  have may : MayFetch s slice q sl x c := ⟨hsl, hx, hc, owner, isOpen, notQuiescing, notHalted, notStalled, posted⟩
  have h := execDescriptorFetch_of_bad may hread (checkDesc_of_type_gt htype (fetchState sl x s) sl c)
  rwa [pickStatus_singleton] at h

end Sys2Proof.Machine

/-! PROOFS. The sequencer (spec/06): the registers with which a run begins. -/

namespace Sys2Proof.Machine.Sparse

variable {β : Type} [DecidableEq β]

/-- The table that lists `f i` at every key `i` below `n` of which `p` holds. -/
def ofRange (d : β) (p : Nat → Bool) (f : Nat → β) (n : Nat) : List (Nat × β) :=
  (List.range n).foldl (fun m i => if p i then set d m i (f i) else m) []

@[simp] theorem ofRange_zero (d : β) (p : Nat → Bool) (f : Nat → β) : ofRange d p f 0 = [] := rfl

theorem ofRange_succ (d : β) (p : Nat → Bool) (f : Nat → β) (n : Nat) :
    ofRange d p f (n + 1) = if p n then set d (ofRange d p f n) n (f n) else ofRange d p f n := by
  simp [ofRange, List.range_succ]

theorem sorted_ofRange (d : β) (p : Nat → Bool) (f : Nat → β) (n : Nat) : sorted (ofRange d p f n) = true := by
  induction n with
  | zero => rfl
  | succ n ih =>
    rw [ofRange_succ]
    split
    · exact sorted_set d _ n (f n) ih
    · exact ih

theorem get_ofRange (d : β) (p : Nat → Bool) (f : Nat → β) (n i : Nat) :
    get d (ofRange d p f n) i = if i < n ∧ p i = true then f i else d := by
  induction n with
  | zero => simp [get, get?]
  | succ n ih =>
    rw [ofRange_succ]
    obtain rfl | hne := eq_or_ne i n
    · by_cases hp : p i = true
      · simp [hp, get_set_self _ _ _ _ (sorted_ofRange d p f i)]
      · simp [hp, ih]
    · have hkeep : get d (if p n then set d (ofRange d p f n) n (f n) else ofRange d p f n) i = get d (ofRange d p f n) i := by
        split
        · exact get_set_ne d _ (f n) hne
        · rfl
      have hlt : i < n + 1 ↔ i < n := by omega
      simp only [hkeep, ih, hlt]

end Sys2Proof.Machine.Sparse

namespace Sys2Proof.Machine

/-! ### Fields of a byte list -/

theorem leNat_lt (bs : List Byte) : leNat bs < 256 ^ bs.length := by
  induction bs with
  | nil => exact Nat.one_pos
  | cons b bs ih =>
    have hb : b.toNat < 256 := b.isLt
    rw [leNat, List.length_cons, Nat.pow_succ]
    omega

theorem byteField_lt (bs : List Byte) (a n : Nat) : byteField bs a n < 256 ^ n :=
  (leNat_lt _).trans_le (Nat.pow_le_pow_right (by decide) (List.length_take_le n _))

/-! ### The registers of a run that begins (R201) -/

/-- The parameter word that `REG_INIT` may name for register s*i*. -/
def paramWord (param : List Byte) (i : Nat) : Word64 := BitVec.ofNat 64 (byteField param (8 * i) 8)

theorem toNat_paramWord (param : List Byte) (i : Nat) : (paramWord param i).toNat = byteField param (8 * i) 8 := by
  have hlt : byteField param (8 * i) 8 < 2 ^ 64 := byteField_lt param (8 * i) 8
  rw [paramWord, BitVec.toNat_ofNat, Nat.mod_eq_of_lt hlt]

theorem initialRegs_eq (r : Run) (param : List Byte) :
    initialRegs r param =
      Sparse.set 0 (Sparse.set 0 (Sparse.ofRange 0 r.regInit.testBit (paramWord param) 30) 30 (BitVec.ofNat 64 r.instNo))
        31 (BitVec.ofNat 64 r.instances) := rfl

theorem get_initialRegs_instances (r : Run) (param : List Byte) :
    Sparse.get 0 (initialRegs r param) 31 = BitVec.ofNat 64 r.instances :=
  Sparse.get_set_self _ _ _ _ (Sparse.sorted_set _ _ _ _ (Sparse.sorted_ofRange _ _ _ _))

theorem get_initialRegs_instNo (r : Run) (param : List Byte) :
    Sparse.get 0 (initialRegs r param) 30 = BitVec.ofNat 64 r.instNo := by
  rw [initialRegs_eq, Sparse.get_set_ne _ _ _ (by decide), Sparse.get_set_self _ _ _ _ (Sparse.sorted_ofRange _ _ _ _)]

theorem get_initialRegs_of_lt (r : Run) (param : List Byte) {i : Nat} (h : i < 30) :
    Sparse.get 0 (initialRegs r param) i = if r.regInit.testBit i then paramWord param i else 0 := by
  rw [initialRegs_eq, Sparse.get_set_ne _ _ _ (by omega), Sparse.get_set_ne _ _ _ (by omega), Sparse.get_ofRange]
  simp only [h, true_and]

/-- The initial s registers as numbers: R201 names three sources, and 0 for the rest. -/
theorem toNat_get_initialRegs {r : Run} (hno : r.instNo < 2 ^ 64) (hinst : r.instances < 2 ^ 64) (param : List Byte) {i : Nat}
    (hi : i < 32) :
    (Sparse.get 0 (initialRegs r param) i).toNat =
      if i = 30 then r.instNo else if i = 31 then r.instances
      else if r.regInit.testBit i then byteField param (8 * i) 8 else 0 := by
  obtain rfl | h30 := eq_or_ne i 30
  · rw [get_initialRegs_instNo, if_pos rfl, BitVec.toNat_ofNat, Nat.mod_eq_of_lt hno]
  obtain rfl | h31 := eq_or_ne i 31
  · rw [get_initialRegs_instances, if_neg h30, if_pos rfl, BitVec.toNat_ofNat, Nat.mod_eq_of_lt hinst]
  rw [get_initialRegs_of_lt r param (by omega), if_neg h30, if_neg h31, apply_ite BitVec.toNat, toNat_paramWord]
  rfl

/-- Settles O15: the s registers are those of `initialRegs`; the a and t registers and the word number begin as the defaults. -/
theorem initialRegisters : Obligations.InitialRegisters := by
  intro r param x hno hinst
  refine ⟨_, rfl, rfl, rfl, fun _ => ⟨rfl, rfl⟩, fun i hi => ?_⟩
  exact toNat_get_initialRegs hno hinst param hi

end Sys2Proof.Machine

/-! PROOFS. Tallies (spec/07): a `WAITGE` on a saturated or poisoned tally. -/

namespace Sys2Proof.Machine

/-! ### Where a `WAITGE` is evaluated (R215, R228, R241) -/

section
variable {s : State} {u : UnitId} {x : UnitCtx} {sl : Slice}

theorem exec_waitge_head {eng : Nat} {e : EngInsn} (h : AtHead s u eng x e sl) (hop : opOf e.word = 0x81) :
    exec (.waitge u (.head eng)) s = .next (doWaitHead x e sl (stepFree s)) :=
  headStep_at h (isOp_of hop) nofun

/-- The wake looks again at a `WAITGE` that waits at its queue head. -/
theorem exec_waitgeWake_head {eng : Nat} {e : EngInsn} (h : AtHead s u eng x e sl) (hop : opOf e.word = 0x81) (started : e.started = true)
    (heng : eng ≠ 0) : exec (.waitgeWake u eng) s = .next (doWaitHead x e sl (stepFree s)) :=
  calc exec (.waitgeWake u eng) s
    _ = headStep (isOp 0x81) eng u false (fun x e sl s => if e.started then doWaitHead x e sl s else s) s := if_neg heng
    _ = .next (if e.started then doWaitHead x e sl (stepFree s) else stepFree s) := headStep_at h (isOp_of hop) nofun
    _ = .next (doWaitHead x e sl (stepFree s)) := by rw [if_pos started]

theorem exec_waitge_issue {z : Seq} {w : InsnWord} (h : AtWord s u x z sl w) (hop : opOf w = 0x81) :
    exec (.waitge u .issue) s = .next (doWaitSeq x z sl w (fetchStep u sl z s)) :=
  issueStep_at h (isOp_of hop)

/-- The wake of `ENG` 0 looks again at a `WAITGE` that waits at the sequencer. -/
theorem exec_waitgeWake_seq {z : Seq} {w : InsnWord} (h : AtWord s u x z sl w) (hop : opOf w = 0x81) (heng : engOf w = 0) :
    exec (.waitgeWake u 0) s = .next (doWaitSeq x z sl w (fetchStep u sl z s)) :=
  issueStep_at h (by simp [isOp_of hop, heng])

end

/-! ### Tallies that no `WAITGE` can wait on (R240) -/

/-- A set `SAT` or `POISON` decides what a `WAITGE` finds, whatever the threshold; `POISON` comes first. -/
theorem waitFinds_of_sat_or_poison {t : Tally} (h : t.sat = true ∨ t.poison = true) (threshold : Nat) :
    waitFinds t threshold = .cause (if t.poison then 0x207 else 0x202) := by
  cases poison : t.poison with
  | true => simp [waitFinds, poison]
  | false =>
    have sat : t.sat = true := h.resolve_right (by simp [poison])
    simp [waitFinds, poison, sat]

theorem doWaitHead_of_cause {s : State} {x : UnitCtx} {e : EngInsn} {r : Run} {c : Nat} (hr : insnRun x e = some r)
    (ok : tallyOk s x r (fld 55 48 e.word) = true)
    (h : waitFinds (tally s x.slice x.unit (fld 55 48 e.word)) (waitThreshold r e.word e.sX) = .cause c) (sl : Slice) :
    doWaitHead x e sl s = insnFault x e c (syncAddr s x.unit (fld 55 48 e.word) 0) 0 s := by
  simp [doWaitHead, hr, ok, h]

theorem doWaitSeq_of_cause {s : State} {x : UnitCtx} {z : Seq} {w : InsnWord} {c : Nat} (heng : engOf w = 0)
    (ok : tallyOk s x z.run (fld 55 48 w) = true)
    (h : waitFinds (tally s x.slice x.unit (fld 55 48 w)) (waitThreshold z.run w (sReg z (rd w))) = .cause c) (sl : Slice) :
    doWaitSeq x z sl w s = seqFault x z z.pc c (syncAddr s x.unit (fld 55 48 w) 0) 0 s := by
  simp [doWaitSeq, heng, ok, h]

/-- Settles O21: a `WAITGE` finds the same cause first evaluated or woken, at its queue head or at the sequencer. -/
theorem waitOnSaturatedFaults : Obligations.WaitOnSaturatedFaults := by
  constructor
  · intro s u eng x e sl r head hop hr s1 i t ok h out
    have fault : doWaitHead x e sl s1 = insnFault x e (if t.poison then 0x207 else 0x202) (syncAddr s1 x.unit i 0) 0 s1 :=
      doWaitHead_of_cause hr ok (waitFinds_of_sat_or_poison h _) sl
    exact ⟨(exec_waitge_head head hop).trans (congrArg _ fault),
      fun started heng => (exec_waitgeWake_head head hop started heng).trans (congrArg _ fault)⟩
  · intro s u x z sl w word hop heng s1 i t ok h out
    have fault : doWaitSeq x z sl w s1 = seqFault x z z.pc (if t.poison then 0x207 else 0x202) (syncAddr s1 x.unit i 0) 0 s1 :=
      doWaitSeq_of_cause heng ok (waitFinds_of_sat_or_poison h _) sl
    exact ⟨(exec_waitge_issue word hop).trans (congrArg _ fault), (exec_waitgeWake_seq word hop heng).trans (congrArg _ fault)⟩

end Sys2Proof.Machine

/-! PROOFS. What every command keeps: the queue of commands, the bits of the anti-rollback counter, and the canonical form of memory. One lemma
for each operation of the model, from the shared ones up to the commands. -/

namespace Sys2Proof.Machine

/-- The queue of commands, the bits of the anti-rollback counter, and the canonical form of memory: what no command takes away. -/
def Keeps (s t : State) : Prop :=
  t.pending = s.pending ∧ (∀ i, s.boot.antiRollback.getLsbD i = true → t.boot.antiRollback.getLsbD i = true) ∧ (Canonical s → Canonical t)

theorem Keeps.refl (s : State) : Keeps s s := ⟨rfl, fun _ => id, id⟩

theorem Keeps.trans {s t u : State} (h : Keeps s t) (k : Keeps t u) : Keeps s u := by
  obtain ⟨hp, hc, hm⟩ := h
  obtain ⟨kp, kc, km⟩ := k
  exact ⟨kp.trans hp, fun i hi => kc i (hc i hi), fun hs => km (hm hs)⟩

theorem Keeps.ite {s t u : State} {c : Prop} [Decidable c] (h : Keeps s t) (k : Keeps s u) : Keeps s (if c then t else u) := by
  split
  · exact h
  · exact k

/-- Folding an operation that keeps them keeps them. -/
theorem foldl_keeps {α : Type} {s : State} {f : State → α → State} (h : ∀ t a, Keeps s t → Keeps s (f t a)) {l : List α} {t : State} (k : Keeps s t) :
    Keeps s (l.foldl f t) := by
  induction l generalizing t with
  | nil => exact k
  | cons a l ih => exact ih (h t a k)

/-- A command's outcome: a next state that keeps them, or a stop for a place that the block does not have. -/
def Ends (wf : Bool) (s : State) : Result → Prop
  | .next t => Keeps s t
  | .fault _ => wf = false
  | .refused _ => False

theorem Ends.ite {wf : Bool} {s : State} {c : Prop} [Decidable c] {r q : Result} (h : Ends wf s r) (k : Ends wf s q) :
    Ends wf s (if c then r else q) := by
  split
  · exact h
  · exact k

theorem Ends.next {wf : Bool} {s t : State} (k : Keeps s t) : Ends wf s (.next t) := k

theorem Ends.fault {wf : Bool} {s : State} {c : Prop} [Decidable c] {f : Fault} {r : Result} (h : c → wf = false) (k : Ends wf s r) :
    Ends wf s (if c then .fault f else r) := by
  split
  · exact h ‹_›
  · exact k

section
variable {s t : State} {wf : Bool}

/-! ### Shared operations -/

theorem mapSlice_keeps {id f} (k : Keeps s t) : Keeps s (mapSlice id f t) := k
theorem mapQueue_keeps {slice q f} (k : Keeps s t) : Keeps s (mapQueue slice q f t) := k
theorem mapContext_keeps {slice f} (k : Keeps s t) : Keeps s (mapContext slice f t) := k
theorem mapUnit_keeps {u slice f} (k : Keeps s t) : Keeps s (mapUnit u slice f t) := k
theorem emit_keeps {o} (k : Keeps s t) : Keeps s (emit o t) := k
theorem emitAll_keeps {os} (k : Keeps s t) : Keeps s (emitAll os t) := k
theorem setGroup_keeps {g x} (k : Keeps s t) : Keeps s (setGroup g x t) := k
theorem setLane_keeps {k0 x} (k : Keeps s t) : Keeps s (setLane k0 x t) := k
theorem setRoutes_keeps (k : Keeps s t) : Keeps s (setRoutes t) := k

theorem sendFrame_keeps {g nak q} (k : Keeps s t) : Keeps s (sendFrame g nak q t) := by
  unfold sendFrame
  dsimp only
  split
  · exact setGroup_keeps (.ite (emit_keeps (emit_keeps (setGroup_keeps k))) (emit_keeps (setGroup_keeps k)))
  · exact .ite (emit_keeps (emit_keeps (setGroup_keeps k))) (emit_keeps (setGroup_keeps k))

theorem pumpOne_keeps {u : State} (k : Keeps s t) (h : pumpOne t = some u) : Keeps s u := by
  obtain ⟨_, _, _, rfl⟩ := pumpOne_sends h
  exact k

theorem pump_keeps {n : Nat} (k : Keeps s t) : Keeps s (pump n t) := by
  obtain ⟨_, _, _, h⟩ := pump_sends n t
  rw [h]
  exact k

theorem closeBlocks_keeps (k : Keeps s t) : Keeps s (closeBlocks t) := .ite k (emitAll_keeps k)
theorem returnCredits_keeps (k : Keeps s t) : Keeps s (returnCredits t) :=
  foldl_keeps (fun _ _ k' => (foldl_keeps (fun _ _ k'' => (.ite (sendFrame_keeps k'') k'')) k')) k
theorem flushOutbox_keeps (k : Keeps s t) : Keeps s (flushOutbox t) := closeBlocks_keeps (returnCredits_keeps (pump_keeps k))
theorem sendParcel_keeps {q} (k : Keeps s t) : Keeps s (sendParcel q t) := flushOutbox_keeps k
theorem transmit_keeps {p} (k : Keeps s t) : Keeps s (transmit p t) := .ite (emit_keeps k) (sendParcel_keeps k)
theorem sendD2d_keeps {b m} (k : Keeps s t) : Keeps s (sendD2d b m t) := .ite (emit_keeps k) (sendParcel_keeps k)
theorem emitD2d_keeps {blks m} (k : Keeps s t) : Keeps s (emitD2d blks m t) := foldl_keeps (fun _ _ k' => (sendD2d_keeps k')) k
theorem raiseSource_keeps {n} (k : Keeps s t) : Keeps s (raiseSource n t) := .ite k (.ite (.ite k k) (sendD2d_keeps k))
theorem setMailbox_keeps {m b} (k : Keeps s t) : Keeps s (setMailbox m b t) := k
theorem refreshLevels_keeps (k : Keeps s t) : Keeps s (refreshLevels t) := k
theorem enterRing_keeps {r} (k : Keeps s t) : Keeps s (enterRing r t) := .ite (refreshLevels_keeps k) (raiseSource_keeps k)
theorem writeRecord_keeps {r} (k : Keeps s t) : Keeps s (writeRecord r t) := .ite (enterRing_keeps k) (sendD2d_keeps k)
theorem dropOwned_keeps {mine to'} (k : Keeps s t) : Keeps s (dropOwned mine to' t) := k
theorem dropRequests_keeps {slice q to'} (k : Keeps s t) : Keeps s (dropRequests slice q to' t) := dropOwned_keeps k
theorem setTallyAt_keeps {k0 t0} (k : Keeps s t) : Keeps s (setTallyAt k0 t0 t) := k
theorem mapImage_keeps {slice u i f} (k : Keeps s t) : Keeps s (mapImage slice u i f t) := mapContext_keeps k

theorem mapPlaced_keeps {slice u i f} (k : Keeps s t) : Keeps s (mapPlaced slice u i f t) := by
  unfold mapPlaced
  refine .ite ?_ ?_
  · exact mapImage_keeps k
  · split
    · exact setTallyAt_keeps k
    · exact k

theorem openEntry_keeps {slice seg page es r} (k : Keeps s t) : Keeps s (openEntry slice seg page es r t) := writeRecord_keeps k

theorem admitOne_keeps (k : Keeps s t) : Keeps s (admitOne t) := by
  unfold admitOne
  refine .ite ?_ ?_
  · exact k
  · split
    · exact k
    · exact openEntry_keeps k

theorem admitWaiting_keeps (k : Keeps s t) : Keeps s (admitWaiting t) := foldl_keeps (fun _ _ k' => (admitOne_keeps k')) k
theorem leaveOpenFaults_keeps {slice q} (k : Keeps s t) : Keeps s (leaveOpenFaults slice q t) := admitWaiting_keeps k
theorem askUnits_keeps {us} (k : Keeps s t) : Keeps s (askUnits us t) := k
theorem stopQueueWork_keeps {slice q : Nat} {to' : Owner} {rebase calls : Bool} (k : Keeps s t) :
    Keeps s (stopQueueWork slice q to' rebase calls t) :=
  mapSlice_keeps (dropRequests_keeps (slice := slice) (q := q) (to' := to') (leaveOpenFaults_keeps (askUnits_keeps k)))
theorem reportQueue_keeps {slice q} (k : Keeps s t) : Keeps s (reportQueue slice q t) := .ite k (sendD2d_keeps k)
theorem closeQueue_keeps {slice q status seq} (k : Keeps s t) : Keeps s (closeQueue slice q status seq t) :=
  emitD2d_keeps (reportQueue_keeps (mapQueue_keeps k))
theorem stopQueue_keeps {slice q status r} (k : Keeps s t) : Keeps s (stopQueue slice q status r t) :=
  .ite (closeQueue_keeps (stopQueueWork_keeps (writeRecord_keeps k))) (sendD2d_keeps (stopQueueWork_keeps (writeRecord_keeps k)))
theorem noteFault_keeps {slice q engine pc} (k : Keeps s t) : Keeps s (noteFault slice q engine pc t) := k
theorem execFault_keeps {u slice eng q d pc cause addr detail} (k : Keeps s t) :
    Keeps s (execFault u slice eng q d pc cause addr detail t) :=
  stopQueue_keeps (noteFault_keeps k)
theorem insnFault_keeps {x e cause addr detail} (k : Keeps s t) : Keeps s (insnFault x e cause addr detail t) := execFault_keeps k

theorem wakeEngineWaits_keeps {u} (k : Keeps s t) : Keeps s (wakeEngineWaits u t) := by
  unfold wakeEngineWaits
  split
  · exact k
  · exact emitAll_keeps k

theorem checkPairs_keeps {c u slice i} (k : Keeps s t) : Keeps s (checkPairs c u slice i t) := by
  unfold checkPairs
  split
  · exact k
  · split
    · exact k
    · exact execFault_keeps (mapUnit_keeps k)

theorem noteIncrement_keeps {k0 amount} (k : Keeps s t) : Keeps s (noteIncrement k0 amount t) := k

theorem addTallyFrom_keeps {c u slice i amount} (k : Keeps s t) : Keeps s (addTallyFrom c u slice i amount t) := by
  unfold addTallyFrom
  split
  · exact k
  · exact .ite k (checkPairs_keeps (wakeEngineWaits_keeps (setTallyAt_keeps (noteIncrement_keeps k))))

theorem addTally_keeps {u slice i amount} (k : Keeps s t) : Keeps s (addTally u slice i amount t) := addTallyFrom_keeps k
theorem poisonUnit_keeps {slice u} (k : Keeps s t) : Keeps s (poisonUnit slice u t) :=
  wakeEngineWaits_keeps (foldl_keeps (fun _ _ k' => (mapPlaced_keeps k')) k)
theorem poisonContext_keeps {slice} (k : Keeps s t) : Keeps s (poisonContext slice t) :=
  foldl_keeps (fun _ _ k' => (poisonUnit_keeps k')) k

theorem memWrite_keeps {addr slot : Nat} {data : List Byte} (k : Keeps s t) : Keeps s (memWrite addr slot data t) := by
  obtain ⟨hp, hc, hm⟩ := k
  obtain ⟨m, n, h⟩ := memWrite_only addr slot data t
  refine ⟨?_, ?_, fun hs => memWrite_canonical addr slot data t (hm hs)⟩
  · rw [h]; exact hp
  · rw [h]; exact hc

theorem issueReq_keeps {r} (k : Keeps s t) : Keeps s (issueReq r t) := by
  unfold issueReq
  dsimp only
  refine .ite ?_ ?_
  · exact k
  · split
    · exact memWrite_keeps k
    · split
      · exact k
      · exact memWrite_keeps k

theorem drainList_keeps {rs : List MemReq} (k : Keeps s t) : Keeps s (drainList rs t) := by
  induction rs generalizing t with
  | nil => exact k
  | cons r rs ih =>
    unfold drainList
    split
    · exact k
    · exact ih (issueReq_keeps k)

theorem drainPorts_keeps (k : Keeps s t) : Keeps s (drainPorts t) := drainList_keeps k
theorem mpRequest_keeps {rs} (k : Keeps s t) : Keeps s (mpRequest rs t) := drainPorts_keeps k
theorem transmitAll_keeps {ps} (k : Keeps s t) : Keeps s (transmitAll ps t) := foldl_keeps (fun _ _ k' => (transmit_keeps k')) k
theorem addPeer_keeps {slice node} (k : Keeps s t) : Keeps s (addPeer slice node t) := mapSlice_keeps (.ite (emit_keeps k) k)
theorem postRequest_keeps {slice p owner act} (k : Keeps s t) : Keeps s (postRequest slice p owner act t) := .ite (transmit_keeps k) k
theorem sendRequest_keeps {slice p owner act} (k : Keeps s t) : Keeps s (sendRequest slice p owner act t) :=
  postRequest_keeps (.ite (addPeer_keeps k) k)
theorem sendRequests_keeps {slice owner ps} (k : Keeps s t) : Keeps s (sendRequests slice owner ps t) :=
  foldl_keeps (fun _ _ k' => (sendRequest_keeps k')) k
theorem releaseWaiting_keeps (k : Keeps s t) : Keeps s (releaseWaiting t) := transmitAll_keeps k
theorem respond_keeps {p status cause payload} (k : Keeps s t) : Keeps s (respond p status cause payload t) := transmit_keeps k

theorem sramWrite_keeps {slice u x data} (k : Keeps s t) : Keeps s (sramWrite slice u x data t) := by
  unfold sramWrite
  split
  · exact mapUnit_keeps k
  · exact k

theorem countFixes_keeps {slice bad} (k : Keeps s t) : Keeps s (countFixes slice bad t) := .ite k (mapSlice_keeps k)

/-! ### Translation -/

theorem startWalk_keeps {sl place k0 seg page ds} (k : Keeps s t) : Keeps s (startWalk sl place k0 seg page ds t) := .ite k (.ite k k)
theorem fillPage_keeps {slice seg page psize gen places u} (k : Keeps s t) : Keeps s (fillPage slice seg page psize gen places u t) := k

theorem cachePages_keeps {place sl va len} (k : Keeps s t) : Keeps s (cachePages place sl va len t) := by
  unfold cachePages
  split
  · exact k
  · exact foldl_keeps (fun _ _ k' => (.ite k' (by split; exacts [fillPage_keeps k', by split; exacts [fillPage_keeps k', k']]))) k

theorem prefetch_keeps {sl place k0 seg parts} (k : Keeps s t) : Keeps s (prefetch sl place k0 seg parts t) :=
  foldl_keeps (fun _ _ k' => (by dsimp only; split; exacts [.ite (cachePages_keeps k') k', startWalk_keeps k'])) k
theorem stallEngines_keeps {slice seg page es r} (k : Keeps s t) : Keeps s (stallEngines slice seg page es r t) :=
  .ite k (.ite (openEntry_keeps k) k)

theorem setBitHere_keeps {pa bit} (k : Keeps s t) : Keeps s (setBitHere pa bit t) := by
  unfold setBitHere
  dsimp only
  split <;> exact memWrite_keeps k

theorem mgmtRequest_keeps {slice node owner m} (k : Keeps s t) : Keeps s (mgmtRequest slice node owner m t) :=
  emit_keeps (postRequest_keeps k)
theorem orBit_keeps {slice owner pa bit} (k : Keeps s t) : Keeps s (orBit slice owner pa bit t) :=
  .ite (setBitHere_keeps k) (mgmtRequest_keeps k)

theorem logPages_keeps {owner sl seg va len} (k : Keeps s t) : Keeps s (logPages owner sl seg va len t) := by
  unfold logPages
  split
  · exact k
  · exact foldl_keeps (fun _ _ k' => (orBit_keeps k')) k

theorem tetherPages_keeps {slice seg g va len} (k : Keeps s t) : Keeps s (tetherPages slice seg g va len t) := .ite (mapSlice_keeps k) k
theorem logSegment_keeps {owner sl k0 seg va len} (k : Keeps s t) : Keeps s (logSegment owner sl k0 seg va len t) :=
  .ite k (tetherPages_keeps (logPages_keeps k))

theorem logWrite_keeps {owner sl k0 va len} (k : Keeps s t) : Keeps s (logWrite owner sl k0 va len t) := by
  unfold logWrite
  split
  · exact k
  · exact logSegment_keeps k

/-! ### Translated traffic -/

theorem nameVa_keeps {n ps row} (k : Keeps s t) : Keeps s (nameVa n ps row t) := k
theorem readPiece_keeps {slice tc owner act p} (k : Keeps s t) : Keeps s (readPiece slice tc owner act p t) :=
  .ite (mpRequest_keeps k) (foldl_keeps (fun _ _ k' => (sendRequest_keeps k')) k)
theorem writePiece_keeps {slice tc owner pa key data} (k : Keeps s t) : Keeps s (writePiece slice tc owner pa key data t) :=
  .ite (mpRequest_keeps k) (foldl_keeps (fun _ _ k' => (sendRequest_keeps k')) k)

theorem writePieces_keeps {slice tc : Nat} {owner : Owner} {ps : List Piece} {bs : List Byte} (k : Keeps s t) :
    Keeps s (writePieces slice tc owner ps bs t) := by
  induction ps generalizing bs t with
  | nil => exact k
  | cons p ps ih => exact ih (writePiece_keeps k)

theorem atomPiece_keeps {slice tc owner act pa key width sub fmt operand compare} (k : Keeps s t) :
    Keeps s (atomPiece slice tc owner act pa key width sub fmt operand compare t) :=
  .ite (mpRequest_keeps k) (sendRequest_keeps k)
theorem reducePiece_keeps {slice tc owner act pa key sub fmt data} (k : Keeps s t) :
    Keeps s (reducePiece slice tc owner act pa key sub fmt data t) :=
  .ite (mpRequest_keeps k) (sendRequest_keeps k)

theorem meetStop_keeps {sl e q d pc k0 row stalls place x} (k : Keeps s t) :
    Keeps s (meetStop sl e q d pc k0 row stalls place x t) := by
  unfold meetStop
  split
  · exact startWalk_keeps k
  · exact .ite (stallEngines_keeps k) (stopQueue_keeps k)
  · exact stopQueue_keeps k

/-! ### The front end -/

theorem takeDoorbell_keeps {slice q value tick} (k : Keeps s t) : Keeps s (takeDoorbell slice q value tick t) := by
  unfold takeDoorbell
  split
  · exact k
  · exact .ite (reportQueue_keeps (mapQueue_keeps k)) (.ite (stopQueue_keeps (mapQueue_keeps k)) (reportQueue_keeps (mapQueue_keeps k)))

theorem execDoorbellWrite_ends {id offset size value} : Ends wf s (execDoorbellWrite id offset size value s) := by
  unfold execDoorbellWrite
  dsimp only
  refine .ite ?_ ?_
  · exact .next (.refl s)
  · split
    · exact .next (.refl s)
    · refine .ite ?_ ?_
      · exact .next (mapSlice_keeps (.refl s))
      · refine .ite ?_ ?_
        · exact .next (.refl s)
        · split
          · exact .next (.refl s)
          · exact .ite (.next (takeDoorbell_keeps (.refl s))) (.next (sendD2d_keeps (.refl s)))

theorem execDoorbellForward_ends {slice queue value} : Ends wf s (execDoorbellForward slice queue value s) := by
  unfold execDoorbellForward
  split
  · exact .next (.refl s)
  · exact .ite (.next (takeDoorbell_keeps (.refl s))) (.next (.refl s))

theorem rejectDesc_keeps {slice q k0 tag status} (k : Keeps s t) : Keeps s (rejectDesc slice q k0 tag status t) := stopQueue_keeps k

theorem frontFault_keeps {sl q k0 tag x} (k : Keeps s t) : Keeps s (frontFault sl q k0 tag x t) := by
  unfold frontFault
  split
  · exact stopQueue_keeps k
  · exact .ite (stallEngines_keeps k) (stopQueue_keeps k)
  · exact stopQueue_keeps k

theorem wantContext_keeps {slice} (k : Keeps s t) : Keeps s (wantContext slice t) := mapContext_keeps k
theorem stepFree_keeps (k : Keeps s t) : Keeps s (stepFree t) := k

theorem execDescriptorFetch_ends {slice queue} : Ends wf s (execDescriptorFetch slice queue s) := by
  unfold execDescriptorFetch
  split
  · refine .ite ?_ ?_
    · exact .next (.refl s)
    · refine .ite ?_ ?_
      · exact .next (mapQueue_keeps (.refl s))
      · dsimp only
        split
        · exact .next (frontFault_keeps (cachePages_keeps (stepFree_keeps (.refl s))))
        · split
          · exact .next (frontFault_keeps (cachePages_keeps (stepFree_keeps (.refl s))))
          · split
            · exact .next (reportQueue_keeps (wantContext_keeps (mapQueue_keeps (cachePages_keeps (stepFree_keeps (.refl s))))))
            · exact .next (rejectDesc_keeps (cachePages_keeps (stepFree_keeps (.refl s))))
  · exact .next (.refl s)

theorem mapDesc_keeps {slice q k0 f} (k : Keeps s t) : Keeps s (mapDesc slice q k0 f t) := mapQueue_keeps k
theorem startDesc_keeps {slice q k0 phase} (k : Keeps s t) : Keeps s (startDesc slice q k0 phase t) := mapDesc_keeps k
theorem timeDesc_keeps {slice q k0} (k : Keeps s t) : Keeps s (timeDesc slice q k0 t) := mapDesc_keeps k

theorem execNop_ends {slice queue} : Ends wf s (execNop slice queue s) := by
  unfold execNop
  split
  · exact .ite (.next (startDesc_keeps (.refl s))) (.next (.refl s))
  · exact .next (.refl s)

theorem execFence_ends {slice queue} : Ends wf s (execFence slice queue s) := by
  unfold execFence
  split
  · exact .ite (.next (startDesc_keeps (.refl s))) (.next (.refl s))
  · exact .next (.refl s)

theorem addRuns_keeps {slice q target mk instances} (k : Keeps s t) : Keeps s (addRuns slice q target mk instances t) :=
  foldl_keeps (fun _ _ k' => (sendD2d_keeps k')) (mapSlice_keeps k)

theorem execLaunch_ends {slice queue} : Ends wf s (execLaunch slice queue s) := by
  unfold execLaunch
  split
  · exact .next (.refl s)
  · split
    · exact .next (mapDesc_keeps (startDesc_keeps (addRuns_keeps (.refl s))))
    · exact .next (.refl s)

theorem execCopy_ends {slice queue} : Ends wf s (execCopy slice queue s) := by
  unfold execCopy
  split
  · exact .next (.refl s)
  · split
    · dsimp only
      refine .ite ?_ ?_
      · exact .next (.refl s)
      · split
        · exact .next (meetStop_keeps (timeDesc_keeps (stepFree_keeps (.refl s))))
        · split
          · exact .next (meetStop_keeps (timeDesc_keeps (stepFree_keeps (.refl s))))
          · exact .next (nameVa_keeps (foldl_keeps (fun _ _ k' => (readPiece_keeps k'))
              (logWrite_keeps (cachePages_keeps (cachePages_keeps (startDesc_keeps (stepFree_keeps (.refl s))))))))
    · exact .next (.refl s)

theorem execFill_ends {slice queue} : Ends wf s (execFill slice queue s) := by
  unfold execFill
  split
  · exact .next (.refl s)
  · split
    · dsimp only
      refine .ite ?_ ?_
      · exact .next (.refl s)
      · split
        · exact .next (meetStop_keeps (timeDesc_keeps (stepFree_keeps (.refl s))))
        · exact .next (nameVa_keeps (writePieces_keeps (logWrite_keeps (cachePages_keeps (startDesc_keeps (stepFree_keeps (.refl s)))))))
    · exact .next (.refl s)

theorem execSignal_ends {slice queue} : Ends wf s (execSignal slice queue s) := by
  unfold execSignal
  split
  · exact .next (.refl s)
  · split
    · dsimp only
      refine .ite ?_ ?_
      · exact .next (.refl s)
      · split
        · exact .next (meetStop_keeps (timeDesc_keeps (stepFree_keeps (.refl s))))
        · exact .next (nameVa_keeps (foldl_keeps (fun _ _ k' => (atomPiece_keeps k'))
            (logWrite_keeps (cachePages_keeps (startDesc_keeps (stepFree_keeps (.refl s)))))))
    · exact .next (.refl s)

theorem readWaitWord_keeps {sl q d va v} (k : Keeps s t) : Keeps s (readWaitWord sl q d va v t) := by
  unfold readWaitWord
  split
  · exact meetStop_keeps k
  · exact mapDesc_keeps k

theorem execWait_ends {slice queue} : Ends wf s (execWait slice queue s) := by
  unfold execWait
  split
  · exact .next (.refl s)
  · split
    · exact .ite (.next (.refl s)) (.next (readWaitWord_keeps (startDesc_keeps (stepFree_keeps (.refl s)))))
    · exact .next (.refl s)

theorem execWaitReread_ends {slice queue} : Ends wf s (execWaitReread slice queue s) := by
  unfold execWaitReread
  split
  · refine .ite ?_ ?_
    · exact .next (.refl s)
    · split
      · split
        · exact .next (readWaitWord_keeps (stepFree_keeps (.refl s)))
        · exact .next (.refl s)
      · exact .next (.refl s)
  · exact .next (.refl s)

theorem completeDescriptor_keeps {slice queue index} (k : Keeps s t) : Keeps s (completeDescriptor slice queue index t) := by
  unfold completeDescriptor
  split
  · refine .ite ?_ ?_
    · exact k
    · split
      · exact k
      · exact reportQueue_keeps (mapQueue_keeps (.ite (mapSlice_keeps (mapDesc_keeps k)) k))
  · exact k

theorem execQueueTimeout_ends {slice queue} : Ends wf s (execQueueTimeout slice queue s) := by
  unfold execQueueTimeout
  split
  · exact .next (.refl s)
  · refine .ite ?_ ?_
    · exact .next (.refl s)
    · dsimp only
      split <;> exact .next (stopQueue_keeps (.refl s))

/-! ### Runs -/

theorem mirrorParams_keeps {slice handle} (k : Keeps s t) : Keeps s (mirrorParams slice handle t) := by
  unfold mirrorParams
  split
  · exact k
  · split
    · exact k
    · exact .ite (emit_keeps k) k

theorem execLaunchGraph_ends {slice queue} : Ends wf s (execLaunchGraph slice queue s) := by
  unfold execLaunchGraph
  split
  · exact .next (.refl s)
  · split
    · refine .ite ?_ ?_
      · exact .next (.refl s)
      · dsimp only
        split
        · refine .ite ?_ ?_
          · exact .next (timeDesc_keeps (stepFree_keeps (.refl s)))
          · refine .ite ?_ ?_
            · exact .next (.ite (rejectDesc_keeps (stepFree_keeps (.refl s))) (.ite (timeDesc_keeps (stepFree_keeps (.refl s)))
                (startDesc_keeps (mirrorParams_keeps (mapSlice_keeps (stepFree_keeps (.refl s)))))))
            · split
              · exact .next (frontFault_keeps (timeDesc_keeps (stepFree_keeps (.refl s))))
              · exact .next (rejectDesc_keeps (stepFree_keeps (.refl s)))
              · exact .next (.ite (rejectDesc_keeps (stepFree_keeps (.refl s))) (.ite (timeDesc_keeps (stepFree_keeps (.refl s)))
                  (startDesc_keeps (mirrorParams_keeps (mapSlice_keeps (stepFree_keeps (.refl s)))))))
        · refine .ite ?_ ?_
          · exact .next (timeDesc_keeps (stepFree_keeps (.refl s)))
          · split
            · exact .next (frontFault_keeps (timeDesc_keeps (stepFree_keeps (.refl s))))
            · exact .next (rejectDesc_keeps (stepFree_keeps (.refl s)))
            · exact .next (.ite (rejectDesc_keeps (.ite (mapSlice_keeps (stepFree_keeps (.refl s))) (stepFree_keeps (.refl s))))
                (.ite (timeDesc_keeps (.ite (mapSlice_keeps (stepFree_keeps (.refl s))) (stepFree_keeps (.refl s))))
                (startDesc_keeps (mirrorParams_keeps (mapSlice_keeps (.ite (mapSlice_keeps (stepFree_keeps (.refl s))) (stepFree_keeps (.refl s))))))))
    · exact .next (.refl s)

theorem execGraphNodeStart_ends {slice handle launch node} : Ends wf s (execGraphNodeStart slice handle launch node s) := by
  unfold execGraphNodeStart
  split
  · exact .next (.refl s)
  · split
    · exact .next (.refl s)
    · split
      · split
        · exact .next (.refl s)
        · exact .ite (.next (.refl s)) (.next (mapSlice_keeps (addRuns_keeps (.refl s))))
      · exact .next (.refl s)

theorem coreSigns_keeps {r} (k : Keeps s t) : Keeps s (coreSigns r t) := by
  unfold coreSigns
  split <;> exact k

theorem noteLate_keeps {slice u r first} (k : Keeps s t) : Keeps s (noteLate slice u r first t) := .ite (writeRecord_keeps k) k

theorem execRunStart_ends {unit slice} : Ends wf s (execRunStart unit slice s) := by
  unfold execRunStart
  split
  · refine .ite ?_ ?_
    · exact .next (.refl s)
    · split
      · exact .next (.refl s)
      · dsimp only
        refine .ite ?_ ?_
        · exact .next (.refl s)
        · refine .ite ?_ ?_
          · exact .next (execFault_keeps (stepFree_keeps (.refl s)))
          · split
            · exact .next (meetStop_keeps (stepFree_keeps (.refl s)))
            · refine mapContext_keeps ?_
              refine mapUnit_keeps ?_
              refine coreSigns_keeps ?_
              refine mapSlice_keeps ?_
              refine noteLate_keeps ?_
              split
              · exact cachePages_keeps (stepFree_keeps (.refl s))
              · exact stepFree_keeps (.refl s)
  · exact .next (.refl s)

theorem unpairTallies_keeps {u slice p} (k : Keeps s t) : Keeps s (unpairTallies u slice p t) :=
  foldl_keeps (fun _ _ k' => (mapPlaced_keeps k')) k

theorem dissolveRunPairs_keeps {u slice run} (k : Keeps s t) : Keeps s (dissolveRunPairs u slice run t) := by
  unfold dissolveRunPairs
  split
  · exact k
  · exact mapUnit_keeps (foldl_keeps (fun _ _ k' => (unpairTallies_keeps k')) k)

theorem takeRunDone_keeps {slice queue desc node} (k : Keeps s t) : Keeps s (takeRunDone slice queue desc node t) := by
  unfold takeRunDone
  split
  · exact mapDesc_keeps k
  · exact mapSlice_keeps k

theorem countRun_keeps {slice r} (k : Keeps s t) : Keeps s (countRun slice r t) := by
  unfold countRun
  split
  · exact sendD2d_keeps k
  · exact takeRunDone_keeps k

theorem takeDispatch_keeps {slice r} (k : Keeps s t) : Keeps s (takeDispatch slice r t) := wantContext_keeps (mapSlice_keeps k)

theorem takeQueueStop_keeps {slice q status seq} (k : Keeps s t) : Keeps s (takeQueueStop slice q status seq t) := by
  unfold takeQueueStop
  split
  · exact .ite (closeQueue_keeps (stopQueueWork_keeps k)) k
  · exact k

theorem execRunComplete_ends {unit slice run} : Ends wf s (execRunComplete unit slice run s) := by
  unfold execRunComplete
  split
  · exact .next (.refl s)
  · split
    · exact .next (.refl s)
    · exact .ite (.next (.refl s)) (.next (countRun_keeps (mapUnit_keeps (dissolveRunPairs_keeps (.refl s)))))

/-! ### The sequencer -/

theorem seqFault_keeps {x z pc cause addr detail} (k : Keeps s t) : Keeps s (seqFault x z pc cause addr detail t) := execFault_keeps k
theorem putSeq_keeps {x z} (k : Keeps s t) : Keeps s (putSeq x z t) := mapUnit_keeps k
theorem goTo_keeps {x z target} (k : Keeps s t) : Keeps s (goTo x z target t) := .ite (putSeq_keeps k) (seqFault_keeps k)
theorem goNext_keeps {x z} (k : Keeps s t) : Keeps s (goNext x z t) := goTo_keeps k
theorem fetchStep_keeps {u sl z} (k : Keeps s t) : Keeps s (fetchStep u sl z t) := cachePages_keeps (stepFree_keeps k)

theorem issueStep_ends {sel u k0} (hk0 : ∀ a1 a2 a3 a4 t, Keeps s t → Keeps s (k0 a1 a2 a3 a4 t)) :
    Ends wf s (issueStep sel u k0 s) := by
  unfold issueStep
  split
  · exact .next (.refl s)
  · split
    · refine .ite ?_ ?_
      · exact .next (.refl s)
      · dsimp only
        split
        · exact .next (meetStop_keeps (fetchStep_keeps (.refl s)))
        · exact .ite (.next (seqFault_keeps (fetchStep_keeps (.refl s)))) (.ite (.next (.refl s)) (.next (hk0 _ _ _ _ _ (fetchStep_keeps (.refl s)))))
    · exact .next (.refl s)

theorem doBr_keeps {x z x' w} (k : Keeps s t) : Keeps s (doBr x z x' w t) :=
  .ite (seqFault_keeps k) (.ite (goTo_keeps k) (goNext_keeps k))
theorem execBr_ends {unit} : Ends wf s (execBr unit s) := issueStep_ends (fun _ _ _ _ _ k' => (doBr_keeps k'))

theorem doLoop_keeps {x z sl w} (k : Keeps s t) : Keeps s (doLoop x z sl w t) := by
  unfold doLoop
  dsimp only
  refine .ite ?_ ?_
  · exact seqFault_keeps k
  · split
    · exact meetStop_keeps k
    · exact .ite (seqFault_keeps k) (.ite (seqFault_keeps k) (.ite (goTo_keeps k) (goNext_keeps k)))

theorem execLoop_ends {unit} : Ends wf s (execLoop unit s) := issueStep_ends (fun _ _ _ _ _ k' => (doLoop_keeps k'))

theorem doEndloop_keeps {x z x' x''} (k : Keeps s t) : Keeps s (doEndloop x z x' x'' t) := by
  unfold doEndloop
  split
  · exact seqFault_keeps k
  · exact .ite (goTo_keeps k) (goNext_keeps k)

theorem execEndloop_ends {unit} : Ends wf s (execEndloop unit s) := issueStep_ends (fun _ _ _ _ _ k' => (doEndloop_keeps k'))
theorem doHalt_keeps {x z x' x''} (k : Keeps s t) : Keeps s (doHalt x z x' x'' t) := mapUnit_keeps k
theorem execHalt_ends {unit} : Ends wf s (execHalt unit s) := issueStep_ends (fun _ _ _ _ _ k' => (doHalt_keeps k'))
theorem doAdd_keeps {x z x' w} (k : Keeps s t) : Keeps s (doAdd x z x' w t) := goNext_keeps k
theorem execAdd_ends {unit} : Ends wf s (execAdd unit s) := issueStep_ends (fun _ _ _ _ _ k' => (doAdd_keeps k'))
theorem doShl_keeps {x z x' w} (k : Keeps s t) : Keeps s (doShl x z x' w t) := goNext_keeps k
theorem execShl_ends {unit} : Ends wf s (execShl unit s) := issueStep_ends (fun _ _ _ _ _ k' => (doShl_keeps k'))
theorem doLdp_keeps {x z x' w} (k : Keeps s t) : Keeps s (doLdp x z x' w t) :=
  .ite (.ite (seqFault_keeps k) (.ite (seqFault_keeps k) (.ite (seqFault_keeps k) (goNext_keeps (countFixes_keeps k))))) (.ite (seqFault_keeps k)
    (goNext_keeps k))
theorem execLdp_ends {unit} : Ends wf s (execLdp unit s) := issueStep_ends (fun _ _ _ _ _ k' => (doLdp_keeps k'))
theorem doMov_keeps {x z x' w} (k : Keeps s t) : Keeps s (doMov x z x' w t) := goNext_keeps k
theorem execMov_ends {unit} : Ends wf s (execMov unit s) := issueStep_ends (fun _ _ _ _ _ k' => (doMov_keeps k'))
theorem doIssue_keeps {x z x' w} (k : Keeps s t) : Keeps s (doIssue x z x' w t) := .ite (goNext_keeps (mapUnit_keeps k)) k
theorem mapInsn_keeps {x id f} (k : Keeps s t) : Keeps s (mapInsn x id f t) := mapUnit_keeps k
theorem retire_keeps {x id} (k : Keeps s t) : Keeps s (retire x id t) := mapUnit_keeps k

theorem headStep_ends {sel eng u needOldest k0} (hk0 : ∀ a1 a2 a3 t, Keeps s t → Keeps s (k0 a1 a2 a3 t)) :
    Ends wf s (headStep sel eng u needOldest k0 s) := by
  unfold headStep
  split
  · exact .next (.refl s)
  · split
    · exact .ite (.next (.refl s)) (.next (hk0 _ _ _ _ (stepFree_keeps (.refl s))))
    · exact .next (.refl s)

theorem engineStep_ends {op u needOldest k0 ph} (hk0 : ∀ a1 a2 a3 t, Keeps s t → Keeps s (k0 a1 a2 a3 t)) :
    Ends wf s (engineStep op u needOldest k0 ph s) := by
  unfold engineStep
  split
  · exact issueStep_ends (fun _ _ _ _ _ k' => (doIssue_keeps k'))
  · exact headStep_ends (fun _ _ _ _ k' => (hk0 _ _ _ _ k'))

/-! ### Tallies, gates and calls -/

theorem mailboxAdd_keeps {u slice tallyIx amount} (k : Keeps s t) : Keeps s (mailboxAdd u slice tallyIx amount t) := by
  unfold mailboxAdd
  refine .ite ?_ ?_
  · split
    · exact .ite k (checkPairs_keeps (mapContext_keeps k))
    · exact k
  · exact addTally_keeps k

theorem goNextIf_keeps {x z} (k : Keeps s t) : Keeps s (goNextIf x z t) := by
  unfold goNextIf
  split
  · exact .ite (goNext_keeps k) k
  · exact k

theorem doSigSeq_keeps {x z sl w} (k : Keeps s t) : Keeps s (doSigSeq x z sl w t) :=
  .ite (doIssue_keeps k) (.ite (seqFault_keeps k) (goNextIf_keeps (addTallyFrom_keeps k)))
theorem doSigHead_keeps {x e x'} (k : Keeps s t) : Keeps s (doSigHead x e x' t) :=
  .ite (insnFault_keeps k) (addTallyFrom_keeps (retire_keeps k))

theorem execSig_ends {unit ph} : Ends wf s (execSig unit ph s) := by
  unfold execSig
  split
  · exact issueStep_ends (fun _ _ _ _ _ k' => (doSigSeq_keeps k'))
  · exact headStep_ends (fun _ _ _ _ k' => (doSigHead_keeps k'))

theorem doWaitSeq_keeps {x z sl w} (k : Keeps s t) : Keeps s (doWaitSeq x z sl w t) := by
  unfold doWaitSeq
  refine .ite ?_ ?_
  · exact doIssue_keeps k
  · dsimp only
    refine .ite ?_ ?_
    · exact seqFault_keeps k
    · split
      · exact goNext_keeps k
      · exact k
      · exact seqFault_keeps k

theorem doWaitHead_keeps {x e x'} (k : Keeps s t) : Keeps s (doWaitHead x e x' t) := by
  unfold doWaitHead
  dsimp only
  split
  · exact k
  · refine .ite ?_ ?_
    · exact insnFault_keeps k
    · split
      · exact retire_keeps k
      · exact mapInsn_keeps k
      · exact insnFault_keeps k

theorem execWaitge_ends {unit ph} : Ends wf s (execWaitge unit ph s) := by
  unfold execWaitge
  split
  · exact issueStep_ends (fun _ _ _ _ _ k' => (doWaitSeq_keeps k'))
  · exact headStep_ends (fun _ _ _ _ k' => (doWaitHead_keeps k'))

theorem execWaitgeWake_ends {unit eng} : Ends wf s (execWaitgeWake unit eng s) :=
  .ite (issueStep_ends (fun _ _ _ _ _ k' => (doWaitSeq_keeps k'))) (headStep_ends (fun _ _ _ _ k' => (.ite (doWaitHead_keeps k') k')))

theorem setPaired_keeps {u slice i b} (k : Keeps s t) : Keeps s (setPaired u slice i b t) := by
  unfold setPaired
  split
  · exact setTallyAt_keeps k
  · exact k

theorem declarePair_keeps {x r w} (k : Keeps s t) : Keeps s (declarePair x r w t) := mapUnit_keeps (setPaired_keeps (setPaired_keeps k))
theorem dissolvePair_keeps {x w} (k : Keeps s t) : Keeps s (dissolvePair x w t) := mapUnit_keeps (setPaired_keeps (setPaired_keeps k))

theorem doDeclareSeq_keeps {x z sl w} (k : Keeps s t) : Keeps s (doDeclareSeq x z sl w t) := by
  unfold doDeclareSeq
  refine .ite ?_ ?_
  · exact doIssue_keeps k
  · split
    · exact seqFault_keeps k
    · exact goNextIf_keeps (declarePair_keeps k)

theorem doDeclareHead_keeps {x e x'} (k : Keeps s t) : Keeps s (doDeclareHead x e x' t) := by
  unfold doDeclareHead
  split
  · exact k
  · split
    · exact insnFault_keeps k
    · exact declarePair_keeps (retire_keeps k)

theorem execPairchkDeclare_ends {unit ph} : Ends wf s (execPairchkDeclare unit ph s) := by
  unfold execPairchkDeclare
  split
  · exact issueStep_ends (fun _ _ _ _ _ k' => (doDeclareSeq_keeps k'))
  · exact headStep_ends (fun _ _ _ _ k' => (doDeclareHead_keeps k'))

theorem doDissolveSeq_keeps {x z sl w} (k : Keeps s t) : Keeps s (doDissolveSeq x z sl w t) := by
  unfold doDissolveSeq
  refine .ite ?_ ?_
  · exact doIssue_keeps k
  · split
    · exact seqFault_keeps k
    · exact goNextIf_keeps (dissolvePair_keeps k)

theorem doDissolveHead_keeps {x e x'} (k : Keeps s t) : Keeps s (doDissolveHead x e x' t) := by
  unfold doDissolveHead
  split
  · exact k
  · split
    · exact insnFault_keeps k
    · exact dissolvePair_keeps (retire_keeps k)

theorem execPairchkDissolve_ends {unit ph} : Ends wf s (execPairchkDissolve unit ph s) := by
  unfold execPairchkDissolve
  split
  · exact issueStep_ends (fun _ _ _ _ _ k' => (doDissolveSeq_keeps k'))
  · exact headStep_ends (fun _ _ _ _ k' => (doDissolveHead_keeps k'))

theorem setGate_keeps {g x} (k : Keeps s t) : Keeps s (setGate g x t) := k
theorem countDiscard_keeps (k : Keeps s t) : Keeps s (countDiscard t) := k

theorem landRelease_keeps {home slice cluster gate gen} (k : Keeps s t) : Keeps s (landRelease home slice cluster gate gen t) := by
  unfold landRelease
  split
  · exact countDiscard_keeps k
  · exact mailboxAdd_keeps (retire_keeps k)

theorem sendReleases_keeps {home tag gate gen : Nat} {ps : List Participant} (k : Keeps s t) :
    Keeps s (sendReleases home tag gate gen ps t) := by
  induction ps generalizing t with
  | nil => exact k
  | cons p ps ih =>
    refine ih ?_
    split
    · split
      · exact landRelease_keeps k
      · exact countDiscard_keeps k
    · exact transmit_keeps k

theorem placeArrival_keeps {gate g} (k : Keeps s t) : Keeps s (placeArrival gate g t) :=
  .ite (sendReleases_keeps (setGate_keeps k)) (setGate_keeps k)

theorem doGateHead_keeps {x e sl} (k : Keeps s t) : Keeps s (doGateHead x e sl t) := by
  unfold doGateHead
  refine .ite ?_ ?_
  · exact k
  · refine .ite ?_ ?_
    · exact insnFault_keeps k
    · dsimp only
      refine .ite ?_ ?_
      · exact insnFault_keeps (mapInsn_keeps k)
      · refine .ite ?_ ?_
        · split
          · exact insnFault_keeps (mapInsn_keeps k)
          · exact placeArrival_keeps (mapInsn_keeps k)
        · exact sendRequest_keeps (mapInsn_keeps k)

theorem execGate_ends {unit ph} : Ends wf s (execGate unit ph s) := engineStep_ends (fun _ _ _ _ k' => (doGateHead_keeps k'))
theorem setEnginePort_keeps {p x} (k : Keeps s t) : Keeps s (setEnginePort p x t) := k

theorem doCallHead_keeps {x e x'} (k : Keeps s t) : Keeps s (doCallHead x e x' t) := by
  unfold doCallHead
  split
  · exact k
  · dsimp only
    split
    · exact k
    · exact emit_keeps (mapInsn_keeps (setEnginePort_keeps k))

theorem execEpcall_ends {unit ph} : Ends wf s (execEpcall unit ph s) :=
  engineStep_ends (fun _ _ _ _ k' => (doCallHead_keeps k'))

/-! ### Movers -/

theorem addPiece_keeps {slice tc o sub fmt at' p data} (k : Keeps s t) : Keeps s (addPiece slice tc o sub fmt at' p data t) :=
  .ite (foldl_keeps (fun _ _ k' => (reducePiece_keeps k')) (.ite k (writePiece_keeps k)))
    (writePiece_keeps (foldl_keeps (fun _ _ k' => (reducePiece_keeps k')) (.ite k (writePiece_keeps k))))

/-- Folding an operation on a state and a place that keeps them in the state keeps them. -/
theorem foldl_fst_keeps {α β : Type} {s : State} {f : State × β → α → State × β} (h : ∀ p a, Keeps s p.1 → Keeps s (f p a).1) {l : List α}
    {p : State × β} (k : Keeps s p.1) : Keeps s (l.foldl f p).1 := by
  induction l generalizing p with
  | nil => exact k
  | cons a l ih => exact ih (h p a k)

theorem jobRequests_keeps {x : UnitCtx} {e : EngInsn} {tc : Nat} {j : Job} {pss : List (List Piece)} (k : Keeps s t) :
    Keeps s (jobRequests x e tc j pss t) := by
  unfold jobRequests
  dsimp only
  split
  · exact foldl_fst_keeps (fun _ _ k' => readPiece_keeps k') k
  · exact writePieces_keeps k
  · exact foldl_keeps (fun _ _ k' => readPiece_keeps k') k
  · exact foldl_fst_keeps (fun _ _ k' => addPiece_keeps k') k
  · exact foldl_keeps (fun _ _ k' => atomPiece_keeps k') k
  · exact foldl_keeps (fun _ _ k' => sramWrite_keeps k') k
  · exact foldl_fst_keeps (fun _ _ k' => readPiece_keeps k') k
  · exact sendRequests_keeps k

theorem doJob_keeps {x e tc j pss} (k : Keeps s t) : Keeps s (doJob x e tc j pss t) := nameVa_keeps (jobRequests_keeps k)

theorem settleInsn_keeps {u slice id} (k : Keeps s t) : Keeps s (settleInsn u slice id t) := by
  unfold settleInsn
  split
  · exact k
  · split
    · exact k
    · split
      · exact k
      · exact .ite k (stopQueue_keeps k)

theorem holdFault_keeps {x id r} (k : Keeps s t) : Keeps s (holdFault x id r t) := settleInsn_keeps (mapInsn_keeps k)

theorem stopJob_keeps {x e sl j k0 st} (k : Keeps s t) : Keeps s (stopJob x e sl j k0 st t) := by
  unfold stopJob
  dsimp only
  split
  · exact startWalk_keeps k
  · exact holdFault_keeps k
  · exact holdFault_keeps k

theorem lookAhead_keeps {x e sl j rest} (k : Keeps s t) : Keeps s (lookAhead x e sl j rest t) :=
  foldl_keeps (fun _ _ k' => (foldl_keeps (fun _ _ k'' => (by split; exacts [prefetch_keeps k'', k''])) k')) k
theorem useRefs_keeps {x e sl j} (k : Keeps s t) : Keeps s (useRefs x e sl j t) :=
  foldl_keeps (fun _ _ k' => (by split; exacts [logSegment_keeps (cachePages_keeps k'), k'])) k

theorem runJobs_keeps {x : UnitCtx} {e : EngInsn} {sl : Slice} {tc : Nat} {last : State → State} {tile : Option Nat} {js : List Job}
    (hlast : ∀ t, Keeps s t → Keeps s (last t)) (k : Keeps s t) : Keeps s (runJobs x e sl tc last tile js t) := by
  induction js generalizing t tile with
  | nil => exact hlast t k
  | cons j js ih =>
    have hs : Keeps s (if tile = some j.tile then t else lookAhead x e sl j js t) := .ite k (lookAhead_keeps k)
    unfold runJobs
    dsimp only
    split
    · exact stopJob_keeps hs
    · exact .ite hs (ih (doJob_keeps (mapInsn_keeps (useRefs_keeps hs))))

theorem issuedWhole_keeps {x e} (k : Keeps s t) : Keeps s (issuedWhole x e t) := mapInsn_keeps k
theorem goJobs_keeps {x e sl jobs} (k : Keeps s t) : Keeps s (goJobs x e sl jobs t) :=
  .ite k (runJobs_keeps (fun _ k' => (issuedWhole_keeps k')) (mapInsn_keeps k))
theorem nothing_keeps {x e} (k : Keeps s t) : Keeps s (nothing x e t) := mapInsn_keeps k
theorem readSram_keeps {x e rs k0} (hk0 : ∀ t, Keeps s t → Keeps s (k0 t)) (k : Keeps s t) : Keeps s (readSram x e rs k0 t) :=
  .ite (insnFault_keeps k) (hk0 _ (countFixes_keeps k))
theorem doDmaLd_keeps {x e sl} (k : Keeps s t) : Keeps s (doDmaLd x e sl t) :=
  .ite (nothing_keeps k) (.ite (insnFault_keeps k) (goJobs_keeps k))
theorem execDmaLd_ends {unit ph} : Ends wf s (execDmaLd unit ph s) := engineStep_ends (fun _ _ _ _ k' => (doDmaLd_keeps k'))
theorem doDmaSt_keeps {x e sl} (k : Keeps s t) : Keeps s (doDmaSt x e sl t) :=
  .ite (nothing_keeps k) (.ite (insnFault_keeps k) (readSram_keeps (fun _ k' => (goJobs_keeps k')) k))
theorem execDmaSt_ends {unit ph} : Ends wf s (execDmaSt unit ph s) := engineStep_ends (fun _ _ _ _ k' => (doDmaSt_keeps k'))
theorem doDmaCopy_keeps {x e sl} (k : Keeps s t) : Keeps s (doDmaCopy x e sl t) := .ite (nothing_keeps k) (goJobs_keeps k)
theorem execDmaCopy_ends {unit ph} : Ends wf s (execDmaCopy unit ph s) :=
  engineStep_ends (fun _ _ _ _ k' => (doDmaCopy_keeps k'))
theorem doDmaBcast_keeps {x e sl} (k : Keeps s t) : Keeps s (doDmaBcast x e sl t) :=
  .ite (nothing_keeps k) (.ite (insnFault_keeps k) (.ite (insnFault_keeps k) (.ite (goJobs_keeps k) (.ite (insnFault_keeps k)
    (readSram_keeps (fun _ k' => (goJobs_keeps k')) k)))))
theorem execDmaBcast_ends {unit ph} : Ends wf s (execDmaBcast unit ph s) :=
  engineStep_ends (fun _ _ _ _ k' => (doDmaBcast_keeps k'))

theorem sendFlits_keeps {x : UnitCtx} {e : EngInsn} {sl : Slice} {tc : Nat} {fs : List (Nat × Nat)} (k : Keeps s t) :
    Keeps s (sendFlits x e sl tc fs t) := by
  induction fs generalizing t with
  | nil => exact issuedWhole_keeps k
  | cons f fs ih =>
    unfold sendFlits
    dsimp only
    split
    · exact k
    · split
      · exact stopJob_keeps k
      · exact ih (nameVa_keeps (writePieces_keeps (mapInsn_keeps (useRefs_keeps k))))

theorem goPacked_keeps {x e sl jobs} (k : Keeps s t) : Keeps s (goPacked x e sl jobs t) :=
  .ite k (runJobs_keeps (fun _ k' => (sendFlits_keeps k')) (mapInsn_keeps k))

theorem doGather_keeps {x : UnitCtx} {e : EngInsn} {sl : Slice} (k : Keeps s t) : Keeps s (doGather x e sl t) := by
  unfold doGather
  refine .ite (insnFault_keeps k) (.ite (nothing_keeps k) (.ite (insnFault_keeps k) (readSram_keeps (fun t k' => ?_) k)))
  split
  · exact goPacked_keeps k'
  · exact goJobs_keeps k'

theorem execGather_ends {unit ph} : Ends wf s (execGather unit ph s) :=
  engineStep_ends (fun _ _ _ _ k' => (doGather_keeps k'))
theorem doScatter_keeps {x e sl} (k : Keeps s t) : Keeps s (doScatter x e sl t) :=
  .ite (insnFault_keeps k) (.ite (insnFault_keeps k) (.ite (nothing_keeps k) (.ite (insnFault_keeps k)
    (readSram_keeps (fun _ k' => (goJobs_keeps k')) k))))
theorem execScatter_ends {unit ph} : Ends wf s (execScatter unit ph s) :=
  engineStep_ends (fun _ _ _ _ k' => (doScatter_keeps k'))

theorem writeStatus_keeps {x e v} (k : Keeps s t) : Keeps s (writeStatus x e v t) := by
  unfold writeStatus
  refine .ite ?_ ?_
  · exact k
  · split
    · exact sramWrite_keeps k
    · exact k

theorem appendIds_keeps {x e first ids} (k : Keeps s t) : Keeps s (appendIds x e first ids t) :=
  foldl_keeps (fun _ _ k' => (sramWrite_keeps k')) k
theorem walkAhead_keeps {x e sl} (k : Keeps s t) : Keeps s (walkAhead x e sl t) := .ite (lookAhead_keeps k) k
theorem vectorsAhead_keeps {x e sl ids} (k : Keeps s t) : Keeps s (vectorsAhead x e sl ids t) :=
  foldl_keeps (fun _ _ k' => (by split; exacts [prefetch_keeps k', k'])) k

theorem runVectors_keeps {x : UnitCtx} {e : EngInsn} {sl : Slice} {tc : Nat} {js : List Job} (k : Keeps s t) :
    Keeps s (runVectors x e sl tc js t) := by
  induction js generalizing t with
  | nil => exact k
  | cons j js ih =>
    unfold runVectors
    split
    · exact stopJob_keeps k
    · split
      · exact k
      · exact ih (doJob_keeps (mapInsn_keeps (useRefs_keeps k)))

theorem walkStep_keeps {x e sl} (k : Keeps s t) : Keeps s (walkStep x e sl t) := by
  unfold walkStep
  dsimp only
  refine .ite ?_ ?_
  · exact .ite (insnFault_keeps k) (runVectors_keeps (countFixes_keeps k))
  · refine .ite ?_ ?_
    · exact .ite k (writeStatus_keeps (mapInsn_keeps k))
    · refine .ite ?_ ?_
      · exact mapInsn_keeps (.ite (vectorsAhead_keeps (appendIds_keeps (mapUnit_keeps k))) (appendIds_keeps (mapUnit_keeps k)))
      · refine .ite ?_ ?_
        · exact k
        · split
          · exact stopJob_keeps (walkAhead_keeps k)
          · exact doJob_keeps (useRefs_keeps (walkAhead_keeps k))

theorem doWalk_keeps {x e sl} (k : Keeps s t) : Keeps s (doWalk x e sl t) :=
  .ite k (.ite (insnFault_keeps k) (.ite (writeStatus_keeps (nothing_keeps (mapUnit_keeps k))) (.ite (writeStatus_keeps (nothing_keeps k))
    (.ite (insnFault_keeps k) (readSram_keeps (fun _ k' => (walkStep_keeps (mapInsn_keeps k'))) k)))))
theorem execWalk_ends {unit ph} : Ends wf s (execWalk unit ph s) := engineStep_ends (fun _ _ _ _ k' => (doWalk_keeps k'))
theorem doPut_keeps {x e sl} (k : Keeps s t) : Keeps s (doPut x e sl t) :=
  .ite k (.ite (nothing_keeps k) (.ite (insnFault_keeps k) (readSram_keeps (fun _ k' => (goJobs_keeps k')) k)))
theorem execPut_ends {unit ph} : Ends wf s (execPut unit ph s) := engineStep_ends (fun _ _ _ _ k' => (doPut_keeps k'))
theorem doGet_keeps {x e sl} (k : Keeps s t) : Keeps s (doGet x e sl t) :=
  .ite k (.ite (nothing_keeps k) (.ite (insnFault_keeps k) (goJobs_keeps k)))
theorem execGet_ends {unit ph} : Ends wf s (execGet unit ph s) := engineStep_ends (fun _ _ _ _ k' => (doGet_keeps k'))
theorem doAtom_keeps {x e sl} (k : Keeps s t) : Keeps s (doAtom x e sl t) :=
  .ite k (.ite (insnFault_keeps k) (.ite (.ite (insnFault_keeps k) (sendRequest_keeps (nothing_keeps k))) (.ite (insnFault_keeps k)
    (goJobs_keeps k))))
theorem execAtom_ends {unit ph} : Ends wf s (execAtom unit ph s) := engineStep_ends (fun _ _ _ _ k' => (doAtom_keeps k'))

theorem doReduce_keeps {x e sl} (k : Keeps s t) : Keeps s (doReduce x e sl t) := by
  unfold doReduce
  refine .ite ?_ ?_
  · exact k
  · split
    · exact insnFault_keeps k
    · exact .ite (insnFault_keeps k) (.ite (nothing_keeps k) (.ite (insnFault_keeps k) (.ite (insnFault_keeps k)
        (readSram_keeps (fun _ k' => (goJobs_keeps k')) k))))

theorem execReduce_ends {unit ph} : Ends wf s (execReduce unit ph s) :=
  engineStep_ends (fun _ _ _ _ k' => (doReduce_keeps k'))
theorem doPsig_keeps {x e x'} (k : Keeps s t) : Keeps s (doPsig x e x' t) := .ite k (sendRequest_keeps (nothing_keeps k))
theorem execPsig_ends {unit ph} : Ends wf s (execPsig unit ph s) := engineStep_ends (fun _ _ _ _ k' => (doPsig_keeps k'))
theorem releaseLive_keeps {x e} (k : Keeps s t) : Keeps s (releaseLive t x e) := mapUnit_keeps k

theorem execEngineInstructionComplete_ends {unit eng} : Ends wf s (execEngineInstructionComplete unit eng s) := by
  unfold execEngineInstructionComplete
  split
  · exact .next (.refl s)
  · split
    · exact .next (.refl s)
    · exact .ite (.next (.refl s)) (.next (releaseLive_keeps (retire_keeps (.refl s))))

/-! ### The set unit -/

theorem putWrites_keeps {x ws} (k : Keeps s t) : Keeps s (putWrites x ws t) := foldl_keeps (fun _ _ k' => (sramWrite_keeps k')) k
theorem actWhole_keeps {x e ws status} (k : Keeps s t) : Keeps s (actWhole x e ws status t) :=
  writeStatus_keeps (nothing_keeps (putWrites_keeps k))
theorem doSort_keeps {x e x'} (k : Keeps s t) : Keeps s (doSort x e x' t) :=
  .ite k (.ite (insnFault_keeps k) (.ite (insnFault_keeps k) (.ite (actWhole_keeps k) (.ite (insnFault_keeps k) (.ite (insnFault_keeps k)
    (readSram_keeps (fun _ k' => (actWhole_keeps k')) k))))))
theorem execSort_ends {unit ph} : Ends wf s (execSort unit ph s) := engineStep_ends (fun _ _ _ _ k' => (doSort_keeps k'))
theorem doList_keeps {op x e x'} (k : Keeps s t) : Keeps s (doList op x e x' t) :=
  .ite k (.ite (insnFault_keeps k) (.ite (actWhole_keeps k) (.ite (insnFault_keeps k) (readSram_keeps (fun _ k' => (.ite (insnFault_keeps k')
    (by split; exacts [insnFault_keeps (putWrites_keeps k'), actWhole_keeps k']))) k))))
theorem execMerge_ends {unit ph} : Ends wf s (execMerge unit ph s) := engineStep_ends (fun _ _ _ _ k' => (doList_keeps k'))
theorem execIsect_ends {unit ph} : Ends wf s (execIsect unit ph s) := engineStep_ends (fun _ _ _ _ k' => (doList_keeps k'))
theorem execUnion_ends {unit ph} : Ends wf s (execUnion unit ph s) := engineStep_ends (fun _ _ _ _ k' => (doList_keeps k'))

/-! ### Arrays -/

theorem noteTurn_keeps {x e} (k : Keeps s t) : Keeps s (noteTurn x e t) := .ite k k
theorem countSegment_keeps {a c} (k : Keeps s t) : Keeps s (countSegment a c t) := k

theorem countTile_keeps {x : UnitCtx} {e : EngInsn} {q : Nat} {cs : List (Nat × Nat × Bool)} {start : List Acc} {fins : List (List Acc)}
    (k : Keeps s t) : Keeps s (countTile x e q cs start fins t) := by
  induction cs generalizing start fins t with
  | nil => exact k
  | cons c cs ih =>
    cases fins with
    | nil => exact k
    | cons fin fins => exact ih (.ite (countSegment_keeps k) k)

theorem runTile_keeps {x : UnitCtx} {e : EngInsn} {q : Nat} (k : Keeps s t) : Keeps s (runTile x e q t).2 := by
  unfold runTile
  dsimp only
  split
  · exact k
  · exact countTile_keeps k

theorem runTiles_keeps {x : UnitCtx} {e : EngInsn} {qs : List Nat} (k : Keeps s t) : Keeps s (runTiles x e qs t).2 := by
  induction qs generalizing t with
  | nil => exact k
  | cons q qs ih => exact ih (runTile_keeps k)

theorem doArrayStart_keeps {x : UnitCtx} {e : EngInsn} {sl : Slice} (k : Keeps s t) : Keeps s (doArrayStart x e sl t) := by
  unfold doArrayStart
  split
  · exact insnFault_keeps k
  · split
    · exact k
    · split
      · exact insnFault_keeps k
      · exact readSram_keeps (fun _ k' => noteTurn_keeps (mapUnit_keeps (mapInsn_keeps (runTiles_keeps k')))) k

theorem execArrayInstructionStart_ends {unit eng} : Ends wf s (execArrayInstructionStart unit eng s) :=
  headStep_ends (fun _ _ _ _ k' => (doArrayStart_keeps k'))
theorem endArray_keeps {x e} (k : Keeps s t) : Keeps s (endArray x e t) :=
  .ite (insnFault_keeps (writeStatus_keeps k)) (.ite (insnFault_keeps (writeStatus_keeps k)) (mapInsn_keeps (writeStatus_keeps k)))
theorem writeTile_keeps {x e q} (k : Keeps s t) : Keeps s (writeTile x e q t) :=
  .ite (mapUnit_keeps k) (putWrites_keeps (mapUnit_keeps k))

theorem execArrayWriteback_ends {unit eng quad} : Ends wf s (execArrayWriteback unit eng quad s) := by
  unfold execArrayWriteback
  split
  · exact .next (.refl s)
  · split
    · exact .next (.refl s)
    · split
      · exact .next (.refl s)
      · refine .ite ?_ ?_
        · exact .next (.refl s)
        · dsimp only
          split
          · exact .next (writeTile_keeps (.refl s))
          · exact .ite (.next (writeTile_keeps (.refl s))) (.next (endArray_keeps (writeTile_keeps (.refl s))))

theorem execMma_ends {unit} : Ends wf s (execMma unit s) := issueStep_ends (fun _ _ _ _ _ k' => (doIssue_keeps k'))
theorem execMmaC_ends {unit} : Ends wf s (execMmaC unit s) := issueStep_ends (fun _ _ _ _ _ k' => (doIssue_keeps k'))
theorem execMmaX_ends {unit} : Ends wf s (execMmaX unit s) := issueStep_ends (fun _ _ _ _ _ k' => (doIssue_keeps k'))
theorem execMmaCx_ends {unit} : Ends wf s (execMmaCx unit s) := issueStep_ends (fun _ _ _ _ _ k' => (doIssue_keeps k'))

/-! ### The manager channel -/

theorem noteHolder_keeps {who} (k : Keeps s t) : Keeps s (noteHolder who t) := .ite k k
theorem putMessage_keeps {m ws who} (k : Keeps s t) : Keeps s (putMessage m ws who t) := setMailbox_keeps k
theorem sendSegment_keeps (k : Keeps s t) : Keeps s (sendSegment t) := putMessage_keeps k

theorem writeRing_keeps {u : State} {bs : List Byte} (k : Keeps s t) (h : writeRing bs t = some u) : Keeps s u := by
  unfold writeRing at h
  dsimp only at h
  split at h
  · cases h
  · cases h
    exact memWrite_keeps (.ite k (memWrite_keeps k))

theorem pumpList_keeps {rs : List (List Byte × Nat × Word32)} (k : Keeps s t) : Keeps s (pumpList rs t) := by
  induction rs generalizing t with
  | nil => exact k
  | cons r rs ih =>
    unfold pumpList
    split
    · split
      · exact ih (writeRing_keeps k ‹_›)
      · exact k
    · split
      · exact k
      · split
        · exact putMessage_keeps (m := 1) (ws := bufferMessage r.1 r.2.1 r.2.2) (who := manager0) (memWrite_keeps k)
        · exact sendSegment_keeps k

theorem pumpReplies_keeps (k : Keeps s t) : Keeps s (pumpReplies t) := refreshLevels_keeps (pumpList_keeps k)

theorem deliver_keeps {who buffer r} (k : Keeps s t) : Keeps s (deliver who buffer r t) := by
  unfold deliver
  split
  · exact pumpReplies_keeps k
  · exact emit_keeps k
  · exact k

theorem finish_keeps {c status detail0 detail} (k : Keeps s t) : Keeps s (finish c status detail0 detail t) := deliver_keeps k
theorem finishOk_keeps {c detail0 detail} (k : Keeps s t) : Keeps s (finishOk c detail0 detail t) := finish_keeps k
theorem failCmd_keeps {c status} (k : Keeps s t) : Keeps s (failCmd c status t) := finish_keeps k
theorem writeMbxData_keeps {who m i v} (k : Keeps s t) : Keeps s (writeMbxData who m i v t) :=
  .ite (.ite (noteHolder_keeps (setMailbox_keeps k)) (setMailbox_keeps k)) k
theorem execMbxDataWrite_ends {who mbx index value} (h : 16 ≤ mbx ∨ 16 ≤ index → wf = false) :
    Ends wf s (execMbxDataWrite who mbx index value s) :=
  .fault h (.next (writeMbxData_keeps (.refl s)))
theorem openExchange_keeps {who} (k : Keeps s t) : Keeps s (openExchange who t) := k
theorem sendMessage_keeps {who m} (k : Keeps s t) : Keeps s (sendMessage who m t) :=
  .ite (refreshLevels_keeps (.ite (openExchange_keeps (noteHolder_keeps (setMailbox_keeps k))) (setMailbox_keeps k))) k
theorem execMbxSend_ends {who mbx} (h : 16 ≤ mbx → wf = false) : Ends wf s (execMbxSend who mbx s) :=
  .fault h (.next (sendMessage_keeps (.refl s)))
theorem replyTaken_keeps (k : Keeps s t) : Keeps s (replyTaken t) := .ite (sendSegment_keeps k) (pumpReplies_keeps k)
theorem takeAck_keeps {who m} (k : Keeps s t) : Keeps s (takeAck who m t) :=
  .ite (refreshLevels_keeps (.ite (replyTaken_keeps (setMailbox_keeps k)) (setMailbox_keeps k))) k
theorem execMbxAck_ends {who mbx} (h : 16 ≤ mbx → wf = false) : Ends wf s (execMbxAck who mbx s) :=
  .fault h (.next (takeAck_keeps (.refl s)))
theorem claimLock_keeps {who m num} (k : Keeps s t) : Keeps s (claimLock who m num t) :=
  .ite (.ite (noteHolder_keeps (setMailbox_keeps k)) (setMailbox_keeps k)) k
theorem execMbxLockClaim_ends {who mbx num} (h : 16 ≤ mbx → wf = false) : Ends wf s (execMbxLockClaim who mbx num s) :=
  .fault h (.next (claimLock_keeps (.refl s)))
theorem releaseLock_keeps {who m num} (k : Keeps s t) : Keeps s (releaseLock who m num t) := .ite (setMailbox_keeps k) k
theorem execMbxLockRelease_ends {who mbx num} (h : 16 ≤ mbx → wf = false) : Ends wf s (execMbxLockRelease who mbx num s) :=
  .fault h (.next (releaseLock_keeps (.refl s)))

theorem resetMailbox_keeps {m : Nat} (k : Keeps s t) : Keeps s (resetMailbox m t) := by
  have h : Keeps s (setMailbox m {} t) := setMailbox_keeps k
  exact refreshLevels_keeps (.ite h (.ite (pumpReplies_keeps h) h))

theorem execResetMailbox_ends {mbx} (h : 16 ≤ mbx → wf = false) : Ends wf s (execResetMailbox mbx s) :=
  .fault h (.next (resetMailbox_keeps (.refl s)))

theorem execMbxReplyTimeout_ends : Ends wf s (execMbxReplyTimeout s) := by
  unfold execMbxReplyTimeout
  split
  · exact .ite (.next (resetMailbox_keeps (resetMailbox_keeps (.refl s)))) (.next (.refl s))
  · exact .next (.refl s)

theorem execChannelLockIdle_ends : Ends wf s (execChannelLockIdle s) :=
  .ite (.next (setMailbox_keeps (.refl s))) (.next (.refl s))
theorem writeReqTail_keeps {who value} (k : Keeps s t) : Keeps s (writeReqTail who value t) :=
  .ite k (.ite (refreshLevels_keeps (noteHolder_keeps k)) k)
theorem execReqTailWrite_ends {who value} : Ends wf s (execReqTailWrite who value s) := .next (writeReqTail_keeps (.refl s))
theorem writeRplHead_keeps {who value} (k : Keeps s t) : Keeps s (writeRplHead who value t) :=
  .ite k (.ite (pumpReplies_keeps (noteHolder_keeps k)) k)
theorem execRplHeadWrite_ends {who value} : Ends wf s (execRplHeadWrite who value s) := .next (writeRplHead_keeps (.refl s))

/-! ### Interrupts -/

theorem execInterruptEvent_ends {source} (h : 256 ≤ source → wf = false) : Ends wf s (execInterruptEvent source s) :=
  .fault h (.ite (.next (refreshLevels_keeps (.refl s))) (.next (raiseSource_keeps (.refl s))))
theorem execInterruptForward_ends {source} (h : 256 ≤ source → wf = false) : Ends wf s (execInterruptForward source s) :=
  .fault h (.ite (.next (raiseSource_keeps (.refl s))) (.next (.refl s)))
theorem clearPend_keeps {i value} (k : Keeps s t) : Keeps s (clearPend i value t) := k
theorem execIcuPendWrite_ends {index value} (h : 8 ≤ index → wf = false) : Ends wf s (execIcuPendWrite index value s) :=
  .fault h (.ite (.next (clearPend_keeps (.refl s))) (.next (.refl s)))
theorem setGdis_keeps {g} (k : Keeps s t) : Keeps s (setGdis g t) := k
theorem execIcuGdisWrite_ends {gdis} : Ends wf s (execIcuGdisWrite gdis s) :=
  .ite (.next (setGdis_keeps (.refl s))) (.next (.refl s))
theorem beginHold_keeps {g} (k : Keeps s t) : Keeps s (beginHold g t) := k

theorem execInterruptMessage_ends : Ends wf s (execInterruptMessage s) := by
  unfold execInterruptMessage
  refine .ite ?_ ?_
  · exact .next (.refl s)
  · split
    · exact .next (.refl s)
    · exact .next (emit_keeps (beginHold_keeps (.refl s)))

theorem execIcuHoldoffExpiry_ends {group} (h : 16 ≤ group → wf = false) : Ends wf s (execIcuHoldoffExpiry group s) :=
  .fault h (.ite (.next (.refl s)) (.next (.refl s)))

theorem execCoreInterruptTake_ends {core} : Ends wf s (execCoreInterruptTake core s) := by
  unfold execCoreInterruptTake
  refine .ite ?_ ?_
  · exact .next (.refl s)
  · dsimp only
    split <;> exact .next (.refl s)

theorem execWakeLatch_ends {source} (h : 256 ≤ source → wf = false) : Ends wf s (execWakeLatch source s) :=
  .fault h (.ite (.next (.refl s)) (.next (.refl s)))
theorem deliverLatched_keeps (k : Keeps s t) : Keeps s (deliverLatched t) := foldl_keeps (fun _ _ k' => (raiseSource_keeps k')) k
theorem writeFqStatus_keeps {value} (k : Keeps s t) : Keeps s (writeFqStatus value t) := .ite k k
theorem execFqStatusWrite_ends {value} : Ends wf s (execFqStatusWrite value s) :=
  .ite (.next (writeFqStatus_keeps (.refl s))) (.next (.refl s))
theorem writeVec_keeps {n value} (k : Keeps s t) : Keeps s (writeVec n value t) := k
theorem writeEn_keeps {i value} (k : Keeps s t) : Keeps s (writeEn i value t) := .ite k k
theorem writeMbxReg_keeps {who m off v} (k : Keeps s t) : Keeps s (writeMbxReg who m off v t) :=
  .ite (writeMbxData_keeps k) (.ite (.ite (sendMessage_keeps (.ite (takeAck_keeps k) k)) (.ite (takeAck_keeps k) k))
    (.ite (.ite (claimLock_keeps k) (releaseLock_keeps k)) k))
theorem writeReg32_keeps {who off v} (k : Keeps s t) : Keeps s (writeReg32 who off v t) :=
  .ite (writeMbxReg_keeps k) (.ite (writeReqTail_keeps k) (.ite (writeRplHead_keeps k) (.ite (setGdis_keeps k) (.ite k (.ite (clearPend_keeps k)
    (.ite (writeEn_keeps k) (.ite (writeVec_keeps k) (.ite k (.ite (writeFqStatus_keeps k) k)))))))))
theorem execRegisterWrite_ends {who offset size value} : Ends wf s (execRegisterWrite who offset size value s) :=
  .ite (.next (.refl s)) (.ite (.next (writeReg32_keeps (.refl s))) (.ite (.next (writeReg32_keeps (writeReg32_keeps (.refl s))))
    (.next (.refl s))))

/-! ### The manager -/

theorem cmdStep_ends {op seq act} (hact : ∀ a1 t, Keeps s t → Keeps s (act a1 t)) : Ends wf s (cmdStep op seq act s) := by
  unfold cmdStep
  split
  · exact .next (.refl s)
  · exact .ite (.next (.refl s)) (.next (hact _ _ (.refl s)))

theorem setPhase_keeps {seq p} (k : Keeps s t) : Keeps s (setPhase seq p t) := k
theorem bufferWrite_keeps {pa bs} (k : Keeps s t) : Keeps s (bufferWrite pa bs t) :=
  .ite (memWrite_keeps k) (foldl_keeps (fun _ _ k' => (postRequest_keeps k')) k)
theorem bufferBad_keeps {c pa} (k : Keeps s t) : Keeps s (bufferBad c pa t) := failCmd_keeps (writeRecord_keeps k)
theorem grantLease_keeps {who tick} (k : Keeps s t) : Keeps s (grantLease who tick t) := k
theorem freeRole_keeps (k : Keeps s t) : Keeps s (freeRole t) := k
theorem doClaim_keeps {c} (k : Keeps s t) : Keeps s (doClaim c t) :=
  .ite (.ite (finishOk_keeps (freeRole_keeps k)) (finish_keeps k)) (.ite (finishOk_keeps (grantLease_keeps k)) (finish_keeps k))
theorem execClaimManager_ends {seq} : Ends wf s (execClaimManager seq s) := cmdStep_ends (fun _ _ k' => (doClaim_keeps k'))
theorem doRenew_keeps {c} (k : Keeps s t) : Keeps s (doRenew c t) := finishOk_keeps k
theorem execLeaseRenew_ends {seq} : Ends wf s (execLeaseRenew seq s) := cmdStep_ends (fun _ _ k' => (doRenew_keeps k'))
theorem execLeaseWarning_ends : Ends wf s (execLeaseWarning s) := .ite (.next (raiseSource_keeps (.refl s))) (.next (.refl s))

theorem holdCommit_keeps (k : Keeps s t) : Keeps s (holdCommit t) := by
  have h : Keeps s (match t.cfg.commit with
      | some c => if c.confirms.isEmpty then t else emitD2d (otherBlocks t) (.mgmt (.abort c.next.serial.toNat)) t
      | none => t) := by
    split
    · exact .ite k (emitD2d_keeps k)
    · exact k
  exact h

theorem execLeaseExpiry_ends : Ends wf s (execLeaseExpiry s) :=
  .ite (.next (.ite (resetMailbox_keeps (resetMailbox_keeps (raiseSource_keeps (holdCommit_keeps (freeRole_keeps (.refl s))))))
    (raiseSource_keeps (holdCommit_keeps (freeRole_keeps (.refl s)))))) (.next (.refl s))
theorem stageCommit_keeps {c next} (k : Keeps s t) : Keeps s (stageCommit c next t) := setPhase_keeps k

theorem doSetDirect_keeps {c} (k : Keeps s t) : Keeps s (doSetDirect c t) := by
  unfold doSetDirect
  dsimp only
  refine .ite ?_ ?_
  · exact k
  · refine .ite ?_ ?_
    · exact failCmd_keeps k
    · refine .ite ?_ ?_
      · exact failCmd_keeps k
      · refine .ite ?_ ?_
        · exact failCmd_keeps k
        · split
          · exact finish_keeps k
          · exact .ite (stageCommit_keeps k) (failCmd_keeps k)

theorem execCreateSlice_ends {seq} : Ends wf s (execCreateSlice seq s) := cmdStep_ends (fun _ _ k' => (doSetDirect_keeps k'))
theorem execDestroySlice_ends {seq} : Ends wf s (execDestroySlice seq s) :=
  cmdStep_ends (fun _ _ k' => (doSetDirect_keeps k'))
theorem execAssignPool_ends {seq} : Ends wf s (execAssignPool seq s) := cmdStep_ends (fun _ _ k' => (doSetDirect_keeps k'))
theorem execSetRtShare_ends {seq} : Ends wf s (execSetRtShare seq s) := cmdStep_ends (fun _ _ k' => (doSetDirect_keeps k'))
theorem execSetWindow_ends {seq} : Ends wf s (execSetWindow seq s) := cmdStep_ends (fun _ _ k' => (doSetDirect_keeps k'))
theorem execClearWindow_ends {seq} : Ends wf s (execClearWindow seq s) := cmdStep_ends (fun _ _ k' => (doSetDirect_keeps k'))
theorem execSetEnvelope_ends {seq} : Ends wf s (execSetEnvelope seq s) := cmdStep_ends (fun _ _ k' => (doSetDirect_keeps k'))
theorem doEdit_keeps {c} (k : Keeps s t) : Keeps s (doEdit c t) :=
  .ite (failCmd_keeps k) (.ite (failCmd_keeps k) (.ite (failCmd_keeps k) (.ite (failCmd_keeps k) (finishOk_keeps k))))
theorem execEditShadow_ends {seq} : Ends wf s (execEditShadow seq s) := cmdStep_ends (fun _ _ k' => (doEdit_keeps k'))

theorem doCommit_keeps {c} (k : Keeps s t) : Keeps s (doCommit c t) := by
  unfold doCommit
  dsimp only
  refine .ite ?_ ?_
  · exact k
  · refine .ite ?_ ?_
    · exact failCmd_keeps k
    · refine .ite ?_ ?_
      · exact failCmd_keeps k
      · refine .ite ?_ ?_
        · exact failCmd_keeps k
        · split
          · exact finish_keeps k
          · exact stageCommit_keeps k

theorem execCommitShadow_ends {seq} : Ends wf s (execCommitShadow seq s) := cmdStep_ends (fun _ _ k' => (doCommit_keeps k'))
theorem doCaps_keeps {c} (k : Keeps s t) : Keeps s (doCaps c t) := finishOk_keeps k
theorem execQueryCaps_ends {seq} : Ends wf s (execQueryCaps seq s) := cmdStep_ends (fun _ _ k' => (doCaps_keeps k'))
theorem doReadFaults_keeps {c} (k : Keeps s t) : Keeps s (doReadFaults c t) :=
  .ite (failCmd_keeps k) (finishOk_keeps (refreshLevels_keeps (bufferWrite_keeps k)))
theorem execReadFaults_ends {seq} : Ends wf s (execReadFaults seq s) := cmdStep_ends (fun _ _ k' => (doReadFaults_keeps k'))
theorem doTelemetry_keeps {c} (k : Keeps s t) : Keeps s (doTelemetry c t) :=
  .ite (failCmd_keeps k) (finishOk_keeps (bufferWrite_keeps (stepFree_keeps k)))
theorem execReadTelemetry_ends {seq} : Ends wf s (execReadTelemetry seq s) :=
  cmdStep_ends (fun _ _ k' => (doTelemetry_keeps k'))

/-! ### Commands on slices -/

theorem passOnAt_keeps {blks c tick} (k : Keeps s t) : Keeps s (passOnAt blks c tick t) := emitD2d_keeps k
theorem passOn_keeps {blks c} (k : Keeps s t) : Keeps s (passOn blks c t) := passOnAt_keeps k
theorem reportBlock_keeps {op slice ok entries queues} (k : Keeps s t) : Keeps s (reportBlock op slice ok entries queues t) :=
  sendD2d_keeps k
theorem writeControl_keeps {slice f} (k : Keeps s t) : Keeps s (writeControl slice f t) := mapSlice_keeps k
theorem writeAck_keeps {slice entries} (k : Keeps s t) : Keeps s (writeAck slice entries t) := writeControl_keeps k

theorem haltQueue_keeps {slice reset q} (k : Keeps s t) : Keeps s (haltQueue slice reset t q) := by
  unfold haltQueue
  split
  · exact k
  · exact .ite k (reportQueue_keeps (mapQueue_keeps (writeRecord_keeps k)))

theorem clearGates_keeps {slice} (k : Keeps s t) : Keeps s (clearGates slice t) := k
theorem dropXlat_keeps {slice} (k : Keeps s t) : Keeps s (dropXlat slice t) := k

theorem forceStop_keeps {slice qs to' reset} (k : Keeps s t) : Keeps s (forceStop slice qs to' reset t) :=
  writeAck_keeps (.ite (clearGates_keeps (foldl_keeps (fun _ _ k' => (haltQueue_keeps k'))
    (dropXlat_keeps (.ite (poisonContext_keeps (foldl_keeps (fun _ _ k' => (stopQueueWork_keeps k')) k))
    (foldl_keeps (fun _ _ k' => (stopQueueWork_keeps k')) k))))) (foldl_keeps (fun _ _ k' => (haltQueue_keeps k'))
    (dropXlat_keeps (.ite (poisonContext_keeps (foldl_keeps (fun _ _ k' => (stopQueueWork_keeps k')) k))
    (foldl_keeps (fun _ _ k' => (stopQueueWork_keeps k')) k)))))

theorem beginQuiesce_keeps {slice qs} (k : Keeps s t) : Keeps s (beginQuiesce slice qs t) :=
  foldl_keeps (fun _ _ k' => (by split; exacts [k', .ite (reportQueue_keeps (mapQueue_keeps k')) k'])) k
theorem askStop_keeps {slice qs force reset} (k : Keeps s t) : Keeps s (askStop slice qs force reset t) := writeControl_keeps k
theorem obeyStop_keeps {slice to'} (k : Keeps s t) : Keeps s (obeyStop slice to' t) :=
  .ite (forceStop_keeps k) (beginQuiesce_keeps (writeAck_keeps k))
theorem replyStop_keeps {c entries queues} (k : Keeps s t) : Keeps s (replyStop c entries queues t) :=
  finishOk_keeps (.ite k (bufferWrite_keeps k))
theorem swapLog_keeps {slice seg stop} (k : Keeps s t) : Keeps s (swapLog slice seg stop t) := mapSlice_keeps k
theorem dueLogSwaps_keeps (k : Keeps s t) : Keeps s (dueLogSwaps t) :=
  foldl_keeps (fun _ _ k' => (by split; exacts [.ite (swapLog_keeps k') k', k'])) k
theorem genReply_keeps {c} (k : Keeps s t) : Keeps s (genReply c t) := finishOk_keeps k

theorem settleLead_keeps {c} (k : Keeps s t) : Keeps s (settleLead t c) := by
  unfold settleLead
  dsimp only
  split
  · exact .ite (.ite (replyStop_keeps k) k) (.ite (replyStop_keeps k) k)
  · exact .ite (.ite k (finishOk_keeps k)) k
  · exact k

theorem settleMember_keeps {c} (k : Keeps s t) : Keeps s (settleMember t c) := by
  unfold settleMember
  dsimp only
  split
  · exact .ite (reportBlock_keeps k) k
  · exact .ite k (reportBlock_keeps k)
  · exact k

theorem settleCommands_keeps (k : Keeps s t) : Keeps s (settleCommands t) :=
  foldl_keeps (fun _ _ k' => (.ite (settleLead_keeps k') (settleMember_keeps k'))) k
theorem doStop_keeps {c} (k : Keeps s t) : Keeps s (doStop c t) :=
  .ite (settleCommands_keeps k) (.ite (failCmd_keeps k) (.ite (failCmd_keeps k)
    (settleCommands_keeps (setPhase_keeps (passOn_keeps (obeyStop_keeps (askStop_keeps k)))))))
theorem execQuiesce_ends {seq} : Ends wf s (execQuiesce seq s) := cmdStep_ends (fun _ _ k' => (doStop_keeps k'))
theorem execResetSlice_ends {seq} : Ends wf s (execResetSlice seq s) := cmdStep_ends (fun _ _ k' => (doStop_keeps k'))
theorem resumeQueue_keeps {slice q} (k : Keeps s t) : Keeps s (resumeQueue slice t q) := reportQueue_keeps (mapQueue_keeps k)

theorem clearContextTallies_keeps {slice} (k : Keeps s t) : Keeps s (clearContextTallies slice t) := by
  unfold clearContextTallies
  refine mapContext_keeps ?_
  exact foldl_keeps (fun _ _ k' => (foldl_keeps (fun _ _ k'' => (by split; exacts [setTallyAt_keeps k'', k''])) k')) k

theorem closeOpen_keeps {o} (k : Keeps s t) : Keeps s (closeOpen o t) := admitWaiting_keeps k
theorem resumeReply_keeps {c engines} (k : Keeps s t) : Keeps s (resumeReply c engines t) := finishOk_keeps k

theorem obeyResume_keeps {slice sel n} (k : Keeps s t) : Keeps s (obeyResume slice sel n t) := by
  unfold obeyResume
  dsimp only
  split
  · exact writeAck_keeps (resumeQueue_keeps (writeControl_keeps k))
  · split
    · exact writeAck_keeps (closeOpen_keeps (writeControl_keeps k))
    · exact writeControl_keeps k
  · exact writeAck_keeps (foldl_keeps (fun _ _ k' => (resumeQueue_keeps k')) (clearContextTallies_keeps (writeControl_keeps k)))

theorem doResume_keeps {c} (k : Keeps s t) : Keeps s (doResume c t) := by
  unfold doResume
  dsimp only
  refine .ite ?_ ?_
  · exact k
  · split
    · split
      · exact .ite (failCmd_keeps k) (.ite (failCmd_keeps k) (finishOk_keeps (passOn_keeps (obeyResume_keeps k))))
      · exact failCmd_keeps k
    · refine .ite ?_ ?_
      · exact setPhase_keeps (passOn_keeps k)
      · split
        · exact resumeReply_keeps (obeyResume_keeps k)
        · exact failCmd_keeps k
    · exact .ite (failCmd_keeps k) (.ite (failCmd_keeps k) (finishOk_keeps (passOn_keeps (obeyResume_keeps k))))
    · exact failCmd_keeps k

theorem execResume_ends {seq} : Ends wf s (execResume seq s) := cmdStep_ends (fun _ _ k' => (doResume_keeps k'))
theorem addQueue_keeps {x} (k : Keeps s t) : Keeps s (addQueue x t) := k

theorem doCreateQueue_keeps {c} (k : Keeps s t) : Keeps s (doCreateQueue c t) := by
  unfold doCreateQueue
  dsimp only
  split
  · exact failCmd_keeps k
  · exact .ite (failCmd_keeps k) (.ite (failCmd_keeps k) (finishOk_keeps (passOn_keeps (addQueue_keeps k))))

theorem execCreateQueue_ends {seq} : Ends wf s (execCreateQueue seq s) :=
  cmdStep_ends (fun _ _ k' => (doCreateQueue_keeps k'))
theorem removeQueue_keeps {slice q} (k : Keeps s t) : Keeps s (removeQueue slice q t) := mapSlice_keeps k
theorem notQuiescedReply_keeps {c q} (k : Keeps s t) : Keeps s (notQuiescedReply c q t) := finish_keeps k

theorem doDestroyQueue_keeps {c} (k : Keeps s t) : Keeps s (doDestroyQueue c t) := by
  unfold doDestroyQueue
  dsimp only
  split
  · exact failCmd_keeps k
  · exact .ite k (.ite (setPhase_keeps (passOn_keeps k)) (.ite (finishOk_keeps (passOn_keeps (removeQueue_keeps k))) (notQuiescedReply_keeps k)))

theorem execDestroyQueue_ends {seq} : Ends wf s (execDestroyQueue seq s) :=
  cmdStep_ends (fun _ _ k' => (doDestroyQueue_keeps k'))

theorem doSetTimeout_keeps {c} (k : Keeps s t) : Keeps s (doSetTimeout c t) := by
  unfold doSetTimeout
  dsimp only
  split
  · exact failCmd_keeps k
  · exact .ite (failCmd_keeps k) (finishOk_keeps (passOn_keeps (mapQueue_keeps k)))

theorem execSetTimeout_ends {seq} : Ends wf s (execSetTimeout seq s) := cmdStep_ends (fun _ _ k' => (doSetTimeout_keeps k'))
theorem bindKey_keeps {slot slice} (k : Keeps s t) : Keeps s (bindKey slot slice t) := .ite (emit_keeps k) k
theorem stageSegment_keeps {slice n g} (k : Keeps s t) : Keeps s (stageSegment slice n g t) := mapSlice_keeps k

theorem doMap_keeps {c} (k : Keeps s t) : Keeps s (doMap c t) := by
  unfold doMap
  dsimp only
  split
  · exact failCmd_keeps k
  · exact .ite (failCmd_keeps k) (.ite (failCmd_keeps k) (genReply_keeps (passOn_keeps (bindKey_keeps (stageSegment_keeps k)))))

theorem execMapSegment_ends {seq} : Ends wf s (execMapSegment seq s) := cmdStep_ends (fun _ _ k' => (doMap_keeps k'))
theorem unmapSegment_keeps {slice n} (k : Keeps s t) : Keeps s (unmapSegment slice n t) := mapSlice_keeps k

theorem doUnmap_keeps {c} (k : Keeps s t) : Keeps s (doUnmap c t) := by
  unfold doUnmap
  dsimp only
  split
  · exact failCmd_keeps k
  · exact .ite (failCmd_keeps k) (.ite (failCmd_keeps k) (genReply_keeps (passOn_keeps (unmapSegment_keeps k))))

theorem execUnmapSegment_ends {seq} : Ends wf s (execUnmapSegment seq s) := cmdStep_ends (fun _ _ k' => (doUnmap_keeps k'))
theorem startLog_keeps {slice ps} (k : Keeps s t) : Keeps s (startLog slice ps t) := mapSlice_keeps k

theorem doStartLog_keeps {c} (k : Keeps s t) : Keeps s (doStartLog c t) := by
  unfold doStartLog
  dsimp only
  split
  · exact failCmd_keeps k
  · exact .ite (failCmd_keeps k) (.ite (failCmd_keeps k) (genReply_keeps (passOn_keeps (startLog_keeps k))))

theorem execStartDirtyLog_ends {seq} : Ends wf s (execStartDirtyLog seq s) :=
  cmdStep_ends (fun _ _ k' => (doStartLog_keeps k'))

theorem fixLogSwap_keeps {slice} (k : Keeps s t) : Keeps s (fixLogSwap slice t) := by
  unfold fixLogSwap
  split
  · exact emitD2d_keeps (setPhase_keeps (mapSlice_keeps k))
  · exact k

theorem beginLogSwap_keeps {c} (k : Keeps s t) : Keeps s (beginLogSwap c t) :=
  .ite (fixLogSwap_keeps (setPhase_keeps (mapSlice_keeps k))) (emitD2d_keeps (setPhase_keeps (mapSlice_keeps k)))

theorem takeLogReady_keeps {slice segment block} (k : Keeps s t) : Keeps s (takeLogReady slice segment block t) := by
  unfold takeLogReady
  split
  · exact k
  · exact .ite k (.ite (fixLogSwap_keeps (mapSlice_keeps k)) (mapSlice_keeps k))

theorem takeLogPrepare_keeps {slice segment} (k : Keeps s t) : Keeps s (takeLogPrepare slice segment t) :=
  sendD2d_keeps (mapSlice_keeps k)

theorem doSwapLog_keeps {c} (k : Keeps s t) : Keeps s (doSwapLog c t) := by
  unfold doSwapLog
  refine .ite ?_ ?_
  · exact settleCommands_keeps k
  · split
    · exact failCmd_keeps k
    · exact .ite (failCmd_keeps k) (.ite (setPhase_keeps k) (beginLogSwap_keeps k))

theorem execReadDirtyLog_ends {seq} : Ends wf s (execReadDirtyLog seq s) := cmdStep_ends (fun _ _ k' => (doSwapLog_keeps k'))
theorem execStopDirtyLog_ends {seq} : Ends wf s (execStopDirtyLog seq s) := cmdStep_ends (fun _ _ k' => (doSwapLog_keeps k'))
theorem setContextTally_keeps {slice u i f} (k : Keeps s t) : Keeps s (setContextTally slice u i f t) :=
  wakeEngineWaits_keeps (mapPlaced_keeps k)
theorem finishDump_keeps {c t0 es} (k : Keeps s t) : Keeps s (finishDump c t0 es t) :=
  .ite (finish_keeps k) (finishOk_keeps (bufferWrite_keeps k))
theorem planDump_keeps {slice t0} (k : Keeps s t) : Keeps s (planDump slice t0 t) := k
theorem doDump_keeps {c} (k : Keeps s t) : Keeps s (doDump c t) :=
  .ite k (.ite (failCmd_keeps k) (setPhase_keeps (passOnAt_keeps (planDump_keeps k))))
theorem execDumpSync_ends {seq} : Ends wf s (execDumpSync seq s) := cmdStep_ends (fun _ _ k' => (doDump_keeps k'))

theorem setTally_keeps {slice i v : Nat} {u : UnitId} (k : Keeps s t) : Keeps s (setTally slice u i v t).1 := by
  unfold setTally
  exact .ite (writeRecord_keeps (setContextTally_keeps k)) (checkPairs_keeps (writeRecord_keeps (setContextTally_keeps k)))

theorem trySetTally_keeps {slice : Nat} {ps : List Byte} {r : State × List Byte} (k : Keeps s t) (h : trySetTally slice ps t = some r) :
    Keeps s r.1 := by
  unfold trySetTally at h
  split at h
  · cases h
  · split at h
    · cases h
      exact setTally_keeps k
    · cases h

theorem doSetTally_keeps {c : CmdReq} (k : Keeps s t) : Keeps s (doSetTally c t) := by
  unfold doSetTally
  dsimp only
  split
  · exact k
  · split
    · split
      · exact finishOk_keeps (trySetTally_keeps k ‹_›)
      · exact failCmd_keeps k
    · exact .ite (setPhase_keeps (passOn_keeps k)) (failCmd_keeps k)

theorem execSetTally_ends {seq} : Ends wf s (execSetTally seq s) := cmdStep_ends (fun _ _ k' => (doSetTally_keeps k'))
theorem installTally_keeps {slice e} (k : Keeps s t) : Keeps s (installTally slice t e) := setContextTally_keeps (mapUnit_keeps k)
theorem installSlice_keeps {slice im} (k : Keeps s t) : Keeps s (installSlice slice im t) :=
  mapSlice_keeps (foldl_keeps (fun _ _ k' => (installTally_keeps k')) (foldl_keeps (fun _ _ k' => (mapQueue_keeps k')) k))
theorem finishCapture_keeps {c others} (k : Keeps s t) : Keeps s (finishCapture c others t) :=
  .ite (failCmd_keeps k) (finishOk_keeps (bufferWrite_keeps k))

theorem doSnapshot_keeps {c} (k : Keeps s t) : Keeps s (doSnapshot c t) := by
  unfold doSnapshot
  dsimp only
  refine .ite ?_ ?_
  · exact k
  · refine .ite ?_ ?_
    · exact failCmd_keeps k
    · refine .ite ?_ ?_
      · exact .ite (notQuiescedReply_keeps k) (.ite (finishCapture_keeps k) (setPhase_keeps (passOn_keeps k)))
      · refine .ite ?_ ?_
        · exact notQuiescedReply_keeps k
        · split
          · exact failCmd_keeps (stepFree_keeps k)
          · exact .ite (failCmd_keeps (stepFree_keeps k)) (finishOk_keeps (emitD2d_keeps (installSlice_keeps (stepFree_keeps k))))

theorem execSnapshot_ends {seq} : Ends wf s (execSnapshot seq s) := cmdStep_ends (fun _ _ k' => (doSnapshot_keeps k'))
theorem setTwinState_keeps {st} (k : Keeps s t) : Keeps s (setTwinState st t) := raiseSource_keeps (writeRecord_keeps k)
theorem sendImage_keeps {m} (k : Keeps s t) : Keeps s (sendImage m t) := emit_keeps k
theorem leaveNode_keeps (k : Keeps s t) : Keeps s (leaveNode t) :=
  setTwinState_keeps (emit_keeps (foldl_keeps (fun _ _ k' => (sendImage_keeps k')) k))

theorem settleTwin_keeps (k : Keeps s t) : Keeps s (settleTwin t) := by
  unfold settleTwin
  refine .ite ?_ ?_
  · exact k
  · refine .ite ?_ ?_
    · exact leaveNode_keeps k
    · split
      · exact setTwinState_keeps k
      · exact k

theorem execDescriptorComplete_ends {slice queue index} : Ends wf s (execDescriptorComplete slice queue index s) :=
  .next (settleTwin_keeps (settleCommands_keeps (completeDescriptor_keeps (.refl s))))
theorem planResurface_keeps {slice seq} (k : Keeps s t) : Keeps s (planResurface slice seq t) := mapSlice_keeps k

theorem doResurface_keeps {c} (k : Keeps s t) : Keeps s (doResurface c t) := by
  unfold doResurface
  dsimp only
  refine .ite ?_ ?_
  · exact k
  · split
    · exact notQuiescedReply_keeps k
    · exact .ite (notQuiescedReply_keeps k) (.ite (failCmd_keeps k) (setPhase_keeps (passOn_keeps (planResurface_keeps k))))

theorem execResurface_ends {seq} : Ends wf s (execResurface seq s) := cmdStep_ends (fun _ _ k' => (doResurface_keeps k'))
theorem acceptMember_keeps {c p} (k : Keeps s t) : Keeps s (acceptMember c p t) := settleCommands_keeps k
theorem memberStop_keeps {c} (k : Keeps s t) : Keeps s (memberStop c t) :=
  .ite (acceptMember_keeps (obeyStop_keeps (askStop_keeps k))) (obeyStop_keeps (askStop_keeps k))
theorem memberResume_keeps {c} (k : Keeps s t) : Keeps s (memberResume c t) :=
  .ite (reportBlock_keeps (obeyResume_keeps k)) (obeyResume_keeps k)

theorem memberDestroy_keeps {slice q} (k : Keeps s t) : Keeps s (memberDestroy slice q t) := by
  unfold memberDestroy
  split
  · exact k
  · exact .ite (removeQueue_keeps k) (.ite (reportBlock_keeps (removeQueue_keeps k)) (reportBlock_keeps k))

theorem memberCommand_keeps {op slice tick : Nat} {ps : List Byte} (k : Keeps s t) : Keeps s (memberCommand op slice ps tick t) := by
  unfold memberCommand
  dsimp only
  split
  · exact memberStop_keeps k
  · exact memberStop_keeps k
  · exact memberResume_keeps k
  · exact addQueue_keeps k
  · exact memberDestroy_keeps k
  · exact mapQueue_keeps k
  · exact bindKey_keeps (.ite (stageSegment_keeps k) k)
  · exact unmapSegment_keeps k
  · exact startLog_keeps k
  · exact planDump_keeps k
  · split
    · exact reportBlock_keeps (trySetTally_keeps k ‹_›)
    · exact reportBlock_keeps k
  · exact reportBlock_keeps k
  · exact planResurface_keeps k
  · exact k

theorem takeLogSwitch_keeps {slice segment stop tick} (k : Keeps s t) : Keeps s (takeLogSwitch slice segment stop tick t) :=
  acceptMember_keeps (mapSlice_keeps k)
theorem takeJoin_keeps {slice gen inForce staged queues logs} (k : Keeps s t) :
    Keeps s (takeJoin slice gen inForce staged queues logs t) :=
  mapSlice_keeps k

theorem settleAsked_keeps {c} (k : Keeps s t) : Keeps s (settleAsked t c) := by
  unfold settleAsked
  split
  · exact .ite (.ite (resumeReply_keeps k) (failCmd_keeps k)) (.ite (.ite (finishOk_keeps (passOn_keeps (removeQueue_keeps k)))
      (notQuiescedReply_keeps k)) (.ite (.ite (finishOk_keeps k) (failCmd_keeps k)) (.ite (finishDump_keeps k) (.ite (finishCapture_keeps k) k))))
  · exact k

theorem takeBlockReport_keeps {r} (k : Keeps s t) : Keeps s (takeBlockReport r t) :=
  settleCommands_keeps (foldl_keeps (fun _ _ k' => (settleAsked_keeps k')) k)

theorem takeQueueReport_keeps {r} (k : Keeps s t) : Keeps s (takeQueueReport r t) := by
  unfold takeQueueReport
  refine settleCommands_keeps ?_
  split
  · exact removeQueue_keeps k
  · exact mapQueue_keeps k

theorem takeDumps_keeps (k : Keeps s t) : Keeps s (takeDumps t) :=
  foldl_keeps (fun _ _ k' => (.ite (takeBlockReport_keeps k') (sendD2d_keeps k'))) k

/-! ### Memory ports -/

theorem mapGather_keeps {o f} (k : Keeps s t) : Keeps s (mapGather o f t) := k
theorem openGather_keeps {o} (k : Keeps s t) : Keeps s (openGather o t) := k
theorem addBytes_keeps {o place bs} (k : Keeps s t) : Keeps s (addBytes o place bs t) := mapGather_keeps k
theorem markBad_keeps {o} (k : Keeps s t) : Keeps s (markBad o t) := mapGather_keeps k
theorem addMismatch_keeps {o shift payload} (k : Keeps s t) : Keeps s (addMismatch o shift payload t) := mapGather_keeps k
theorem releaseHeld_keeps {source epoch} (k : Keeps s t) : Keeps s (releaseHeld source epoch t) :=
  .ite k (foldl_keeps (fun _ _ k' => (respond_keeps (mailboxAdd_keeps k'))) k)
theorem landWrite_keeps {p} (k : Keeps s t) : Keeps s (landWrite p t) := .ite k (releaseHeld_keeps k)
theorem dropDma_keeps {port tag} (k : Keeps s t) : Keeps s (dropDma port tag t) := setEnginePort_keeps k
theorem countMismatch_keeps (k : Keeps s t) : Keeps s (countMismatch t) := k

theorem giveAnswer_keeps {g} (k : Keeps s t) : Keeps s (giveAnswer g t) := by
  unfold giveAnswer
  split
  · exact .ite (respond_keeps k) (.ite (respond_keeps k) (landWrite_keeps (respond_keeps k)))
  · exact .ite k (emit_keeps k)
  · exact dropDma_keeps (emit_keeps k)
  · exact k

theorem giveAnswers_keeps {left gs : List Gather} (k : Keeps s t) : Keeps s (giveAnswers left gs t) := by
  induction gs generalizing left t with
  | nil => exact k
  | cons g gs ih => exact .ite (ih k) (ih (giveAnswer_keeps k))

theorem settleGather_keeps (k : Keeps s t) : Keeps s (settleGather t) := giveAnswers_keeps k
theorem releaseSignals_keeps {port} (k : Keeps s t) : Keeps s (releaseSignals port t) :=
  foldl_keeps (fun _ _ k' => (mailboxAdd_keeps k')) (setEnginePort_keeps k)
theorem endCalls_keeps {port} (k : Keeps s t) : Keeps s (endCalls port t) :=
  foldl_keeps (fun _ _ k' => (by split; exacts [retire_keeps k', k'])) (setEnginePort_keeps k)
theorem settlePort_keeps {port} (k : Keeps s t) : Keeps s (settlePort port t) := endCalls_keeps (releaseSignals_keeps k)

theorem portFault_keeps {port call cause addr detail} (k : Keeps s t) : Keeps s (portFault port call cause addr detail t) := by
  unfold portFault
  split
  · exact k
  · exact stopQueue_keeps k

theorem afterAnswer_keeps {o} (k : Keeps s t) : Keeps s (afterAnswer o t) := by
  unfold afterAnswer
  refine settleCommands_keeps ?_
  refine releaseWaiting_keeps ?_
  refine drainPorts_keeps ?_
  split
  · refine settlePort_keeps ?_
    refine settleGather_keeps ?_
    split
    · exact settleInsn_keeps k
    · exact k
  · refine settleGather_keeps ?_
    split
    · exact settleInsn_keeps k
    · exact k

theorem ownerFault_keeps {o cause addr detail} (k : Keeps s t) : Keeps s (ownerFault o cause addr detail t) := by
  unfold ownerFault
  split
  · split
    · exact k
    · split
      · exact holdFault_keeps k
      · exact k
  · exact .ite (stopQueue_keeps k) k
  · exact markBad_keeps (portFault_keeps k)
  · exact writeRecord_keeps (markBad_keeps k)
  · exact markBad_keeps k
  · exact k

theorem keepEra_keeps {o pa len era} (k : Keeps s t) : Keeps s (keepEra o pa len era t) := k

theorem landBytes_keeps {o act era bs} (k : Keeps s t) : Keeps s (landBytes o act era bs t) := by
  unfold landBytes
  split
  · exact k
  · exact foldl_keeps (fun _ _ k' => (sramWrite_keeps k')) k
  · exact keepEra_keeps (nameVa_keeps (writePiece_keeps k))
  · exact mapUnit_keeps k
  · exact addBytes_keeps k

theorem dropReq_keeps {port tag} (k : Keeps s t) : Keeps s (dropReq port tag t) := k

theorem execMemoryReadResponse_ends {port tag err} (h : 4 ≤ port → wf = false) :
    Ends wf s (execMemoryReadResponse port tag err s) := by
  unfold execMemoryReadResponse
  refine .fault h ?_
  split
  · exact .next (.refl s)
  · refine afterAnswer_keeps ?_
    split
    · exact landBytes_keeps (dropReq_keeps (.refl s))
    · exact ownerFault_keeps (dropReq_keeps (.refl s))

theorem mismatchFault_keeps {o addr elem payload} (k : Keeps s t) : Keeps s (mismatchFault o addr elem payload t) := ownerFault_keeps k

theorem rmwDone_keeps {r op} (k : Keeps s t) : Keeps s (rmwDone r op t) := by
  unfold rmwDone
  refine .ite ?_ ?_
  · exact ownerFault_keeps k
  · split
    · exact landBytes_keeps k
    · refine .ite ?_ ?_
      · exact k
      · split
        · exact addMismatch_keeps (countMismatch_keeps k)
        · exact mismatchFault_keeps (countMismatch_keeps k)

theorem execMemoryWriteAck_ends {port tag} (h : 4 ≤ port → wf = false) : Ends wf s (execMemoryWriteAck port tag s) := by
  unfold execMemoryWriteAck
  refine .fault h ?_
  split
  · exact .next (.refl s)
  · refine afterAnswer_keeps ?_
    split
    · exact dropReq_keeps (.refl s)
    · exact rmwDone_keeps (dropReq_keeps (.refl s))

theorem dropTxn_keeps {id} (k : Keeps s t) : Keeps s (dropTxn id t) := k
theorem mapTxn_keeps {id f} (k : Keeps s t) : Keeps s (mapTxn id f t) := k
theorem stepAnswered_keeps {t0} (k : Keeps s t) : Keeps s (stepAnswered t0 t) := .ite k k
theorem countCorrection_keeps {slice} (k : Keeps s t) : Keeps s (countCorrection slice t) := mapSlice_keeps k

theorem answered_keeps {t0 p} (k : Keeps s t) : Keeps s (answered t0 p t) := by
  unfold answered
  dsimp only
  refine .ite ?_ ?_
  · split
    · exact addMismatch_keeps (.ite (countCorrection_keeps k) k)
    · exact mismatchFault_keeps (.ite (countCorrection_keeps k) k)
  · exact .ite (landBytes_keeps (.ite (countCorrection_keeps k) k)) (.ite (countCorrection_keeps k) k)

theorem takeResponse_keeps {p} (k : Keeps s t) : Keeps s (takeResponse p t) := by
  unfold takeResponse
  split
  · exact k
  · exact .ite (afterAnswer_keeps (dropTxn_keeps (stepFree_keeps k))) (.ite (mapTxn_keeps (stepFree_keeps k))
      (.ite (.ite (transmit_keeps (mapTxn_keeps (stepFree_keeps k))) (afterAnswer_keeps (ownerFault_keeps (dropTxn_keeps (stepFree_keeps k)))))
      (.ite (afterAnswer_keeps (ownerFault_keeps (dropTxn_keeps (stepFree_keeps k))))
      (afterAnswer_keeps (stepAnswered_keeps (answered_keeps (dropTxn_keeps (stepFree_keeps k))))))))

theorem execFabricRetryResend_ends {txid} : Ends wf s (execFabricRetryResend txid s) := by
  unfold execFabricRetryResend
  split
  · exact .next (.refl s)
  · split
    · exact .next (.refl s)
    · exact .ite (.next (.refl s)) (.next (releaseWaiting_keeps (mapTxn_keeps (.refl s))))

/-! ### Walks and syncs -/

theorem demandFault_keeps {slice cause d} (k : Keeps s t) : Keeps s (demandFault slice cause t d) := by
  unfold demandFault
  split
  · exact holdFault_keeps k
  · exact k

theorem endWalk_keeps {sl w err} (k : Keeps s t) : Keeps s (endWalk sl w err t) := by
  unfold endWalk
  split
  · exact .ite k (fillPage_keeps k)
  · split
    · exact k
    · exact .ite (stallEngines_keeps k) (foldl_keeps (fun _ _ k' => (demandFault_keeps k')) k)

theorem execTranslationWalkReturn_ends {slice segment page} : Ends wf s (execTranslationWalkReturn slice segment page s) := by
  unfold execTranslationWalkReturn
  dsimp only
  split
  · exact .ite (.next (stepFree_keeps (.refl s))) (.next (endWalk_keeps (stepFree_keeps (.refl s))))
  · exact .next (.refl s)

theorem doSyncTables_keeps {c} (k : Keeps s t) : Keeps s (doSyncTables c t) := by
  unfold doSyncTables
  dsimp only
  split
  · exact failCmd_keeps k
  · exact .ite k (.ite (failCmd_keeps k) (.ite (failCmd_keeps k) (.ite (genReply_keeps k) (setPhase_keeps (emitD2d_keeps (mapSlice_keeps k))))))

theorem execSyncTables_ends {seq} : Ends wf s (execSyncTables seq s) := cmdStep_ends (fun _ _ k' => (doSyncTables_keeps k'))
theorem mapSync_keeps {slice f} (k : Keeps s t) : Keeps s (mapSync slice f t) := mapSlice_keeps k

theorem takeSyncAck_keeps {slice block} (k : Keeps s t) : Keeps s (takeSyncAck slice block t) := by
  unfold takeSyncAck
  split
  · exact k
  · exact .ite k (.ite (emitD2d_keeps (mapSync_keeps k)) (mapSync_keeps k))

theorem prepareSync_keeps {slice gen} (k : Keeps s t) : Keeps s (prepareSync slice gen t) :=
  .ite (takeSyncAck_keeps k) (sendD2d_keeps (mapSlice_keeps k))
theorem execSyncPrepare_ends {slice gen} : Ends wf s (execSyncPrepare slice gen s) :=
  .ite (.next (.refl s)) (.next (prepareSync_keeps (.refl s)))
theorem execSyncAck_ends {slice block} : Ends wf s (execSyncAck slice block s) := .next (takeSyncAck_keeps (.refl s))

theorem execSyncAckTimeout_ends {slice} : Ends wf s (execSyncAckTimeout slice s) := by
  unfold execSyncAckTimeout
  split
  · exact .next (.refl s)
  · refine .ite ?_ ?_
    · exact .next (.refl s)
    · split
      · exact failCmd_keeps (emitD2d_keeps (mapSlice_keeps (.refl s)))
      · exact emitD2d_keeps (mapSlice_keeps (.refl s))

theorem switchBank_keeps {slice gen} (k : Keeps s t) : Keeps s (switchBank slice gen t) := k

theorem execSyncSwitch_ends {slice} : Ends wf s (execSyncSwitch slice s) := by
  unfold execSyncSwitch
  split
  · exact .next (.refl s)
  · split
    · exact .next (.refl s)
    · exact .ite (.next (.refl s)) (.next (switchBank_keeps (.refl s)))

theorem mirrorBanks_keeps {slice} (k : Keeps s t) : Keeps s (mirrorBanks slice t) := by
  unfold mirrorBanks
  split
  · exact .ite (emit_keeps k) k
  · exact k

theorem takeDrained_keeps {slice block} (k : Keeps s t) : Keeps s (takeDrained slice block t) := by
  unfold takeDrained
  split
  · exact k
  · dsimp only
    refine .ite ?_ ?_
    · split
      · exact genReply_keeps (mirrorBanks_keeps (mapSlice_keeps k))
      · exact mirrorBanks_keeps (mapSlice_keeps k)
    · exact mapSync_keeps k

theorem execSyncDrainDone_ends {slice block} : Ends wf s (execSyncDrainDone slice block s) := by
  unfold execSyncDrainDone
  split
  · exact .next (.refl s)
  · exact .ite (.next (.refl s)) (.ite (.next (takeDrained_keeps (.refl s)))
      (.ite (.next (sendD2d_keeps (mirrorBanks_keeps (mapSlice_keeps (.refl s))))) (.next (.refl s))))

/-! ### Packets from the fabric -/

theorem notePeer_keeps {p} (k : Keeps s t) : Keeps s (notePeer p t) := by
  unfold notePeer
  split
  · exact .ite (addPeer_keeps k) k
  · exact k

theorem refuse_keeps {p cause} (k : Keeps s t) : Keeps s (refuse p cause t) := respond_keeps k

theorem noteCorrection_keeps {p} (k : Keeps s t) : Keeps s (noteCorrection p t) := by
  unfold noteCorrection
  refine .ite ?_ ?_
  · split
    · exact countCorrection_keeps k
    · exact k
  · exact k

theorem acceptType_ends {type p act} (hact : ∀ t, Keeps s t → Keeps s (act t)) : Ends wf s (acceptType type p act s) := by
  unfold acceptType
  refine .ite ?_ ?_
  · exact .next (.refl s)
  · refine .ite ?_ ?_
    · exact .next (.refl s)
    · split
      · exact .next (refuse_keeps (.refl s))
      · exact .next (hact _ (notePeer_keeps (.refl s)))

theorem checkedPayload_keeps {p act} (hact : ∀ t, Keeps s t → Keeps s (act t)) (k : Keeps s t) : Keeps s (checkedPayload p act t) :=
  .ite (respond_keeps k) (hact _ (noteCorrection_keeps k))
theorem countRefusal_keeps {win} (k : Keeps s t) : Keeps s (countRefusal win t) := k

theorem pieceAccess_keeps {slice : Nat} {p : Packet} {ps : List Piece} (k : Keeps s t) : Keeps s (pieceAccess slice p ps t) := by
  refine foldl_fst_keeps (fun a z k' => ?_) k
  dsimp only
  split
  · exact readPiece_keeps k'
  · exact writePiece_keeps k'
  · exact atomPiece_keeps k'
  · exact .ite (foldl_keeps (fun _ _ k'' => reducePiece_keeps k'') k') (reducePiece_keeps k')

theorem allocCounter_keeps {p} (k : Keeps s t) : Keeps s (allocCounter p t) := .ite k k

theorem goAccess_keeps {slice p ps log} (hlog : ∀ t, Keeps s t → Keeps s (log t)) (k : Keeps s t) :
    Keeps s (goAccess slice p ps log t) :=
  .ite (respond_keeps k) (.ite (respond_keeps k)
    (settleGather_keeps (pieceAccess_keeps (hlog _ (openGather_keeps (noteCorrection_keeps (.ite (allocCounter_keeps k) k)))))))

theorem memAccess_keeps {p} (k : Keeps s t) : Keeps s (memAccess p t) := by
  unfold memAccess
  refine .ite ?_ ?_
  · dsimp only
    split
    · exact countRefusal_keeps (refuse_keeps (stepFree_keeps k))
    · split
      · exact countRefusal_keeps (refuse_keeps (writeRecord_keeps (stepFree_keeps k)))
      · exact goAccess_keeps (fun _ k' => (logWrite_keeps (cachePages_keeps k'))) (stepFree_keeps k)
  · exact .ite (refuse_keeps k) (goAccess_keeps (fun _ k' => k') k)

theorem execFabricRead_ends {p} : Ends wf s (execFabricRead p s) := acceptType_ends (fun _ k' => (memAccess_keeps k'))
theorem execFabricWrite_ends {p} : Ends wf s (execFabricWrite p s) := acceptType_ends (fun _ k' => (memAccess_keeps k'))
theorem execFabricAtom_ends {p} : Ends wf s (execFabricAtom p s) := acceptType_ends (fun _ k' => (memAccess_keeps k'))
theorem execFabricReduce_ends {p} : Ends wf s (execFabricReduce p s) := acceptType_ends (fun _ k' => (memAccess_keeps k'))
theorem holdSignal_keeps {p sl u i need} (k : Keeps s t) : Keeps s (holdSignal p sl u i need t) :=
  .ite (respond_keeps k) (releaseHeld_keeps (allocCounter_keeps k))
theorem freeCounter_keeps {source epoch} (k : Keeps s t) : Keeps s (freeCounter source epoch t) := k

theorem takeSignal_keeps {p} (k : Keeps s t) : Keeps s (takeSignal p t) := by
  unfold takeSignal
  split
  · exact refuse_keeps k
  · exact .ite (respond_keeps k) (.ite (respond_keeps (mailboxAdd_keeps (noteCorrection_keeps k)))
      (.ite (respond_keeps (mailboxAdd_keeps (freeCounter_keeps (noteCorrection_keeps k)))) (holdSignal_keeps (noteCorrection_keeps k))))

theorem execFabricSig_ends {p} : Ends wf s (execFabricSig p s) := acceptType_ends (fun _ k' => (takeSignal_keeps k'))

theorem execSyncOrder_ends {unit source epoch} : Ends wf s (execSyncOrder unit source epoch s) := by
  unfold execSyncOrder
  split
  · exact .next (.refl s)
  · exact .ite (.next (.refl s)) (.next (refuse_keeps (writeRecord_keeps (.refl s))))

theorem takeArrival_keeps {p a} (k : Keeps s t) : Keeps s (takeArrival p a t) := by
  unfold takeArrival
  dsimp only
  refine .ite ?_ ?_
  · exact refuse_keeps k
  · refine .ite ?_ ?_
    · exact respond_keeps k
    · refine .ite ?_ ?_
      · exact respond_keeps k
      · refine .ite ?_ ?_
        · exact sendReleases_keeps (respond_keeps k)
        · split
          · exact refuse_keeps k
          · exact .ite (respond_keeps k) (placeArrival_keeps (respond_keeps (noteCorrection_keeps k)))

theorem execGateArrive_ends {p a} : Ends wf s (execGateArrive p a s) := acceptType_ends (fun _ k' => (takeArrival_keeps k'))

theorem execGateRelease_ends {p gate gen} : Ends wf s (execGateRelease p gate gen s) := by
  unfold execGateRelease
  refine .ite ?_ ?_
  · exact .next (.refl s)
  · split
    · exact .next (landRelease_keeps (notePeer_keeps (noteCorrection_keeps (.refl s))))
    · exact .next (.refl s)

theorem discardHeld_keeps {slice} (k : Keeps s t) : Keeps s (discardHeld slice t) := foldl_keeps (fun _ _ k' => (refuse_keeps k')) k
theorem abortStep_keeps {node o sl} (k : Keeps s t) : Keeps s (abortStep node o t sl) :=
  .ite (mapSlice_keeps k) (writeRecord_keeps (mapSlice_keeps (discardHeld_keeps k)))
theorem takeAbort_keeps {p} (k : Keeps s t) : Keeps s (takeAbort p t) :=
  settleGather_keeps (foldl_keeps (fun _ _ k' => (abortStep_keeps k')) (openGather_keeps k))
theorem execStepCtlAbort_ends {p} : Ends wf s (execStepCtlAbort p s) :=
  acceptType_ends (fun _ k' => (.ite (checkedPayload_keeps (fun _ k'' => (takeAbort_keeps k'')) k') k'))
theorem restartSlice_keeps {node sl} (k : Keeps s t) : Keeps s (restartSlice node t sl) :=
  .ite (foldl_keeps (fun _ _ k' => (mapQueue_keeps k')) (mapSlice_keeps k)) (mapSlice_keeps k)
theorem takeRestart_keeps {p} (k : Keeps s t) : Keeps s (takeRestart p t) :=
  respond_keeps (foldl_keeps (fun _ _ k' => (restartSlice_keeps k')) k)
theorem execStepCtlRestart_ends {p} : Ends wf s (execStepCtlRestart p s) :=
  acceptType_ends (fun _ k' => (.ite (checkedPayload_keeps (fun _ k'' => (takeRestart_keeps k'')) k') k'))

/-! ### Power -/

theorem mapPower_keeps {f} (k : Keeps s t) : Keeps s (mapPower f t) := k
theorem stagePower_keeps {level short ok} (k : Keeps s t) : Keeps s (stagePower level short ok t) :=
  .ite (emit_keeps (mapPower_keeps k)) (mapPower_keeps k)
theorem raiseCaps_keeps (k : Keeps s t) : Keeps s (raiseCaps t) := foldl_keeps (fun _ _ k' => (raiseSource_keeps k')) k
theorem stageLevels_keeps {p rs} (k : Keeps s t) : Keeps s (stageLevels p rs t) :=
  stagePower_keeps (foldl_keeps (fun _ _ k' => (sendD2d_keeps k')) (.ite (raiseCaps_keeps k) k))

theorem execGovernorStage_ends {reading reports} : Ends wf s (execGovernorStage reading reports s) := by
  unfold execGovernorStage
  refine .ite ?_ ?_
  · exact .next (.refl s)
  · dsimp only
    split
    · exact .next (mapPower_keeps (raiseCaps_keeps (mapPower_keeps (.refl s))))
    · exact .next (stageLevels_keeps (mapPower_keeps (.refl s)))

theorem takeGrant_keeps {levels} (k : Keeps s t) : Keeps s (takeGrant levels t) := stagePower_keeps (mapPower_keeps k)
theorem presentLevel_keeps {level n} (k : Keeps s t) : Keeps s (presentLevel level t n) := .ite k (emit_keeps (setEnginePort_keeps k))
theorem setLevel_keeps {level} (k : Keeps s t) : Keeps s (setLevel level t) :=
  foldl_keeps (fun _ _ k' => (presentLevel_keeps k')) (mapPower_keeps k)
theorem setVoltage_keeps {mv} (k : Keeps s t) : Keeps s (setVoltage mv t) := .ite k (emit_keeps (mapPower_keeps k))
theorem execEngineThrottleAck_ends {port level} (h : 8 ≤ port → wf = false) :
    Ends wf s (execEngineThrottleAck port level s) :=
  .fault h (.ite (.next (.refl s)) (.next (setEnginePort_keeps (.refl s))))
theorem execThrottleAckTimeout_ends {port} (h : 8 ≤ port → wf = false) : Ends wf s (execThrottleAckTimeout port s) :=
  .fault h (.ite (.next (setEnginePort_keeps (.refl s))) (.next (.refl s)))
theorem endSchuss_keeps (k : Keeps s t) : Keeps s (endSchuss t) := mapPower_keeps k
theorem execVrAlert_ends : Ends wf s (execVrAlert s) :=
  .next (raiseSource_keeps (setVoltage_keeps (setLevel_keeps (mapPower_keeps (endSchuss_keeps (.refl s))))))
theorem execClampEnd_ends : Ends wf s (execClampEnd s) := .ite (.next (mapPower_keeps (.refl s))) (.next (.refl s))
theorem execThermalTrip_ends {block} : Ends wf s (execThermalTrip block s) :=
  .ite (.next (.refl s)) (.next (.ite (setVoltage_keeps (endSchuss_keeps (mapPower_keeps (.refl s))))
    (raiseSource_keeps (mapPower_keeps (setVoltage_keeps (endSchuss_keeps (mapPower_keeps (.refl s))))))))
theorem execCoreVoltageReached_ends : Ends wf s (execCoreVoltageReached s) :=
  .ite (.next (mapPower_keeps (.refl s))) (.next (.refl s))

theorem endTrip_keeps (k : Keeps s t) : Keeps s (endTrip t) := by
  unfold endTrip
  split
  · exact .ite (setVoltage_keeps (mapPower_keeps k)) k
  · exact k

theorem switchSchuss_keeps (k : Keeps s t) : Keeps s (switchSchuss t) :=
  .ite (mapPower_keeps k) (.ite (mapPower_keeps k) (setVoltage_keeps (mapPower_keeps k)))
theorem powerBoundary_keeps (k : Keeps s t) : Keeps s (powerBoundary t) :=
  mapPower_keeps (setLevel_keeps (switchSchuss_keeps (endTrip_keeps k)))
theorem doSetSchuss_keeps {c} (k : Keeps s t) : Keeps s (doSetSchuss c t) := finishOk_keeps (mapPower_keeps k)
theorem execSetSchuss_ends {seq} : Ends wf s (execSetSchuss seq s) := cmdStep_ends (fun _ _ k' => (doSetSchuss_keeps k'))
theorem zeroCluster_keeps {c} (k : Keeps s t) : Keeps s (zeroCluster c t) := k
theorem setCluster_keeps {c off gated retention} (k : Keeps s t) : Keeps s (setCluster c off gated retention t) :=
  mapPower_keeps (.ite (zeroCluster_keeps k) k)
theorem placeCluster_keeps {c} (k : Keeps s t) : Keeps s (placeCluster t c) :=
  .ite (setCluster_keeps k) (.ite (setCluster_keeps k) (setCluster_keeps k))
theorem enterDeep_keeps (k : Keeps s t) : Keeps s (enterDeep t) := mapPower_keeps k
theorem domainBoundary_keeps (k : Keeps s t) : Keeps s (domainBoundary t) :=
  .ite k (.ite (enterDeep_keeps (mapPower_keeps (foldl_keeps (fun _ _ k' => (placeCluster_keeps k')) k)))
    (mapPower_keeps (foldl_keeps (fun _ _ k' => (placeCluster_keeps k')) k)))
theorem execDeepIdleWake_ends {why} : Ends wf s (execDeepIdleWake why s) :=
  .ite (.next (mapPower_keeps (.refl s))) (.next (.refl s))
theorem leaveDeep_keeps (k : Keeps s t) : Keeps s (leaveDeep t) := .ite (deliverLatched_keeps (mapPower_keeps k)) k
theorem execPowerDomainOn_ends {domain} (h : 82 ≤ domain → wf = false) : Ends wf s (execPowerDomainOn domain s) :=
  .fault h (.ite (.next (.refl s)) (.ite (.ite (.next (leaveDeep_keeps (mapPower_keeps (.refl s)))) (.next (.refl s)))
    (.ite (.ite (.next (.refl s)) (.next (mapPower_keeps (.ite (zeroCluster_keeps (.refl s)) (.refl s))))) (.next (.refl s)))))

/-! ### Chairs and contexts -/

theorem mapLift_keeps {f} (k : Keeps s t) : Keeps s (mapLift f t) := k
theorem turnHalves_keeps (k : Keeps s t) : Keeps s (turnHalves t) := k
theorem endTick_keeps (k : Keeps s t) : Keeps s (endTick t) := takeDumps_keeps k

theorem countLanes_keeps (k : Keeps s t) : Keeps s (countLanes t) := by
  refine foldl_keeps (fun t e k' => ?_) k
  split
  · exact setLane_keeps (t := { t with free := t.free + 1 }) k'
  · exact k'

theorem tickOnce_keeps (k : Keeps s t) : Keeps s (tickOnce t) :=
  .ite (turnHalves_keeps (dueLogSwaps_keeps (countLanes_keeps (endTick_keeps k))))
    (flushOutbox_keeps (turnHalves_keeps (dueLogSwaps_keeps (countLanes_keeps (endTick_keeps k)))))
theorem execLiftTick_ends : Ends wf s (execLiftTick s) := .ite (.next (tickOnce_keeps (.refl s))) (.next (.refl s))
theorem execLiftRefEdge_ends : Ends wf s (execLiftRefEdge s) :=
  .ite (.next (.refl s)) (.ite (.next (tickOnce_keeps (.refl s))) (.ite (.next (emitD2d_keeps (.refl s))) (.next (.refl s))))
theorem loadCount_keeps {count} (k : Keeps s t) : Keeps s (loadCount count t) := mapLift_keeps k
theorem takeLift_keeps {count} (k : Keeps s t) : Keeps s (takeLift count t) :=
  .ite (raiseSource_keeps (writeRecord_keeps (mapLift_keeps (mapLift_keeps (emitD2d_keeps k))))) (mapLift_keeps (emitD2d_keeps k))
theorem takeSlew_keeps {tick ns} (k : Keeps s t) : Keeps s (takeSlew tick ns t) := mapLift_keeps k
theorem takeLeadCount_keeps {count} (k : Keeps s t) : Keeps s (takeLeadCount count t) := .ite (loadCount_keeps k) k
theorem shareCount_keeps (k : Keeps s t) : Keeps s (shareCount t) := .ite (emitD2d_keeps k) k

theorem execLiftPacket_ends {source count} : Ends wf s (execLiftPacket source count s) := by
  unfold execLiftPacket
  refine .ite ?_ ?_
  · exact .next (.refl s)
  · split
    · exact .ite (.next (.refl s)) (.ite (.next (shareCount_keeps (loadCount_keeps (.refl s)))) (.ite (.next (takeLift_keeps (.refl s)))
        (.next (.refl s))))
    · exact .ite (.next (takeLeadCount_keeps (.refl s))) (.next (.refl s))
    · exact .next (.refl s)

theorem execLiftHoldover_ends : Ends wf s (execLiftHoldover s) :=
  .ite (.next (raiseSource_keeps (mapLift_keeps (.refl s)))) (.next (.refl s))

theorem allocate_keeps {u} (k : Keeps s t) : Keeps s (allocate u t) := by
  unfold allocate
  split
  · exact k
  · exact mapUnit_keeps k

theorem stopCurrent_keeps {u} (k : Keeps s t) : Keeps s (stopCurrent u t) := by
  unfold stopCurrent
  split
  · exact .ite k (mapUnit_keeps (askUnits_keeps k))
  · exact k

theorem markSlot_keeps {u} (k : Keeps s t) : Keeps s (markSlot u t) := k
theorem execSlotEnd_ends {unit} : Ends wf s (execSlotEnd unit s) :=
  .ite (.next (.refl s)) (.ite (.next (stopCurrent_keeps (.refl s))) (.next (allocate_keeps (markSlot_keeps (.refl s)))))
theorem allocateChair_keeps (k : Keeps s t) : Keeps s (allocateChair t) :=
  foldl_keeps (fun _ _ k' => (.ite (stopCurrent_keeps k') (allocate_keeps (markSlot_keeps k')))) k
theorem execPlanFix_ends : Ends wf s (execPlanFix s) := .ite (.next (.refl s)) (.next (mapLift_keeps (.refl s)))

theorem writeSave_keeps {slice va bs} (k : Keeps s t) : Keeps s (writeSave slice va bs t) := by
  unfold writeSave
  split
  · exact k
  · split
    · exact k
    · exact writePieces_keeps (logWrite_keeps (cachePages_keeps k))

theorem saveMemory_keeps {slice va : Nat} {bs : List Byte} (k : Keeps s t) : Keeps s (saveMemory slice va bs t) := by
  obtain ⟨hp, hc, hm⟩ := k
  obtain ⟨_, _, hw⟩ := writeSave_keeps (slice := slice) (va := va) (bs := bs) (Keeps.refl t)
  exact ⟨hp, hc, fun hs => hw (hm hs)⟩

theorem saveUnit_keeps {slice u} (k : Keeps s t) : Keeps s (saveUnit slice u t) :=
  mapContext_keeps (countFixes_keeps (saveMemory_keeps k))
theorem leavePlace_keeps {slice} (k : Keeps s t) : Keeps s (leavePlace slice t) := mapContext_keeps k

theorem execContextSaveDone_ends {slice unit} : Ends wf s (execContextSaveDone slice unit s) := by
  unfold execContextSaveDone
  split
  · exact .ite (.next (.refl s)) (.next (leavePlace_keeps (saveUnit_keeps (.refl s))))
  · exact .next (.refl s)

theorem claimTallies_keeps {slice u slot} (k : Keeps s t) : Keeps s (claimTallies slice u slot t) :=
  foldl_keeps (fun _ _ k' => (by split; exacts [setTallyAt_keeps k', k'])) k
theorem loadUnit_keeps {slice u v slot} (k : Keeps s t) : Keeps s (loadUnit slice u v slot t) :=
  foldl_keeps (fun _ _ k' => (addTally_keeps k'))
    (mapUnit_keeps (mapContext_keeps (foldl_keeps (fun _ _ k' => (by split; exacts [setTallyAt_keeps k', k'])) k)))

theorem execContextLoadDone_ends {slice unit} : Ends wf s (execContextLoadDone slice unit s) := by
  unfold execContextLoadDone
  split
  · exact .next (.refl s)
  · exact .ite (.next (.refl s)) (.next (.ite (allocate_keeps (mapContext_keeps (loadUnit_keeps (mapContext_keeps (stepFree_keeps (.refl s))))))
      (mapContext_keeps (loadUnit_keeps (mapContext_keeps (stepFree_keeps (.refl s)))))))

theorem beginEvict_keeps {slice} (k : Keeps s t) : Keeps s (beginEvict t slice) := k
theorem beginLoad_keeps {slice} (k : Keeps s t) : Keeps s (beginLoad t slice) :=
  foldl_keeps (fun _ _ k' => (by split; exacts [setCluster_keeps k', k'])) (mapContext_keeps k)
theorem loadPinned_keeps (k : Keeps s t) : Keeps s (loadPinned t) :=
  foldl_keeps (fun _ _ k' => (beginLoad_keeps k')) (foldl_keeps (fun _ _ k' => (beginEvict_keeps k')) k)

theorem stageSet_keeps (k : Keeps s t) : Keeps s (stageSet t) := by
  unfold stageSet
  split
  · exact .ite (loadPinned_keeps (emitD2d_keeps k)) k
  · exact k

theorem startHandoff_keeps (k : Keeps s t) : Keeps s (startHandoff t) := by
  unfold startHandoff
  split
  · exact holdCommit_keeps k
  · exact k

theorem execRelayZoneOpen_ends : Ends wf s (execRelayZoneOpen s) :=
  .ite (.next (.refl s)) (.next (startHandoff_keeps (stageSet_keeps (foldl_keeps (fun _ _ k' => (beginLoad_keeps k'))
    (foldl_keeps (fun _ _ k' => (beginEvict_keeps k')) (mapLift_keeps (.refl s)))))))

theorem execStagedSetConfirm_ends {block} : Ends wf s (execStagedSetConfirm block s) := by
  unfold execStagedSetConfirm
  split
  · exact .ite (.next (.refl s)) (.next (.refl s))
  · exact .next (.refl s)

theorem abortCommit_keeps {k0 status} (k : Keeps s t) : Keeps s (abortCommit k0 status t) := by
  unfold abortCommit
  dsimp only
  split
  · exact failCmd_keeps (emitD2d_keeps k)
  · exact emitD2d_keeps k

theorem execCommitGo_ends : Ends wf s (execCommitGo s) := by
  unfold execCommitGo
  refine .ite ?_ ?_
  · exact .next (.refl s)
  · dsimp only
    split
    · exact .next (mapLift_keeps (.refl s))
    · exact .ite (.next (mapLift_keeps (.refl s))) (.ite (.next (holdCommit_keeps (mapLift_keeps (.refl s))))
        (.ite (.next (emitD2d_keeps (.refl s))) (.ite (.next (mapLift_keeps (.refl s))) (.next (abortCommit_keeps (mapLift_keeps (.refl s)))))))

theorem noteResidue_keeps {old slice} (k : Keeps s t) : Keeps s (noteResidue old slice t) := by
  unfold noteResidue
  dsimp only
  split
  · exact k
  · exact writeRecord_keeps k

theorem removeContext_keeps {old slice} (k : Keeps s t) : Keeps s (removeContext old slice t) := noteResidue_keeps k

theorem settleContext_keeps {old slice} (k : Keeps s t) : Keeps s (settleContext old t slice) := by
  unfold settleContext
  split
  · exact .ite (removeContext_keeps k) k
  · dsimp only
    refine .ite ?_ ?_
    · refine mapContext_keeps ?_
      split
      · exact .ite (foldl_keeps (fun _ _ k' => (claimTallies_keeps k')) k) k
      · exact k
    · exact by split; exacts [.ite (foldl_keeps (fun _ _ k' => (claimTallies_keeps k')) k) k, k]

theorem swapResurf_keeps {old gone slice} (k : Keeps s t) : Keeps s (swapResurf old gone t slice) := .ite k (mapSlice_keeps k)

theorem sendJoins_keeps {old slices} (k : Keeps s t) : Keeps s (sendJoins old slices t) := by
  unfold sendJoins
  refine .ite ?_ ?_
  · exact k
  · exact foldl_keeps (fun _ _ k' => (by split; exacts [emitD2d_keeps k', k'])) k

theorem swapSlices_keeps {old} (k : Keeps s t) : Keeps s (swapSlices old t) :=
  sendJoins_keeps (foldl_keeps (fun _ _ k' => (swapResurf_keeps k')) (foldl_keeps (fun _ _ k' => (swapResurf_keeps k'))
    (foldl_keeps (fun _ _ k' => (settleContext_keeps k')) k)))
theorem applyRts_keeps (k : Keeps s t) : Keeps s (applyRts t) := k

theorem swapSet_keeps (k : Keeps s t) : Keeps s (swapSet t) := by
  unfold swapSet
  split
  · exact k
  · refine .ite ?_ ?_
    · exact k
    · dsimp only
      split
      · exact finishOk_keeps (.ite (emit_keeps (applyRts_keeps (swapSlices_keeps k))) (applyRts_keeps (swapSlices_keeps k)))
      · exact .ite (emit_keeps (applyRts_keeps (swapSlices_keeps k))) (applyRts_keeps (swapSlices_keeps k))

theorem freshKey_keeps {slot} (k : Keeps s t) : Keeps s (freshKey t slot) := .ite (emit_keeps k) k

theorem eraseSlice_keeps {x} (k : Keeps s t) : Keeps s (eraseSlice t x) := by
  unfold eraseSlice
  split
  · exact k
  · exact .ite k (foldl_keeps (fun _ _ k' => (freshKey_keeps k')) k)

theorem clearTraces_keeps {slice} (k : Keeps s t) : Keeps s (clearTraces slice t) := k

theorem endResurf_keeps {x} (k : Keeps s t) : Keeps s (endResurf t x) := by
  unfold endResurf
  split
  · exact k
  · refine .ite ?_ ?_
    · exact k
    · dsimp only
      split
      · exact finishOk_keeps (.ite (foldl_keeps (fun _ _ k' => (reportQueue_keeps k')) (.ite k (mapSlice_keeps (clearTraces_keeps k))))
          (.ite k (mapSlice_keeps (clearTraces_keeps k))))
      · exact .ite (foldl_keeps (fun _ _ k' => (reportQueue_keeps k')) (.ite k (mapSlice_keeps (clearTraces_keeps k))))
          (.ite k (mapSlice_keeps (clearTraces_keeps k)))

theorem clearCluster_keeps {slice c} (k : Keeps s t) : Keeps s (clearCluster slice c t) := by
  unfold clearCluster
  dsimp only
  split
  · exact .ite (claimTallies_keeps k) k
  · exact k

theorem execResurfaceZeroDone_ends {slice cluster} : Ends wf s (execResurfaceZeroDone slice cluster s) := by
  unfold execResurfaceZeroDone
  split
  · exact .next (.refl s)
  · exact .ite (.next (.refl s)) (.next (allocate_keeps (mapSlice_keeps (clearCluster_keeps (.refl s)))))

theorem retireCluster_keeps {c} (k : Keeps s t) : Keeps s (retireCluster c t) := .ite k (raiseSource_keeps (writeRecord_keeps k))
theorem retireArray_keeps {a} (k : Keeps s t) : Keeps s (retireArray t a) :=
  .ite k (.ite (retireCluster_keeps (raiseSource_keeps (writeRecord_keeps k))) (raiseSource_keeps (writeRecord_keeps k)))
theorem mirrorLedgers_keeps (k : Keeps s t) : Keeps s (mirrorLedgers t) := .ite k (foldl_keeps (fun _ _ k' => (sendImage_keeps k')) k)
theorem heartbeat_keeps (k : Keeps s t) : Keeps s (heartbeat t) := .ite (emit_keeps k) k
theorem reportShown_keeps {old} (k : Keeps s t) : Keeps s (reportShown old t) :=
  foldl_keeps (fun _ _ k' => (.ite (reportQueue_keeps k') k')) k

theorem chairEvents_keeps (k : Keeps s t) : Keeps s (chairEvents t) :=
  shareCount_keeps (heartbeat_keeps (mirrorLedgers_keeps (turnHalves_keeps (allocateChair_keeps (domainBoundary_keeps (powerBoundary_keeps
    (reportShown_keeps (foldl_keeps (fun _ _ k' => (retireArray_keeps k')) (foldl_keeps (fun _ _ k' => (eraseSlice_keeps k'))
    (swapSet_keeps (foldl_keeps (fun _ _ k' => (endResurf_keeps k')) k)))))))))))

theorem execChairBoundary_ends : Ends wf s (execChairBoundary s) :=
  .ite (.next (.refl s)) (.next (chairEvents_keeps (mapLift_keeps (.refl s))))

/-! ### Twins -/

theorem mapTwin_keeps {f} (k : Keeps s t) : Keeps s (mapTwin f t) := k
theorem replyTwin_keeps {c} (k : Keeps s t) : Keeps s (replyTwin c t) := finishOk_keeps k
theorem openChannel_keeps (k : Keeps s t) : Keeps s (openChannel t) := emitAll_keeps k
theorem initialCopy_keeps (k : Keeps s t) : Keeps s (initialCopy t) :=
  emit_keeps (foldl_keeps (fun _ _ k' => (sendImage_keeps (mirrorBanks_keeps k'))) (openChannel_keeps k))

theorem beginPairing_keeps {node mode} (k : Keeps s t) : Keeps s (beginPairing node mode t) := by
  unfold beginPairing
  dsimp only
  split
  · exact replyTwin_keeps (initialCopy_keeps (setTwinState_keeps (mapTwin_keeps k)))
  · exact initialCopy_keeps (setTwinState_keeps (mapTwin_keeps k))

theorem agreeMode_keeps {mode} (k : Keeps s t) : Keeps s (agreeMode mode t) := by
  unfold agreeMode
  dsimp only
  split
  · exact replyTwin_keeps (settleTwin_keeps (mapTwin_keeps k))
  · exact settleTwin_keeps (mapTwin_keeps k)

theorem failPairing_keeps {status} (k : Keeps s t) : Keeps s (failPairing status t) := by
  unfold failPairing
  dsimp only
  split
  · exact failCmd_keeps (mapTwin_keeps k)
  · exact mapTwin_keeps k

theorem matchRequests_keeps (k : Keeps s t) : Keeps s (matchRequests t) := by
  unfold matchRequests
  split
  · exact .ite k (.ite (failPairing_keeps k) (.ite (beginPairing_keeps k) (agreeMode_keeps k)))
  · exact k

theorem dropOldRequest_keeps (k : Keeps s t) : Keeps s (dropOldRequest t) := mapTwin_keeps k

theorem doPairTwin_keeps {c} (k : Keeps s t) : Keeps s (doPairTwin c t) :=
  .ite k (.ite (failCmd_keeps k) (.ite (failCmd_keeps k) (.ite (.ite (replyTwin_keeps (setTwinState_keeps k))
    (matchRequests_keeps (setPhase_keeps (emit_keeps (dropOldRequest_keeps (mapTwin_keeps k)))))) (.ite (.ite (replyTwin_keeps k)
    (matchRequests_keeps (setPhase_keeps (emit_keeps (dropOldRequest_keeps (mapTwin_keeps k)))))) (failCmd_keeps k)))))

theorem execPairTwin_ends {seq} : Ends wf s (execPairTwin seq s) := cmdStep_ends (fun _ _ k' => (doPairTwin_keeps k'))

theorem execPairTwinTimeout_ends : Ends wf s (execPairTwinTimeout s) := by
  unfold execPairTwinTimeout
  split
  · exact .ite (.next (.refl s)) (.next (failPairing_keeps (mapTwin_keeps (.refl s))))
  · exact .next (.refl s)

theorem leaveTwin_keeps (k : Keeps s t) : Keeps s (leaveTwin t) := setTwinState_keeps k
theorem doUnpair_keeps {c} (k : Keeps s t) : Keeps s (doUnpair c t) :=
  .ite (failCmd_keeps k) (.ite (replyTwin_keeps k) (replyTwin_keeps (leaveTwin_keeps k)))
theorem execUnpair_ends {seq} : Ends wf s (execUnpair seq s) := cmdStep_ends (fun _ _ k' => (doUnpair_keeps k'))

theorem execStepImage_ends {slice} : Ends wf s (execStepImage slice s) := by
  unfold execStepImage
  split
  · exact .next (.refl s)
  · split
    · exact .next (.refl s)
    · exact .ite (.next (.refl s)) (.next (mapSlice_keeps (sendImage_keeps (.refl s))))

theorem creditLedger_keeps {e} (k : Keeps s t) : Keeps s (creditLedger t e) := reportQueue_keeps (mapQueue_keeps (mapQueue_keeps k))

theorem takeImageAck_keeps {slice step} (k : Keeps s t) : Keeps s (takeImageAck slice step t) := by
  unfold takeImageAck
  split
  · exact k
  · exact settleCommands_keeps (foldl_keeps (fun _ _ k' => (creditLedger_keeps k')) (.ite (mapSlice_keeps (mapTwin_keeps k)) (mapTwin_keeps k)))

/-- Folding an operation that keeps a table in its canonical form keeps it. -/
theorem sorted_foldl {α β : Type} {f : List (Nat × β) → α → List (Nat × β)} (h : ∀ m a, Sparse.sorted m = true → Sparse.sorted (f m a) = true)
    {l : List α} {m : List (Nat × β)} (hm : Sparse.sorted m = true) : Sparse.sorted (l.foldl f m) = true := by
  induction l generalizing m with
  | nil => exact hm
  | cons a l ih => exact ih (h m a hm)

theorem storePages_keeps {m : MirrorImage} (k : Keeps s t) : Keeps s (storePages m t) := by
  obtain ⟨hp, hc, hm⟩ := k
  refine ⟨hp, hc, fun hs => ⟨?_, ?_⟩⟩
  · exact sorted_foldl (fun c _ => Sparse.sorted_put c _ _) (sorted_foldl (fun c _ => Sparse.sorted_delRange c _ _) (hm hs).1)
  · exact sorted_foldl (fun c _ => Sparse.sorted_put c _ _) (hm hs).2

theorem holdImage_keeps {m} (k : Keeps s t) : Keeps s (holdImage m t) := mapTwin_keeps (storePages_keeps k)
theorem takeImage_keeps {m whole} (k : Keeps s t) : Keeps s (takeImage m whole t) :=
  .ite k (.ite (holdImage_keeps k) (emit_keeps (holdImage_keeps k)))
theorem sendNotice_keeps {kind failed node} (k : Keeps s t) : Keeps s (sendNotice kind failed t node) := postRequest_keeps k

theorem beginFailover_keeps {replay} (k : Keeps s t) : Keeps s (beginFailover replay t) := by
  unfold beginFailover
  split
  · exact k
  · exact foldl_keeps (fun _ _ k' => (sendNotice_keeps k'))
      (emit_keeps (by split; exacts [abortCommit_keeps (setTwinState_keeps (mapTwin_keeps k)), setTwinState_keeps (mapTwin_keeps k)]))

theorem installAssumed_keeps {slice} (k : Keeps s t) : Keeps s (installAssumed t slice) := k

theorem settleFailover_keeps (k : Keeps s t) : Keeps s (settleFailover t) := by
  unfold settleFailover
  split
  · exact k
  · refine .ite ?_ ?_
    · exact k
    · dsimp only
      split
      · exact replyTwin_keeps (mapTwin_keeps (foldl_keeps (fun _ _ k' => (sendNotice_keeps k')) (foldl_keeps (fun _ _ k' => (installAssumed_keeps k'))
          (mapTwin_keeps k))))
      · exact foldl_keeps (fun _ _ k' => (sendNotice_keeps k')) (foldl_keeps (fun _ _ k' => (installAssumed_keeps k')) (mapTwin_keeps k))

theorem execRemapAck_ends : Ends wf s (execRemapAck s) := by
  unfold execRemapAck
  split
  · exact .ite (.next (.refl s)) (.next (settleFailover_keeps (.refl s)))
  · exact .next (.refl s)

theorem execFabricResponse_ends {p} : Ends wf s (execFabricResponse p s) :=
  .next (settleFailover_keeps (takeResponse_keeps (.refl s)))
theorem doFailover_keeps {c} (k : Keeps s t) : Keeps s (doFailover c t) :=
  .ite k (.ite (failCmd_keeps k) (.ite (failCmd_keeps k) (setPhase_keeps (emit_keeps (mapTwin_keeps k)))))
theorem execFailover_ends {seq} : Ends wf s (execFailover seq s) := cmdStep_ends (fun _ _ k' => (doFailover_keeps k'))
theorem execTwinHeartbeatTimeout_ends : Ends wf s (execTwinHeartbeatTimeout s) :=
  .ite (.next (emit_keeps (mapTwin_keeps (.refl s)))) (.next (.refl s))

theorem execTwinProbeTimeout_ends : Ends wf s (execTwinProbeTimeout s) := by
  unfold execTwinProbeTimeout
  split
  · exact .ite (.next (beginFailover_keeps (.refl s))) (.next (.refl s))
  · exact .next (.refl s)

theorem takeHeartbeat_keeps {takeover} (k : Keeps s t) : Keeps s (takeHeartbeat takeover t) := by
  unfold takeHeartbeat
  dsimp only
  split
  · exact .ite (emit_keeps (mapTwin_keeps k)) (mapTwin_keeps k)
  · exact .ite (mapTwin_keeps k) (.ite (writeRecord_keeps (mapTwin_keeps k)) (beginFailover_keeps (mapTwin_keeps k)))

theorem stopPlain_keeps {x} (k : Keeps s t) : Keeps s (stopPlain t x) :=
  .ite k (reportQueue_keeps (mapQueue_keeps (stopQueueWork_keeps k)))
theorem fence_keeps (k : Keeps s t) : Keeps s (fence t) :=
  setTwinState_keeps (mapTwin_keeps (writeRecord_keeps (foldl_keeps (fun _ _ k' => (stopPlain_keeps k')) k)))
theorem takePairRequest_keeps {from' mode named} (k : Keeps s t) : Keeps s (takePairRequest from' mode named t) :=
  .ite k (.ite (emit_keeps k) (.ite (emit_keeps (matchRequests_keeps (mapTwin_keeps k)))
    (.ite (emit_keeps (matchRequests_keeps (mapTwin_keeps k))) (matchRequests_keeps (mapTwin_keeps k)))))

theorem takeTether_keeps {from' m} (k : Keeps s t) : Keeps s (takeTether from' m t) := by
  unfold takeTether
  split
  · exact takeImage_keeps k
  · exact .ite (emit_keeps (mapTwin_keeps k)) (mapTwin_keeps k)
  · exact mapTwin_keeps k
  · exact memWrite_keeps k
  · exact .ite k k
  · exact settleTwin_keeps (takeImageAck_keeps k)
  · exact .ite (setTwinState_keeps (mapTwin_keeps k)) k
  · exact takeHeartbeat_keeps k
  · exact emit_keeps k
  · exact mapTwin_keeps k
  · exact takePairRequest_keeps k
  · exact .ite (failPairing_keeps k) k
  · exact .ite (settleTwin_keeps (mapTwin_keeps k)) k
  · exact .ite (beginFailover_keeps k) k
  · exact .ite (fence_keeps k) k

theorem refuseTether_keeps {p m} (k : Keeps s t) : Keeps s (refuseTether p m t) := by
  unfold refuseTether
  dsimp only
  split
  · exact .ite (emit_keeps (refuse_keeps k)) (refuse_keeps k)
  · exact refuse_keeps k

theorem execTether_ends {p m} : Ends wf s (execTether p m s) :=
  acceptType_ends (fun _ k' => (.ite (refuseTether_keeps k') (checkedPayload_keeps (fun _ k'' => (takeTether_keeps (respond_keeps k''))) k')))

/-! ### Links and lanes -/

theorem mapGroup_keeps {g f} (k : Keeps s t) : Keeps s (mapGroup g f t) := setGroup_keeps k
theorem mapLane_keeps {k0 f} (k : Keeps s t) : Keeps s (mapLane k0 f t) := setLane_keeps k
theorem beginRetrain_keeps {g} (k : Keeps s t) : Keeps s (beginRetrain g t) := mapGroup_keeps k
theorem replay_keeps {g} (k : Keeps s t) : Keeps s (replay g t) :=
  .ite k (.ite (beginRetrain_keeps k) (emitAll_keeps (setGroup_keeps k)))

theorem askReplay_keeps {g} (k : Keeps s t) : Keeps s (askReplay g t) := by
  unfold askReplay
  split
  · exact .ite (emit_keeps k) (sendFrame_keeps k)
  · exact sendFrame_keeps k

theorem discardFrame_keeps {g f} (k : Keeps s t) : Keeps s (discardFrame g f t) := askReplay_keeps (mapGroup_keeps k)
theorem acceptFrame_keeps {g f} (k : Keeps s t) : Keeps s (acceptFrame g f t) :=
  .ite (mapGroup_keeps k) (.ite (sendParcel_keeps (mapGroup_keeps k)) (mapGroup_keeps (mapGroup_keeps k)))

theorem execLinkFrame_ends {group f} (h : 11 ≤ group → wf = false) : Ends wf s (execLinkFrame group f s) :=
  .fault h (.ite (.next (.refl s)) (.ite (.next (discardFrame_keeps (.ite (mapGroup_keeps (.refl s)) (.refl s))))
    (.next (releaseWaiting_keeps (flushOutbox_keeps (.ite (acceptFrame_keeps (.ite (replay_keeps (mapGroup_keeps (.ite (mapGroup_keeps (.refl s))
    (.refl s)))) (mapGroup_keeps (.ite (mapGroup_keeps (.refl s)) (.refl s))))) (.ite (replay_keeps (mapGroup_keeps (.ite (mapGroup_keeps (.refl s))
    (.refl s)))) (mapGroup_keeps (.ite (mapGroup_keeps (.refl s)) (.refl s))))))))))

theorem loseFrame_keeps {q} (k : Keeps s t) : Keeps s (loseFrame t q) := by
  unfold loseFrame
  dsimp only
  refine .ite ?_ ?_
  · exact sendParcel_keeps k
  · refine .ite ?_ ?_
    · exact k
    · refine .ite ?_ ?_
      · exact writeRecord_keeps k
      · refine .ite ?_ ?_
        · split
          · exact afterAnswer_keeps (ownerFault_keeps (dropTxn_keeps k))
          · exact k
        · exact k

theorem noteFabricDown_keeps (k : Keeps s t) : Keeps s (noteFabricDown t) := .ite k (writeRecord_keeps k)
theorem groupDown_keeps {g} (k : Keeps s t) : Keeps s (groupDown g t) :=
  noteFabricDown_keeps (foldl_keeps (fun _ _ k' => (loseFrame_keeps k')) (raiseSource_keeps (writeRecord_keeps (setGroup_keeps k))))
theorem execLinkRetrainDone_ends {group up} (h : 8 ≤ group → wf = false) : Ends wf s (execLinkRetrainDone group up s) :=
  .fault h (.ite (.next (.refl s)) (.ite (.next (releaseWaiting_keeps (flushOutbox_keeps (replay_keeps (mapGroup_keeps (.refl s))))))
    (.next (groupDown_keeps (.refl s)))))
theorem linkKey_keeps {g} (k : Keeps s t) : Keeps s (linkKey g t) := k

theorem execFabricTrainingDone_ends {group trained lanes node session} (h : 8 ≤ group → wf = false) :
    Ends wf s (execFabricTrainingDone group trained lanes node session s) :=
  .fault h (.ite (.next (.refl s)) (.ite (.next (.refl s))
    (.ite (.next (releaseWaiting_keeps (flushOutbox_keeps (.ite (linkKey_keeps (setGroup_keeps (.refl s))) (setGroup_keeps (.refl s))))))
    (.next (.ite (linkKey_keeps (setGroup_keeps (.refl s))) (setGroup_keeps (.refl s)))))))

theorem execPhyCalDone_ends {group ok} (h : 8 ≤ group → wf = false) : Ends wf s (execPhyCalDone group ok s) :=
  .fault h (.ite (.next (mapGroup_keeps (.refl s))) (.next (.refl s)))
theorem execLinkKeyUpdate_ends {group} (h : 8 ≤ group → wf = false) : Ends wf s (execLinkKeyUpdate group s) :=
  .fault h (.ite (.next (.refl s)) (.next (emit_keeps (linkKey_keeps (mapGroup_keeps (.refl s))))))
theorem execLaneSignalChange_ends {lane sigdet cdrLock} (h : 48 ≤ lane → wf = false) :
    Ends wf s (execLaneSignalChange lane sigdet cdrLock s) :=
  .fault h (.next (mapLane_keeps (.refl s)))
theorem execLaneInject_ends {lane} (h : 48 ≤ lane → wf = false) : Ends wf s (execLaneInject lane s) :=
  .fault h (.ite (.next (.refl s)) (.next (emit_keeps (setLane_keeps (.refl s)))))
theorem execLaneCheckerLock_ends {lane} (h : 48 ≤ lane → wf = false) : Ends wf s (execLaneCheckerLock lane s) :=
  .fault h (.ite (.next (mapLane_keeps (.refl s))) (.next (.refl s)))
theorem execLaneCheckerLoss_ends {lane} (h : 48 ≤ lane → wf = false) : Ends wf s (execLaneCheckerLoss lane s) :=
  .fault h (.ite (.next (mapLane_keeps (.refl s))) (.next (.refl s)))
theorem startTest_keeps {e} (k : Keeps s t) : Keeps s (startTest t e) := mapLane_keeps k
theorem doLaneTest_keeps {c} (k : Keeps s t) : Keeps s (doLaneTest c t) :=
  .ite (failCmd_keeps k) (.ite (failCmd_keeps k) (finishOk_keeps (emitAll_keeps (foldl_keeps (fun _ _ k' => (beginRetrain_keeps k'))
    (foldl_keeps (fun _ _ k' => (startTest_keeps k')) k)))))
theorem execLaneTest_ends {seq} : Ends wf s (execLaneTest seq s) := cmdStep_ends (fun _ _ k' => (doLaneTest_keeps k'))
theorem doLaneState_keeps {c} (k : Keeps s t) : Keeps s (doLaneState c t) :=
  .ite (failCmd_keeps k) (.ite (failCmd_keeps k) (finishOk_keeps (mapGroup_keeps k)))
theorem execLaneState_ends {seq} : Ends wf s (execLaneState seq s) := cmdStep_ends (fun _ _ k' => (doLaneState_keeps k'))

theorem execLaneStateExitDone_ends {group} (h : 8 ≤ group → wf = false) : Ends wf s (execLaneStateExitDone group s) := by
  unfold execLaneStateExitDone
  refine .fault h ?_
  dsimp only
  split
  · exact .next (.refl s)
  · exact .ite (.next (.refl s)) (.next (releaseWaiting_keeps (flushOutbox_keeps (setGroup_keeps (.refl s)))))

theorem execD2dPortStateChange_ends {port status present paths} (h : 3 ≤ port → wf = false) :
    Ends wf s (execD2dPortStateChange port status present paths s) :=
  .fault h (.next (releaseWaiting_keeps (flushOutbox_keeps (.ite (setRoutes_keeps (.refl s)) (foldl_keeps (fun _ _ k' => (loseFrame_keeps k'))
    (setGroup_keeps (setRoutes_keeps (.refl s))))))))

/-! ### Recovery -/

theorem mapRecovery_keeps {f} (k : Keeps s t) : Keeps s (mapRecovery f t) := k
theorem noteRung_keeps {rung us} (k : Keeps s t) : Keeps s (noteRung rung us t) := raiseSource_keeps (writeRecord_keeps k)
theorem noteHang_keeps {u} (k : Keeps s t) : Keeps s (noteHang u t) := foldl_keeps (fun _ _ k' => (writeRecord_keeps k')) k
theorem resetEngine_keeps {u eng} (k : Keeps s t) : Keeps s (resetEngine u eng t) := k
theorem resetUnits_keeps {us} (k : Keeps s t) : Keeps s (resetUnits us t) :=
  foldl_keeps (fun _ _ k' => (.ite (poisonUnit_keeps k') k')) (foldl_keeps (fun _ _ k' => (poisonContext_keeps k'))
    (foldl_keeps (fun _ _ k' => (stopPlain_keeps k')) k))
theorem putLadder_keeps {l} (k : Keeps s t) : Keeps s (putLadder l t) := mapRecovery_keeps k
theorem dropLadder_keeps {id} (k : Keeps s t) : Keeps s (dropLadder id t) := mapRecovery_keeps k
theorem execResetRung_ends {unit eng why} : Ends wf s (execResetRung unit eng why s) :=
  .ite (.next (.refl s)) (.next (noteRung_keeps (resetEngine_keeps (noteHang_keeps (mapRecovery_keeps (.refl s))))))
theorem climb_keeps {l rung us} (k : Keeps s t) : Keeps s (climb l rung us t) :=
  resetUnits_keeps (noteRung_keeps (putLadder_keeps (mapRecovery_keeps k)))
theorem cycleCluster_keeps {c} (k : Keeps s t) : Keeps s (cycleCluster t c) :=
  .ite (retireCluster_keeps (zeroCluster_keeps (mapRecovery_keeps k))) (zeroCluster_keeps (mapRecovery_keeps k))
theorem rungFour_keeps {l} (k : Keeps s t) : Keeps s (rungFour l t) :=
  .ite (writeRecord_keeps (mapRecovery_keeps (dropLadder_keeps k))) (foldl_keeps (fun _ _ k' => (cycleCluster_keeps k')) (climb_keeps k))
theorem rungFive_keeps {l} (k : Keeps s t) : Keeps s (rungFive l t) :=
  .ite (mapRecovery_keeps (noteRung_keeps (dropLadder_keeps k))) (foldl_keeps (fun _ _ k' => (retireCluster_keeps k'))
    (noteRung_keeps (dropLadder_keeps k)))

theorem nextRung_keeps {l} (k : Keeps s t) : Keeps s (nextRung l t) := by
  unfold nextRung
  split
  · exact climb_keeps k
  · exact climb_keeps k
  · exact rungFour_keeps k
  · exact rungFive_keeps k

theorem execRungLimitExpiry_ends {ladder} : Ends wf s (execRungLimitExpiry ladder s) := by
  unfold execRungLimitExpiry
  split
  · exact .next (.refl s)
  · exact .ite (.next (.refl s)) (.next (nextRung_keeps (.refl s)))

theorem execRungComplete_ends {ladder back} : Ends wf s (execRungComplete ladder back s) := by
  unfold execRungComplete
  split
  · exact .next (.refl s)
  · exact .ite (.next (.ite (dropLadder_keeps (.refl s)) (putLadder_keeps (.refl s)))) (.next (foldl_keeps (fun _ _ k' => (allocate_keeps k'))
      (.ite (dropLadder_keeps (.refl s)) (putLadder_keeps (.refl s)))))

theorem execSchedWatchdog_ends {core} (h : 4 ≤ core → wf = false) : Ends wf s (execSchedWatchdog core s) :=
  .fault h (.ite (.next (.refl s)) (.ite (.next (.refl s)) (.next (mapRecovery_keeps (.refl s)))))
theorem execSchedRestart_ends {core ok} (h : 4 ≤ core → wf = false) : Ends wf s (execSchedRestart core ok s) :=
  .fault h (.ite (.next (.refl s)) (.next (writeRecord_keeps (mapRecovery_keeps (.refl s)))))

theorem execLockstepMismatch_ends : Ends wf s (execLockstepMismatch s) := by
  unfold execLockstepMismatch
  refine .ite ?_ ?_
  · exact .next (.refl s)
  · dsimp only
    split
    · exact .ite (.next (abortCommit_keeps (mapRecovery_keeps (.refl s)))) (.next (holdCommit_keeps (mapRecovery_keeps (.refl s))))
    · exact .next (mapRecovery_keeps (.refl s))

theorem execLockstepRestart_ends : Ends wf s (execLockstepRestart s) := by
  unfold execLockstepRestart
  split
  · exact .next (.refl s)
  · exact .next (raiseSource_keeps (writeRecord_keeps (.ite (.refl s) (mapRecovery_keeps (.refl s)))))

theorem execFaultRecordArrive_ends {rec'} : Ends wf s (execFaultRecordArrive rec' s) :=
  .ite (.next (enterRing_keeps (.refl s))) (.next (.refl s))
theorem chargeArray_keeps {a} (k : Keeps s t) : Keeps s (chargeArray t a) := k
theorem patrolMismatch_keeps {c second third} (k : Keeps s t) : Keeps s (patrolMismatch c second third t) :=
  foldl_keeps (fun _ _ k' => (chargeArray_keeps k')) (writeRecord_keeps k)

theorem execPatrolRun_ends {unit eng second third} : Ends wf s (execPatrolRun unit eng second third s) := by
  unfold execPatrolRun
  refine .ite ?_ ?_
  · exact .next (.refl s)
  · split
    · exact .next (.refl s)
    · exact .ite (.next (.refl s)) (.next (patrolMismatch_keeps (.refl s)))

theorem execPatrolDiscard_ends {unit eng} : Ends wf s (execPatrolDiscard unit eng s) := by
  unfold execPatrolDiscard
  split <;> exact .next (.refl s)

/-! ### The host port -/

theorem countAperture_keeps {id} (k : Keeps s t) : Keeps s (countAperture id t) := by
  unfold countAperture
  split
  · exact mapSlice_keeps k
  · exact k

theorem hostRead_keeps {sl o place p} (k : Keeps s t) : Keeps s (hostRead sl o place p t) := by
  unfold hostRead
  split
  · exact nameVa_keeps (readPiece_keeps k)
  · exact .ite (mpRequest_keeps k) (foldl_keeps (fun _ _ k' => (postRequest_keeps k')) k)

theorem hostReads_keeps {sl : Option Slice} {o : Owner} {place : Nat} {ps : List Piece} (k : Keeps s t) :
    Keeps s (hostReads sl o place ps t) := by
  induction ps generalizing place t with
  | nil => exact k
  | cons p ps ih => exact ih (hostRead_keeps k)

theorem apertureCache_keeps {id offset len} (k : Keeps s t) : Keeps s (apertureCache t id offset len) := by
  unfold apertureCache
  split
  · exact cachePages_keeps k
  · exact k

theorem execApertureRead_ends {id offset len tag} : Ends wf s (execApertureRead id offset len tag s) := by
  unfold execApertureRead
  refine .ite ?_ ?_
  · exact .next (.refl s)
  · refine .ite ?_ ?_
    · exact .next (emit_keeps (.refl s))
    · split
      · exact .next (emit_keeps (countAperture_keeps (.refl s)))
      · exact .next (settleGather_keeps (hostReads_keeps (openGather_keeps (apertureCache_keeps (.refl s)))))

theorem hostWrite_keeps {sl o p data} (k : Keeps s t) : Keeps s (hostWrite sl o p data t) := by
  unfold hostWrite
  dsimp only
  split
  · exact nameVa_keeps (writePiece_keeps (.ite (emit_keeps k) k))
  · exact .ite (mpRequest_keeps (.ite (emit_keeps k) k)) (foldl_keeps (fun _ _ k' => (postRequest_keeps k')) (.ite (emit_keeps k) k))

theorem hostWrites_keeps {sl : Option Slice} {o : Owner} {ps : List Piece} {bs : List Byte} (k : Keeps s t) :
    Keeps s (hostWrites sl o ps bs t) := by
  induction ps generalizing bs t with
  | nil => exact k
  | cons p ps ih => exact ih (hostWrite_keeps k)

theorem execApertureWrite_ends {id offset data} : Ends wf s (execApertureWrite id offset data s) := by
  unfold execApertureWrite
  refine .ite ?_ ?_
  · exact .next (.refl s)
  · split
    · exact .next (countAperture_keeps (.refl s))
    · refine hostWrites_keeps ?_
      split
      · exact logWrite_keeps (cachePages_keeps (.refl s))
      · exact .refl s

theorem execHostOtherTlp_ends {t0} : Ends wf s (execHostOtherTlp t0 s) := by
  unfold execHostOtherTlp
  refine .ite ?_ ?_
  · exact .next (.refl s)
  · split
    · exact .next (.refl s)
    · exact .ite (.next (emit_keeps (.refl s))) (.next (.refl s))

theorem execHostLinkDown_ends : Ends wf s (execHostLinkDown s) := .next (.refl s)

/-! ### Engine ports -/

theorem countPort_keeps {port} (k : Keeps s t) : Keeps s (countPort port t) := k
theorem execEngineCallDone_ends {port call} (h : 8 ≤ port → wf = false) : Ends wf s (execEngineCallDone port call s) :=
  .fault h (.ite (.next (.refl s)) (.next (settleCommands_keeps (settlePort_keeps (setEnginePort_keeps (.refl s))))))

theorem startDma_keeps {port : Nat} {sl : Slice} {r : EngineDma} {ps : List Piece} (k : Keeps s t) :
    Keeps s (startDma port sl r ps t) := by
  have h := openGather_keeps (o := .engine port r.call r.tag)
    (setEnginePort_keeps (p := port) (x := { enginePort t port with dma := (enginePort t port).dma ++ [(r.tag, r.call, r.write)] })
      (cachePages_keeps (place := .buffer (.port port) 0) (sl := sl) (va := r.va) (len := r.len) k))
  exact settleGather_keeps (nameVa_keeps (.ite (writePieces_keeps (logWrite_keeps h)) (foldl_fst_keeps (fun _ _ k' => readPiece_keeps k') h)))

theorem takeDma_keeps {port k0 r} (k : Keeps s t) : Keeps s (takeDma port k0 r t) := by
  unfold takeDma
  split
  · exact k
  · split
    · exact startDma_keeps k
    · exact settleCommands_keeps (portFault_keeps (emit_keeps k))

theorem execEngineDmaRequest_ends {port r} (h : 8 ≤ port → wf = false) : Ends wf s (execEngineDmaRequest port r s) := by
  unfold execEngineDmaRequest
  refine .fault h ?_
  refine .ite ?_ ?_
  · exact .next (.refl s)
  · split
    · exact .next (emit_keeps (countPort_keeps (.refl s)))
    · exact .ite (.next (emit_keeps (.refl s))) (.ite (.next (.refl s)) (.next (takeDma_keeps (.refl s))))

theorem execEngineSignal_ends {port call tally amount} (h : 8 ≤ port → wf = false) :
    Ends wf s (execEngineSignal port call tally amount s) := by
  unfold execEngineSignal
  refine .fault h ?_
  refine .ite ?_ ?_
  · exact .next (.refl s)
  · split
    · exact .next (countPort_keeps (.refl s))
    · exact .next (settlePort_keeps (setEnginePort_keeps (.refl s)))

theorem execEngineWait_ends {port slot call tally threshold} (h : 8 ≤ port → wf = false) :
    Ends wf s (execEngineWait port slot call tally threshold s) := by
  unfold execEngineWait
  refine .fault h ?_
  refine .ite ?_ ?_
  · exact .next (.refl s)
  · split
    · exact .next (countPort_keeps (.refl s))
    · exact .next (wakeEngineWaits_keeps (setEnginePort_keeps (.refl s)))

/-! ### Keys and debug -/

theorem mapKeys_keeps {f} (k : Keeps s t) : Keeps s (mapKeys f t) := k
theorem doAttest_keeps {c} (k : Keeps s t) : Keeps s (doAttest c t) :=
  .ite (failCmd_keeps k) (.ite (failCmd_keeps k) (.ite (finish_keeps k) (finishOk_keeps (bufferWrite_keeps k))))
theorem execAttest_ends {seq} : Ends wf s (execAttest seq s) := cmdStep_ends (fun _ _ k' => (doAttest_keeps k'))
theorem relayLink_keeps {g} (k : Keeps s t) : Keeps s (relayLink g t) := linkKey_keeps (mapGroup_keeps k)
theorem openSession_keeps {c purpose bytes} (k : Keeps s t) : Keeps s (openSession c purpose bytes t) :=
  finishOk_keeps (mapKeys_keeps (bufferWrite_keeps k))

theorem doOpenSession_keeps {c} (k : Keeps s t) : Keeps s (doOpenSession c t) := by
  unfold doOpenSession
  dsimp only
  refine .ite ?_ ?_
  · exact failCmd_keeps k
  · refine .ite ?_ ?_
    · exact failCmd_keeps k
    · split
      · exact bufferBad_keeps k
      · refine .ite ?_ ?_
        · exact failCmd_keeps k
        · refine .ite ?_ ?_
          · exact failCmd_keeps k
          · split
            · exact failCmd_keeps k
            · exact openSession_keeps (.ite (relayLink_keeps k) k)

theorem execOpenKeySession_ends {seq} : Ends wf s (execOpenKeySession seq s) :=
  cmdStep_ends (fun _ _ k' => (doOpenSession_keeps k'))

theorem doReleaseKey_keeps {c} (k : Keeps s t) : Keeps s (doReleaseKey c t) := by
  unfold doReleaseKey
  dsimp only
  refine .ite ?_ ?_
  · exact failCmd_keeps k
  · split
    · exact failCmd_keeps k
    · split
      · exact bufferBad_keeps k
      · split
        · exact failCmd_keeps (writeRecord_keeps k)
        · exact .ite (failCmd_keeps k) (finishOk_keeps (mapKeys_keeps k))

theorem execReleaseKey_ends {seq} : Ends wf s (execReleaseKey seq s) := cmdStep_ends (fun _ _ k' => (doReleaseKey_keeps k'))

theorem loadChunks_keeps {o : Owner} {sl : Slice} {key n src dst left done : Nat} (k : Keeps s t) :
    Keeps s (loadChunks o sl key n src dst left done t).1 := by
  induction n generalizing src dst left done t with
  | zero => exact k
  | succ n ih =>
    unfold loadChunks
    dsimp only
    split
    · exact k
    · split
      · exact k
      · split
        · exact k
        · exact ih (writePieces_keeps (logWrite_keeps (cachePages_keeps k)))

theorem loadChunks_state_keeps {u : State} {o : Owner} {sl : Slice} {key n src dst left done : Nat} {r : LoadEnd} (k : Keeps s t)
    (h : loadChunks o sl key n src dst left done t = (u, r)) : Keeps s u := by
  have hu := loadChunks_keeps (o := o) (sl := sl) (key := key) (n := n) (src := src) (dst := dst) (left := left) (done := done) k
  rwa [h] at hu

theorem doLoadWeights_keeps {c : CmdReq} (k : Keeps s t) : Keeps s (doLoadWeights c t) := by
  unfold doLoadWeights
  dsimp only
  split
  · split
    · exact failCmd_keeps k
    · split
      · exact finishOk_keeps (loadChunks_state_keeps k ‹_›)
      · exact finish_keeps (loadChunks_state_keeps k ‹_›)
      · exact finish_keeps (writeRecord_keeps (loadChunks_state_keeps k ‹_›))
  · exact failCmd_keeps k

theorem execLoadWeights_ends {seq} : Ends wf s (execLoadWeights seq s) :=
  cmdStep_ends (fun _ _ k' => (doLoadWeights_keeps k'))

theorem blowFuses_keeps (k : Keeps s t) : Keeps s (blowFuses t) := by
  unfold blowFuses
  dsimp only
  split
  · exact k
  · exact emit_keeps k

/-- R474: a programmed fuse is or-ed into the counter. -/
theorem keeps_or_fuse (s : State) (b : Nat) (bs : List Nat) :
    Keeps s { s with boot := { s.boot with antiRollback := s.boot.antiRollback ||| (1#64 <<< b), fuseWanted := bs } } :=
  ⟨rfl, fun i hi => by simp [hi], id⟩

theorem execFusePgmDone_ends {bit : Nat} : Ends wf s (execFusePgmDone bit s) := by
  unfold execFusePgmDone
  split
  · exact .next (.refl s)
  · split
    · exact .next (.refl s)
    · dsimp only
      split
      · exact .next (keeps_or_fuse s _ _)
      · exact .next (emit_keeps (keeps_or_fuse s _ _))

theorem rekeyAll_keeps (k : Keeps s t) : Keeps s (rekeyAll t) := mapKeys_keeps k
theorem resendKeys_keeps (k : Keeps s t) : Keeps s (resendKeys t) := .ite (emitAll_keeps k) k
theorem execDebugUnlock_ends {signed} : Ends wf s (execDebugUnlock signed s) :=
  .ite (.next (.refl s)) (.next (resendKeys_keeps (mapKeys_keeps (rekeyAll_keeps (.refl s)))))
theorem execDebugDenied_ends : Ends wf s (execDebugDenied s) := .ite (.next (.refl s)) (.next (writeRecord_keeps (.refl s)))

/-! ### Firmware -/

theorem mapFw_keeps {f} (k : Keeps s t) : Keeps s (mapFw f t) := k
theorem setFwSlot_keeps {n x} (k : Keeps s t) : Keeps s (setFwSlot n x t) := mapFw_keeps k
theorem beginUpdate_keeps {len} (k : Keeps s t) : Keeps s (beginUpdate len t) := setFwSlot_keeps (mapFw_keeps k)
theorem doFwBegin_keeps {c} (k : Keeps s t) : Keeps s (doFwBegin c t) :=
  .ite (failCmd_keeps k) (.ite (failCmd_keeps k) (finishOk_keeps (passOn_keeps (beginUpdate_keeps k))))
theorem execFwUpdateBegin_ends {seq} : Ends wf s (execFwUpdateBegin seq s) :=
  cmdStep_ends (fun _ _ k' => (doFwBegin_keeps k'))
theorem verifyStaged_keeps (k : Keeps s t) : Keeps s (verifyStaged t) :=
  .ite (mapFw_keeps k) (writeRecord_keeps (setFwSlot_keeps (mapFw_keeps k)))
theorem stagePart_keeps {off bs} (k : Keeps s t) : Keeps s (stagePart off bs t) := mapFw_keeps (setFwSlot_keeps k)

theorem doFwStage_keeps {c} (k : Keeps s t) : Keeps s (doFwStage c t) := by
  unfold doFwStage
  dsimp only
  split
  · exact failCmd_keeps k
  · refine .ite ?_ ?_
    · exact failCmd_keeps k
    · split
      · exact bufferBad_keeps k
      · exact .ite (finishOk_keeps (passOn_keeps (stagePart_keeps k))) (.ite (finishOk_keeps (verifyStaged_keeps (passOn_keeps (stagePart_keeps k))))
          (failCmd_keeps (verifyStaged_keeps (passOn_keeps (stagePart_keeps k)))))

theorem execFwUpdateStage_ends {seq} : Ends wf s (execFwUpdateStage seq s) :=
  cmdStep_ends (fun _ _ k' => (doFwStage_keeps k'))
theorem doFwHandoff_keeps {c} (k : Keeps s t) : Keeps s (doFwHandoff c t) :=
  .ite k (.ite (failCmd_keeps k) (.ite (failCmd_keeps k) (passOn_keeps (setPhase_keeps (mapFw_keeps k)))))
theorem execFwHandoff_ends {seq} : Ends wf s (execFwHandoff seq s) := cmdStep_ends (fun _ _ k' => (doFwHandoff_keeps k'))
theorem confirmSlot_keeps {n} (k : Keeps s t) : Keeps s (confirmSlot n t) := setFwSlot_keeps (setFwSlot_keeps k)

theorem endHandoff_keeps {reply} (hreply : ∀ a1 t, Keeps s t → Keeps s (reply a1 t)) (k : Keeps s t) :
    Keeps s (endHandoff reply t) := by
  unfold endHandoff
  split
  · exact k
  · dsimp only
    split
    · exact hreply _ _ (raiseSource_keeps k)
    · exact raiseSource_keeps k

theorem activateImage_keeps (k : Keeps s t) : Keeps s (activateImage t) := blowFuses_keeps (confirmSlot_keeps k)

theorem execFwHandoffAck_ends {schemaRead} : Ends wf s (execFwHandoffAck schemaRead s) := by
  unfold execFwHandoffAck
  split
  · exact .ite (.next (endHandoff_keeps (fun _ _ k' => (finishOk_keeps k')) (activateImage_keeps (.refl s))))
      (.next (endHandoff_keeps (fun _ _ k' => (failCmd_keeps k')) (.refl s)))
  · exact .next (.refl s)

theorem execFwHandoffTimeout_ends : Ends wf s (execFwHandoffTimeout s) := by
  unfold execFwHandoffTimeout
  split
  · exact .ite (.next (.refl s)) (.next (endHandoff_keeps (fun _ _ k' => (failCmd_keeps k')) (.refl s)))
  · exact .next (.refl s)

theorem memberFirmware_keeps {op ps} (k : Keeps s t) : Keeps s (memberFirmware op ps t) := by
  unfold memberFirmware
  refine .ite ?_ ?_
  · exact beginUpdate_keeps k
  · refine .ite ?_ ?_
    · split
      · exact .ite (stagePart_keeps k) (verifyStaged_keeps (stagePart_keeps k))
      · exact k
    · exact .ite (.ite (mapFw_keeps k) k) k

/-! ### Start-up -/

theorem mapBoot_keeps {f : Boot → Boot} (h : ∀ b i, b.antiRollback.getLsbD i = true → (f b).antiRollback.getLsbD i = true) (k :
    Keeps s t) :
    Keeps s (mapBoot f t) := by
  obtain ⟨hp, hc, hm⟩ := k
  exact ⟨hp, fun i hi => h _ i (hc i hi), hm⟩

theorem blockReset_keeps (k : Keeps s t) : Keeps s (blockReset t) := by
  obtain ⟨hp, hc, _⟩ := k
  exact ⟨hp, hc, fun _ => ⟨rfl, rfl⟩⟩

theorem execBlkRstN_ends {level straps} : Ends wf s (execBlkRstN level straps s) :=
  .ite (.next (.refl s)) (.ite (.next (blockReset_keeps (.refl s))) (.next (mapBoot_keeps (fun _ _ h => h) (.refl s))))
theorem execAoRstN_ends {level} : Ends wf s (execAoRstN level s) := .ite (.next (.refl s)) (.next (.refl s))
theorem reportPorts_keeps {f} (k : Keeps s t) : Keeps s (reportPorts f t) := emitAll_keeps k
theorem stopWith_keeps {code} (k : Keeps s t) : Keeps s (stopWith code t) := reportPorts_keeps (mapBoot_keeps (fun _ _ h => h) k)
theorem toPhase_keeps {p} (k : Keeps s t) : Keeps s (toPhase p t) := mapBoot_keeps (fun _ _ h => h) k
theorem retireTested_keeps {r} (k : Keeps s t) : Keeps s (retireTested r t) := k
theorem bootSlot_keeps {n fallback} (k : Keeps s t) : Keeps s (bootSlot n fallback t) := mapFw_keeps (mapBoot_keeps (fun _ _ h => h) k)
theorem failSlot_keeps {n} (k : Keeps s t) : Keeps s (failSlot n t) := setFwSlot_keeps (mapBoot_keeps (fun _ _ h => h) k)

theorem trySlots_keeps {fallback : Bool} {ns : List Nat} (k : Keeps s t) : Keeps s (trySlots fallback ns t) := by
  induction ns generalizing fallback t with
  | nil => exact stopWith_keeps k
  | cons n ns ih => exact .ite (toPhase_keeps (bootSlot_keeps k)) (ih (failSlot_keeps k))

theorem startFirmware_keeps (k : Keeps s t) : Keeps s (startFirmware t) :=
  .ite (trySlots_keeps k) (reportPorts_keeps (trySlots_keeps k))

theorem endPhase_keeps {r} (k : Keeps s t) : Keeps s (endPhase r t) := by
  unfold endPhase
  split
  · exact toPhase_keeps k
  · exact toPhase_keeps (mapBoot_keeps (fun _ _ h => h) k)
  · exact .ite (stopWith_keeps (retireTested_keeps k)) (toPhase_keeps (retireTested_keeps k))
  · exact toPhase_keeps (rekeyAll_keeps k)
  · exact startFirmware_keeps k
  · exact .ite (toPhase_keeps k) k
  · exact toPhase_keeps (mapBoot_keeps (fun _ _ h => h) k)
  · exact .ite (stopWith_keeps k) (toPhase_keeps k)
  · exact k

theorem execStartupPhaseEnd_ends {r} : Ends wf s (execStartupPhaseEnd r s) :=
  .ite (.next (.refl s)) (.ite (.next (stopWith_keeps (.refl s))) (.next (endPhase_keeps (.refl s))))
theorem execPhaseLimit_ends {code} : Ends wf s (execPhaseLimit code s) :=
  .ite (.next (.refl s)) (.ite (.next (.refl s)) (.ite (.next (toPhase_keeps (.refl s))) (.next (stopWith_keeps (.refl s)))))
theorem execStatusFrame_ends {f} : Ends wf s (execStatusFrame f s) :=
  .ite (.next (.refl s)) (.next (reportPorts_keeps (mapBoot_keeps (fun _ _ h => h) (.refl s))))
theorem closeElection_keeps {fs lead} (k : Keeps s t) : Keeps s (closeElection fs lead t) :=
  foldl_keeps (fun _ _ k' => (writeRecord_keeps k')) (mapBoot_keeps (fun _ _ h => h) (setRoutes_keeps k))

theorem execElectionClose_ends : Ends wf s (execElectionClose s) := by
  unfold execElectionClose
  refine .ite ?_ ?_
  · exact .next (.refl s)
  · dsimp only
    refine .ite ?_ ?_
    · exact .next (stopWith_keeps (.refl s))
    · split
      · exact .next (stopWith_keeps (.refl s))
      · exact .ite (.next (stopWith_keeps (.refl s))) (.next (closeElection_keeps (.refl s)))

theorem execLeadLost_ends : Ends wf s (execLeadLost s) := .ite (.next (stopWith_keeps (.refl s))) (.next (.refl s))
theorem readyState_keeps (k : Keeps s t) : Keeps s (readyState t) := k
theorem execReady_ends : Ends wf s (execReady s) :=
  .ite (.next (.refl s)) (.next (blowFuses_keeps (.ite (readyState_keeps (.refl s)) (confirmSlot_keeps (readyState_keeps (.refl s))))))

/-! ### Management traffic -/

theorem takeStaged_keeps {set chair} (k : Keeps s t) : Keeps s (takeStaged set chair t) := sendD2d_keeps (loadPinned_keeps k)

theorem takeGo_keeps {serial} (k : Keeps s t) : Keeps s (takeGo serial t) := by
  unfold takeGo
  split <;> exact k

theorem takeAbortMsg_keeps {serial} (k : Keeps s t) : Keeps s (takeAbortMsg serial t) := .ite k k
theorem takeMirrorSet_keeps {set} (k : Keeps s t) : Keeps s (takeMirrorSet set t) := applyRts_keeps (swapSlices_keeps k)

theorem takeMgmt_keeps {m} (k : Keeps s t) : Keeps s (takeMgmt m t) := by
  unfold takeMgmt
  refine .ite ?_ ?_
  · split
    · exact takeQueueReport_keeps k
    · exact takeBlockReport_keeps k
    · exact takeLogReady_keeps k
    · exact takeDispatch_keeps k
    · exact takeRunDone_keeps k
    · exact stopQueueWork_keeps k
    · exact takeQueueStop_keeps k
    · exact .ite (setBitHere_keeps k) k
    · exact k
  · split
    · exact takeMirrorSet_keeps k
    · exact takeStaged_keeps k
    · exact takeGo_keeps k
    · exact takeAbortMsg_keeps k
    · exact prepareSync_keeps k
    · exact mapSync_keeps k
    · exact .ite (mapSlice_keeps k) k
    · exact takeLeadCount_keeps k
    · exact takeSlew_keeps k
    · exact takeDispatch_keeps k
    · exact takeRunDone_keeps k
    · exact stopQueueWork_keeps k
    · exact takeQueueStop_keeps k
    · exact takeJoin_keeps k
    · exact installSlice_keeps k
    · exact takeLogPrepare_keeps k
    · exact takeLogSwitch_keeps k
    · exact memberFirmware_keeps (memberCommand_keeps k)
    · exact .ite (setBitHere_keeps k) k
    · exact takeGrant_keeps k
    · exact k

theorem execMgmt_ends {p m} : Ends wf s (execMgmt p m s) :=
  acceptType_ends (fun _ k' => (checkedPayload_keeps (fun _ k'' => (respond_keeps (.ite (takeMgmt_keeps k'') k''))) k'))

/-! ### The vector unit -/

theorem doElementwise_keeps {x e v} (k : Keeps s t) : Keeps s (doElementwise x e v t) :=
  .ite (insnFault_keeps k) (.ite (insnFault_keeps k) (.ite (insnFault_keeps k) (.ite (actWhole_keeps k) (.ite (insnFault_keeps k)
    (readSram_keeps (fun _ k' => (actWhole_keeps k')) k)))))
theorem doCvt_keeps {x e} (k : Keeps s t) : Keeps s (doCvt x e t) :=
  .ite (insnFault_keeps k) (.ite (insnFault_keeps k) (.ite (insnFault_keeps k) (.ite (actWhole_keeps k) (.ite (insnFault_keeps k)
    (readSram_keeps (fun _ k' => (actWhole_keeps k')) k)))))
theorem doXadd_keeps {x e} (k : Keeps s t) : Keeps s (doXadd x e t) :=
  .ite (insnFault_keeps k) (.ite (insnFault_keeps k) (.ite (insnFault_keeps k) (.ite (actWhole_keeps k) (.ite (insnFault_keeps k)
    (readSram_keeps (fun _ k' => (by split; exacts [insnFault_keeps (putWrites_keeps k'), actWhole_keeps k'])) k)))))
theorem doVop_keeps {x e x'} (k : Keeps s t) : Keeps s (doVop x e x' t) :=
  .ite k (.ite (doCvt_keeps k) (.ite (doXadd_keeps k) (doElementwise_keeps k)))
theorem execVop_ends {unit ph} : Ends wf s (execVop unit ph s) := engineStep_ends (fun _ _ _ _ k' => (doVop_keeps k'))
theorem doVred_keeps {x e x'} (k : Keeps s t) : Keeps s (doVred x e x' t) :=
  .ite k (.ite (insnFault_keeps k) (.ite (insnFault_keeps k) (.ite (insnFault_keeps k) (.ite (actWhole_keeps k) (.ite (insnFault_keeps k)
    (readSram_keeps (fun _ k' => (.ite (insnFault_keeps k') (actWhole_keeps k'))) k))))))
theorem execVred_ends {unit ph} : Ends wf s (execVred unit ph s) := engineStep_ends (fun _ _ _ _ k' => (doVred_keeps k'))

/-! ### The intake of commands -/

theorem acceptCmd_keeps {c} (k : Keeps s t) : Keeps s (acceptCmd c t) := .ite (grantLease_keeps k) k

theorem takePacket_keeps {bs : List Byte} {who : Agent} {buffer : Nat} (k : Keeps s t) : Keeps s (takePacket bs who buffer t) := by
  have hlog : ∀ m, Keeps s { t with mgr := m } := fun _ => k
  unfold takePacket
  dsimp only
  split
  · exact deliver_keeps (.ite (hlog _) k)
  · exact deliver_keeps k
  · exact acceptCmd_keeps k

theorem ackMessage_keeps {m err} (k : Keeps s t) : Keeps s (ackMessage m err t) := setMailbox_keeps k
theorem discardMessage_keeps (k : Keeps s t) : Keeps s (discardMessage t) := k

theorem takeFormat1_keeps (k : Keeps s t) : Keeps s (takeFormat1 t) := by
  unfold takeFormat1
  dsimp only
  refine .ite ?_ ?_
  · exact discardMessage_keeps k
  · refine .ite ?_ ?_
    · split
      · exact takePacket_keeps (ackMessage_keeps k)
      · exact writeRecord_keeps (discardMessage_keeps k)
    · exact takePacket_keeps (ackMessage_keeps k)

theorem takeFormat2_keeps (k : Keeps s t) : Keeps s (takeFormat2 t) := .ite (discardMessage_keeps k) (.ite (takePacket_keeps k) k)
theorem consumeEntries_keeps {n} (k : Keeps s t) : Keeps s (consumeEntries n t) := k

theorem takeRing_keeps (k : Keeps s t) : Keeps s (takeRing t) := by
  unfold takeRing
  dsimp only
  refine .ite ?_ ?_
  · exact k
  · split
    · exact writeRecord_keeps (consumeEntries_keeps k)
    · refine .ite ?_ ?_
      · exact consumeEntries_keeps k
      · refine .ite ?_ ?_
        · exact takePacket_keeps (consumeEntries_keeps k)
        · refine .ite ?_ ?_
          · exact k
          · refine .ite ?_ ?_
            · exact takePacket_keeps (consumeEntries_keeps k)
            · split
              · exact writeRecord_keeps (consumeEntries_keeps k)
              · exact takePacket_keeps (consumeEntries_keeps k)

theorem execChannelRequestTake_ends : Ends wf s (execChannelRequestTake s) :=
  .ite (.next (.refl s)) (.ite (.next (refreshLevels_keeps (.ite (takeFormat1_keeps (.refl s)) (.ite (takeFormat2_keeps (.refl s))
    (discardMessage_keeps (.refl s)))))) (.ite (.next (refreshLevels_keeps (takeRing_keeps (.refl s)))) (.next (.refl s))))

theorem execMctpMessage_ends {eid : BitVec 8} {m : MctpMsg} : Ends wf s (execMctpMessage eid m s) := by
  cases m with
  | control bs => exact .next (emit_keeps (.refl s))
  | other b => exact .next (.refl s)
  | vendor packet => exact .ite (.next (.refl s)) (.next (takePacket_keeps (setMailbox_keeps (.refl s))))

/-! ### Every command -/

/-- Every command ends in a next state that keeps them, unless it names a place that the block does not have. -/
theorem exec_ends (c : Instr) (s : State) : Ends c.wellFormed s (exec c s) := by
  cases c with
  | doorbellWrite => exact execDoorbellWrite_ends
  | doorbellForward => exact execDoorbellForward_ends
  | descriptorFetch => exact execDescriptorFetch_ends
  | nop => exact execNop_ends
  | launch => exact execLaunch_ends
  | launchGraph => exact execLaunchGraph_ends
  | copy => exact execCopy_ends
  | fill => exact execFill_ends
  | signal => exact execSignal_ends
  | wait => exact execWait_ends
  | waitReread => exact execWaitReread_ends
  | fence => exact execFence_ends
  | descriptorComplete => exact execDescriptorComplete_ends
  | queueTimeout => exact execQueueTimeout_ends
  | graphNodeStart => exact execGraphNodeStart_ends
  | runStart => exact execRunStart_ends
  | runComplete => exact execRunComplete_ends
  | br => exact execBr_ends
  | loop => exact execLoop_ends
  | endloop => exact execEndloop_ends
  | halt => exact execHalt_ends
  | add => exact execAdd_ends
  | shl => exact execShl_ends
  | ldp => exact execLdp_ends
  | mov => exact execMov_ends
  | dmaLd => exact execDmaLd_ends
  | dmaSt => exact execDmaSt_ends
  | dmaCopy => exact execDmaCopy_ends
  | dmaBcast => exact execDmaBcast_ends
  | gather => exact execGather_ends
  | scatter => exact execScatter_ends
  | walk => exact execWalk_ends
  | sort => exact execSort_ends
  | merge => exact execMerge_ends
  | isect => exact execIsect_ends
  | union => exact execUnion_ends
  | mma => exact execMma_ends
  | mmaC => exact execMmaC_ends
  | mmaX => exact execMmaX_ends
  | mmaCx => exact execMmaCx_ends
  | arrayInstructionStart => exact execArrayInstructionStart_ends
  | arrayWriteback => exact execArrayWriteback_ends
  | vop => exact execVop_ends
  | vred => exact execVred_ends
  | put => exact execPut_ends
  | get => exact execGet_ends
  | atom => exact execAtom_ends
  | reduce => exact execReduce_ends
  | psig => exact execPsig_ends
  | sig => exact execSig_ends
  | waitge => exact execWaitge_ends
  | waitgeWake => exact execWaitgeWake_ends
  | pairchkDeclare => exact execPairchkDeclare_ends
  | pairchkDissolve => exact execPairchkDissolve_ends
  | gate => exact execGate_ends
  | epcall => exact execEpcall_ends
  | engineInstructionComplete => exact execEngineInstructionComplete_ends
  | liftTick => exact execLiftTick_ends
  | chairBoundary => exact execChairBoundary_ends
  | planFix => exact execPlanFix_ends
  | relayZoneOpen => exact execRelayZoneOpen_ends
  | stagedSetConfirm => exact execStagedSetConfirm_ends
  | commitGo => exact execCommitGo_ends
  | slotEnd => exact execSlotEnd_ends
  | contextSaveDone => exact execContextSaveDone_ends
  | contextLoadDone => exact execContextLoadDone_ends
  | liftPacket => exact execLiftPacket_ends
  | liftRefEdge => exact execLiftRefEdge_ends
  | liftHoldover => exact execLiftHoldover_ends
  | fabricRead => exact execFabricRead_ends
  | fabricWrite => exact execFabricWrite_ends
  | fabricAtom => exact execFabricAtom_ends
  | fabricReduce => exact execFabricReduce_ends
  | fabricSig => exact execFabricSig_ends
  | gateArrive => exact execGateArrive_ends
  | gateRelease => exact execGateRelease_ends
  | syncOrder => exact execSyncOrder_ends
  | tether => exact execTether_ends
  | mgmt => exact execMgmt_ends
  | stepCtlAbort => exact execStepCtlAbort_ends
  | stepCtlRestart => exact execStepCtlRestart_ends
  | fabricResponse => exact execFabricResponse_ends
  | fabricRetryResend => exact execFabricRetryResend_ends
  | linkFrame group f => exact execLinkFrame_ends (fun h => by simp [Instr.wellFormed]; omega)
  | linkRetrainDone group up => exact execLinkRetrainDone_ends (fun h => by simp [Instr.wellFormed]; omega)
  | laneInject lane => exact execLaneInject_ends (fun h => by simp [Instr.wellFormed]; omega)
  | laneSignalChange lane sigdet cdrLock => exact execLaneSignalChange_ends (fun h => by simp [Instr.wellFormed]; omega)
  | laneStateExitDone group => exact execLaneStateExitDone_ends (fun h => by simp [Instr.wellFormed]; omega)
  | fabricTrainingDone group trained lanes node session => exact execFabricTrainingDone_ends (fun h => by simp [Instr.wellFormed]; omega)
  | phyCalDone group ok => exact execPhyCalDone_ends (fun h => by simp [Instr.wellFormed]; omega)
  | translationWalkReturn => exact execTranslationWalkReturn_ends
  | syncPrepare => exact execSyncPrepare_ends
  | syncAck => exact execSyncAck_ends
  | syncAckTimeout => exact execSyncAckTimeout_ends
  | syncSwitch => exact execSyncSwitch_ends
  | syncDrainDone => exact execSyncDrainDone_ends
  | createSlice => exact execCreateSlice_ends
  | destroySlice => exact execDestroySlice_ends
  | quiesce => exact execQuiesce_ends
  | resume => exact execResume_ends
  | resetSlice => exact execResetSlice_ends
  | assignPool => exact execAssignPool_ends
  | createQueue => exact execCreateQueue_ends
  | destroyQueue => exact execDestroyQueue_ends
  | setTimeout => exact execSetTimeout_ends
  | setRtShare => exact execSetRtShare_ends
  | mapSegment => exact execMapSegment_ends
  | unmapSegment => exact execUnmapSegment_ends
  | syncTables => exact execSyncTables_ends
  | startDirtyLog => exact execStartDirtyLog_ends
  | readDirtyLog => exact execReadDirtyLog_ends
  | stopDirtyLog => exact execStopDirtyLog_ends
  | setWindow => exact execSetWindow_ends
  | clearWindow => exact execClearWindow_ends
  | dumpSync => exact execDumpSync_ends
  | setTally => exact execSetTally_ends
  | pairTwin => exact execPairTwin_ends
  | pairTwinTimeout => exact execPairTwinTimeout_ends
  | unpair => exact execUnpair_ends
  | failover => exact execFailover_ends
  | snapshot => exact execSnapshot_ends
  | readFaults => exact execReadFaults_ends
  | attest => exact execAttest_ends
  | openKeySession => exact execOpenKeySession_ends
  | releaseKey => exact execReleaseKey_ends
  | loadWeights => exact execLoadWeights_ends
  | resurface => exact execResurface_ends
  | resurfaceZeroDone => exact execResurfaceZeroDone_ends
  | setEnvelope => exact execSetEnvelope_ends
  | setSchuss => exact execSetSchuss_ends
  | laneTest => exact execLaneTest_ends
  | laneState => exact execLaneState_ends
  | queryCaps => exact execQueryCaps_ends
  | fwUpdateBegin => exact execFwUpdateBegin_ends
  | fwUpdateStage => exact execFwUpdateStage_ends
  | fwHandoff => exact execFwHandoff_ends
  | fwHandoffAck => exact execFwHandoffAck_ends
  | fwHandoffTimeout => exact execFwHandoffTimeout_ends
  | readTelemetry => exact execReadTelemetry_ends
  | claimManager => exact execClaimManager_ends
  | leaseRenew => exact execLeaseRenew_ends
  | leaseWarning => exact execLeaseWarning_ends
  | leaseExpiry => exact execLeaseExpiry_ends
  | editShadow => exact execEditShadow_ends
  | commitShadow => exact execCommitShadow_ends
  | resetRung => exact execResetRung_ends
  | rungLimitExpiry => exact execRungLimitExpiry_ends
  | rungComplete => exact execRungComplete_ends
  | schedWatchdog core => exact execSchedWatchdog_ends (fun h => by simp [Instr.wellFormed]; omega)
  | schedRestart core ok => exact execSchedRestart_ends (fun h => by simp [Instr.wellFormed]; omega)
  | lockstepMismatch => exact execLockstepMismatch_ends
  | lockstepRestart => exact execLockstepRestart_ends
  | faultRecordArrive => exact execFaultRecordArrive_ends
  | patrolRun => exact execPatrolRun_ends
  | patrolDiscard => exact execPatrolDiscard_ends
  | stepImage => exact execStepImage_ends
  | twinHeartbeatTimeout => exact execTwinHeartbeatTimeout_ends
  | twinProbeTimeout => exact execTwinProbeTimeout_ends
  | remapAck => exact execRemapAck_ends
  | mbxDataWrite who mbx index value => exact execMbxDataWrite_ends (fun h => by simp [Instr.wellFormed]; omega)
  | mbxSend who mbx => exact execMbxSend_ends (fun h => by simp [Instr.wellFormed]; omega)
  | mbxAck who mbx => exact execMbxAck_ends (fun h => by simp [Instr.wellFormed]; omega)
  | mbxLockClaim who mbx num => exact execMbxLockClaim_ends (fun h => by simp [Instr.wellFormed]; omega)
  | mbxLockRelease who mbx num => exact execMbxLockRelease_ends (fun h => by simp [Instr.wellFormed]; omega)
  | resetMailbox mbx => exact execResetMailbox_ends (fun h => by simp [Instr.wellFormed]; omega)
  | mbxReplyTimeout => exact execMbxReplyTimeout_ends
  | channelLockIdle => exact execChannelLockIdle_ends
  | reqTailWrite => exact execReqTailWrite_ends
  | rplHeadWrite => exact execRplHeadWrite_ends
  | channelRequestTake => exact execChannelRequestTake_ends
  | interruptEvent source => exact execInterruptEvent_ends (fun h => by simp [Instr.wellFormed]; omega)
  | interruptForward source => exact execInterruptForward_ends (fun h => by simp [Instr.wellFormed]; omega)
  | icuPendWrite index value => exact execIcuPendWrite_ends (fun h => by simp [Instr.wellFormed]; omega)
  | icuGdisWrite => exact execIcuGdisWrite_ends
  | interruptMessage => exact execInterruptMessage_ends
  | icuHoldoffExpiry group => exact execIcuHoldoffExpiry_ends (fun h => by simp [Instr.wellFormed]; omega)
  | coreInterruptTake => exact execCoreInterruptTake_ends
  | wakeLatch source => exact execWakeLatch_ends (fun h => by simp [Instr.wellFormed]; omega)
  | fqStatusWrite => exact execFqStatusWrite_ends
  | registerWrite => exact execRegisterWrite_ends
  | apertureRead => exact execApertureRead_ends
  | apertureWrite => exact execApertureWrite_ends
  | hostOtherTlp => exact execHostOtherTlp_ends
  | hostLinkDown => exact execHostLinkDown_ends
  | memoryReadResponse port tag err => exact execMemoryReadResponse_ends (fun h => by simp [Instr.wellFormed]; omega)
  | memoryWriteAck port tag => exact execMemoryWriteAck_ends (fun h => by simp [Instr.wellFormed]; omega)
  | engineCallDone port call => exact execEngineCallDone_ends (fun h => by simp [Instr.wellFormed]; omega)
  | engineDmaRequest port r => exact execEngineDmaRequest_ends (fun h => by simp [Instr.wellFormed]; omega)
  | engineSignal port call tally amount => exact execEngineSignal_ends (fun h => by simp [Instr.wellFormed]; omega)
  | engineWait port slot call tally threshold => exact execEngineWait_ends (fun h => by simp [Instr.wellFormed]; omega)
  | engineThrottleAck port level => exact execEngineThrottleAck_ends (fun h => by simp [Instr.wellFormed]; omega)
  | throttleAckTimeout port => exact execThrottleAckTimeout_ends (fun h => by simp [Instr.wellFormed]; omega)
  | governorStage => exact execGovernorStage_ends
  | vrAlert => exact execVrAlert_ends
  | clampEnd => exact execClampEnd_ends
  | thermalTrip => exact execThermalTrip_ends
  | deepIdleWake => exact execDeepIdleWake_ends
  | aoRstN => exact execAoRstN_ends
  | blkRstN => exact execBlkRstN_ends
  | startupPhaseEnd => exact execStartupPhaseEnd_ends
  | phaseLimit => exact execPhaseLimit_ends
  | statusFrame => exact execStatusFrame_ends
  | electionClose => exact execElectionClose_ends
  | leadLost => exact execLeadLost_ends
  | ready => exact execReady_ends
  | fusePgmDone => exact execFusePgmDone_ends
  | debugUnlock => exact execDebugUnlock_ends
  | debugDenied => exact execDebugDenied_ends
  | mctpMessage => exact execMctpMessage_ends
  | laneCheckerLock lane => exact execLaneCheckerLock_ends (fun h => by simp [Instr.wellFormed]; omega)
  | laneCheckerLoss lane => exact execLaneCheckerLoss_ends (fun h => by simp [Instr.wellFormed]; omega)
  | d2dPortStateChange port status present paths => exact execD2dPortStateChange_ends (fun h => by simp [Instr.wellFormed]; omega)
  | linkKeyUpdate group => exact execLinkKeyUpdate_ends (fun h => by simp [Instr.wellFormed]; omega)
  | coreVoltageReached => exact execCoreVoltageReached_ends
  | powerDomainOn domain => exact execPowerDomainOn_ends (fun h => by simp [Instr.wellFormed]; omega)

end

/-! ### What the outcomes say -/

theorem Ends.exists_next {s : State} {r : Result} (h : Ends true s r) : ∃ t, r = .next t :=
  match r, h with
  | .next t, _ => ⟨t, rfl⟩

theorem Ends.ne_refused {wf : Bool} {s : State} {r : Result} (h : Ends wf s r) (q : Refusal) : r ≠ .refused q := by
  rintro rfl
  exact h

theorem exec_keeps {c : Instr} {s t : State} (h : exec c s = .next t) : Keeps s t := by
  have hc := exec_ends c s
  rwa [h] at hc

/-- A step keeps what commands keep, but for the front command, which it takes off the queue. -/
theorem step_keeps {s t : State} (h : step s = .next t) : Keeps { s with pending := s.pending.drop 1 } t := by
  unfold step at h
  split at h
  · next hp =>
    cases h
    exact ⟨by simp [hp], fun _ => id, id⟩
  · next c rest hp =>
    rw [hp]
    exact exec_keeps h

/-- Settles O58, by `exec_ends`: no command's effect takes memory or its table of keys out of their canonical form. -/
theorem stepsKeepMemoryCanonical : Obligations.StepsKeepMemoryCanonical := by
  intro s t hmem hkeys h
  obtain ⟨_, _, canonical⟩ := step_keeps h
  exact canonical ⟨hmem, hkeys⟩

/-- Settles O59, by `exec_ends`: the one command that writes the counter, `FUSE_PGM_DONE`, sets a bit of it. -/
theorem counterNeverFalls : Obligations.CounterNeverFalls := by
  intro s t i hi h
  obtain ⟨_, counter, _⟩ := step_keeps h
  exact counter i hi

/-- Settles O60, by `exec_ends`: no command's effect writes the queue. -/
theorem commandsKeepTheQueue : Obligations.CommandsKeepTheQueue := by
  refine ⟨fun s t c h => ?_, fun s t h => ?_⟩
  · obtain ⟨queue, _, _⟩ := exec_keeps h
    exact queue
  · obtain ⟨queue, _, _⟩ := step_keeps h
    exact queue

/-- Settles O2, by `exec_ends`: a stop needs a number that `Instr.wellFormed` refuses. -/
theorem wellFormedCommandsNeverStop : Obligations.WellFormedCommandsNeverStop := by
  refine ⟨fun c s h => ?_, fun c s r => (exec_ends c s).ne_refused r, fun c s f h => ?_⟩
  · have hc := exec_ends c s
    rw [h] at hc
    exact hc.exists_next
  · have hc := exec_ends c s
    rwa [h] at hc

/-- Settles O1: the step is the dispatch, and no row of the table gives bits. -/
theorem stepRunsFrontCommand : Obligations.StepRunsFrontCommand := by
  refine ⟨fun c rest s h => ?_, fun s h => ?_, fun n w s => ⟨rfl, rfl⟩⟩
  · rw [step, h]
  · rw [step, h]

end Sys2Proof.Machine

/-! PROOFS. The set unit (spec/04): sorting and merging. -/

namespace Sys2Proof.Machine

/-! ### Sorting (R156) -/

theorem insertKey_perm {α : Type} (k : Nat × α) (l : List (Nat × α)) : (insertKey k l).Perm (k :: l) := by
  induction l with
  | nil => exact .refl _
  | cons y l ih =>
    unfold insertKey
    split
    · exact .refl _
    · exact (ih.cons y).trans (.swap k y l)

theorem sortKeys_perm {α : Type} (l : List (Nat × α)) : (sortKeys l).Perm l := by
  induction l with
  | nil => exact .refl _
  | cons k l ih => exact (insertKey_perm k _).trans (ih.cons k)

theorem insertKey_ascending {α : Type} {k : Nat × α} {l : List (Nat × α)} (h : l.Pairwise (fun a b => a.1 ≤ b.1)) :
    (insertKey k l).Pairwise (fun a b => a.1 ≤ b.1) := by
  induction l with
  | nil => simp [insertKey]
  | cons y l ih =>
    obtain ⟨hy, hl⟩ := List.pairwise_cons.1 h
    unfold insertKey
    split
    · next hk => exact List.pairwise_cons.2 ⟨fun z hz => (List.mem_cons.1 hz).elim (fun e => e ▸ hk) (fun hz => hk.trans (hy z hz)), h⟩
    · next hk =>
      refine List.pairwise_cons.2 ⟨fun z hz => ?_, ih hl⟩
      rcases List.mem_cons.1 ((insertKey_perm k l).mem_iff.1 hz) with rfl | hz
      · omega
      · exact hy z hz

theorem sortKeys_ascending {α : Type} (l : List (Nat × α)) : (sortKeys l).Pairwise (fun a b => a.1 ≤ b.1) := by
  induction l with
  | nil => exact .nil
  | cons k l ih => exact insertKey_ascending ih

/-- Stability: a key is put before those that are not below it, so it passes no item of its own key. -/
theorem filter_insertKey {α : Type} (c : Nat) (k : Nat × α) (l : List (Nat × α)) :
    (insertKey k l).filter (fun p => p.1 == c) = (k :: l).filter (fun p => p.1 == c) := by
  induction l with
  | nil => rfl
  | cons y l ih =>
    unfold insertKey
    split
    · rfl
    · next hk =>
      by_cases hy : y.1 = c
      · have hkc : k.1 ≠ c := by omega
        simp_all
      · by_cases hkc : k.1 = c <;> simp_all

theorem filter_sortKeys {α : Type} (c : Nat) (l : List (Nat × α)) :
    (sortKeys l).filter (fun p => p.1 == c) = l.filter (fun p => p.1 == c) := by
  induction l with
  | nil => rfl
  | cons k l ih =>
    rw [sortKeys, filter_insertKey, List.filter_cons, List.filter_cons, ih]

/-- Settles O29: insertion before every key that is not smaller permutes, orders, and passes no equal key. -/
theorem sortIsStableAndAscending : Obligations.SortIsStableAndAscending :=
  fun l => ⟨sortKeys_perm l, sortKeys_ascending l, fun k => filter_sortKeys k l⟩

/-! ### Lists (R157) -/

/-- What an operation with room for `room` keys gives when it emits `k` and goes on to `rest`. -/
def emitKey (room : Nat) (k : Nat × Nat × Nat) (rest : ListOut) : ListOut :=
  if room = 0 then { full := true } else if room = 1 then { keys := [k], full := true } else { rest with keys := k :: rest.keys }

theorem emitKey_room {room : Nat} (h : 1 < room) (k : Nat × Nat × Nat) (rest : ListOut) :
    emitKey room k rest = { rest with keys := k :: rest.keys } := by
  rw [emitKey, if_neg (by omega), if_neg (by omega)]

theorem emitKey_length {room : Nat} {rest : ListOut} (h : rest.keys.length ≤ room - 1) (k : Nat × Nat × Nat) :
    (emitKey room k rest).keys.length ≤ room := by
  unfold emitKey
  split
  · simp
  · split
    · simp; omega
    · simp; omega

/-- Outcomes of a list operation that emit no more than `room` keys. -/
def WithinRoom (room : Nat) (out : ListOut) : Prop := out.keys.length ≤ room

theorem WithinRoom.ite {room : Nat} {a b : ListOut} {c : Prop} [Decidable c] (h : WithinRoom room a) (k : WithinRoom room b) :
    WithinRoom room (if c then a else b) := by
  split
  · exact h
  · exact k

theorem listRun_withinRoom (op : ListOp) (fuel room : Nat) (p q : Nat × Option Nat × List Nat) : WithinRoom room (listRun op fuel room p q) := by
  induction fuel generalizing room p q with
  | zero => exact Nat.zero_le _
  | succ fuel ih =>
    obtain ⟨i, la, as⟩ := p
    obtain ⟨j, lb, bs⟩ := q
    have stops : ∀ bad, WithinRoom room { bad := bad } := fun _ => Nat.zero_le _
    have emits : ∀ k p q, WithinRoom room (emitKey room k (listRun op fuel (room - 1) p q)) := fun k p q => emitKey_length (ih _ p q) k
    cases as with
    | nil =>
      cases bs with
      | nil => exact stops none
      | cons b bs => exact .ite (stops _) (.ite (stops none) (emits _ _ _))
    | cons a as =>
      cases bs with
      | nil => exact .ite (stops _) (.ite (stops none) (emits _ _ _))
      | cons b bs =>
        exact .ite (stops _) (.ite (stops _) (.ite (emits _ _ _) (.ite (.ite (ih _ _ _) (emits _ _ _)) (.ite (ih _ _ _) (emits _ _ _)))))

/-- A list that may follow key `last` of itself in a `MERGE`: in ascending order, from `last` on. -/
def Follows (last : Option Nat) (l : List Nat) : Prop := l.Pairwise (· ≤ ·) ∧ ∀ k ∈ last, ∀ a ∈ l, k ≤ a

theorem Follows.tail {last : Option Nat} {a : Nat} {l : List Nat} (h : Follows last (a :: l)) : Follows (some a) l := by
  obtain ⟨ha, hl⟩ := List.pairwise_cons.1 h.1
  exact ⟨hl, fun k hk b hb => (Option.mem_some_iff.1 hk) ▸ ha b hb⟩

theorem Follows.head_le {last : Option Nat} {a : Nat} {l : List Nat} (h : Follows last (a :: l)) : ∀ b ∈ a :: l, a ≤ b :=
  List.forall_mem_cons.2 ⟨le_rfl, (List.pairwise_cons.1 h.1).1⟩

theorem Follows.inOrder {last : Option Nat} {a : Nat} {l : List Nat} (h : Follows last (a :: l)) : outOfOrder .merge last a = false := by
  cases last with
  | none => rfl
  | some k => simpa [outOfOrder] using h.2 k rfl a (by simp)

theorem listRun_merge_nil (fuel room i j : Nat) (la lb : Option Nat) : listRun .merge fuel room (i, la, []) (j, lb, []) = {} := by
  cases fuel <;> rfl

/-- The first list's head is taken where the second list has no smaller one. -/
theorem listRun_merge_left {fuel room i j a : Nat} {la lb : Option Nat} {as bs : List Nat} (ha : Follows la (a :: as)) (hb : Follows lb bs)
    (hab : ∀ b ∈ bs, a ≤ b) : listRun .merge (fuel + 1) room (i, la, a :: as) (j, lb, bs) =
      emitKey room (a, i, j) (listRun .merge fuel (room - 1) (i + 1, some a, as) (j, lb, bs)) := by
  cases bs with
  | nil => simp [listRun, emitKey, ha.inOrder]
  | cons b bs => simp [listRun, emitKey, ha.inOrder, hb.inOrder, hab b (by simp)]

/-- The second list's head is taken where every key of the first list is larger. -/
theorem listRun_merge_right {fuel room i j b : Nat} {la lb : Option Nat} {as bs : List Nat} (ha : Follows la as) (hb : Follows lb (b :: bs))
    (hab : ∀ a ∈ as, b < a) : listRun .merge (fuel + 1) room (i, la, as) (j, lb, b :: bs) =
      emitKey room (b, i, j) (listRun .merge fuel (room - 1) (i, la, as) (j + 1, some b, bs)) := by
  cases as with
  | nil => simp [listRun, emitKey, hb.inOrder]
  | cons a as => simp [listRun, emitKey, ha.inOrder, hb.inOrder, hab a (by simp)]

/-- What `MERGE` gives of lists `as` and `bs`: every key, in ascending order. -/
def Merges (out : ListOut) (as bs : List Nat) : Prop :=
  out.bad = none ∧ out.full = false ∧ (out.keys.map Prod.fst).Perm (as ++ bs) ∧ (out.keys.map Prod.fst).Pairwise (· ≤ ·)

/-- A key that is not above any key of the rest, emitted before it. -/
theorem Merges.emit {room a i j : Nat} {out : ListOut} {as bs cs ds : List Nat} (h : Merges out as bs) (hroom : 1 < room)
    (hle : ∀ b ∈ as ++ bs, a ≤ b) (hp : (a :: (as ++ bs)).Perm (cs ++ ds)) : Merges (emitKey room (a, i, j) out) cs ds := by
  obtain ⟨hbad, hfull, hperm, hasc⟩ := h
  rw [emitKey_room hroom]
  exact ⟨hbad, hfull, (hperm.cons a).trans hp, List.pairwise_cons.2 ⟨fun b hb => hle b (hperm.mem_iff.1 hb), hasc⟩⟩

theorem listRun_merges (fuel : Nat) : ∀ {room i j : Nat} {la lb : Option Nat} {as bs : List Nat}, Follows la as → Follows lb bs →
    as.length + bs.length < fuel → as.length + bs.length < room → Merges (listRun .merge fuel room (i, la, as) (j, lb, bs)) as bs := by
  induction fuel with
  | zero => intros; omega
  | succ fuel ih =>
    intro room i j la lb as bs ha hb hfuel hroom
    have takeLeft : ∀ a as', as = a :: as' → (∀ b ∈ bs, a ≤ b) → Merges (listRun .merge (fuel + 1) room (i, la, as) (j, lb, bs)) as bs := by
      rintro a as rfl hab
      simp only [List.length_cons] at hfuel hroom
      rw [listRun_merge_left ha hb hab]
      refine (ih ha.tail hb (by omega) (by omega)).emit (by omega) (fun c hc => ?_) (.refl _)
      exact (List.mem_append.1 hc).elim (fun hc => ha.head_le c (by simp [hc])) (hab c)
    have takeRight : ∀ b bs', bs = b :: bs' → (∀ a ∈ as, b < a) → Merges (listRun .merge (fuel + 1) room (i, la, as) (j, lb, bs)) as bs := by
      rintro b bs rfl hab
      simp only [List.length_cons] at hfuel hroom
      rw [listRun_merge_right ha hb hab]
      refine (ih ha hb.tail (by omega) (by omega)).emit (by omega) (fun c hc => ?_) List.perm_middle.symm
      exact (List.mem_append.1 hc).elim (fun hc => (hab c hc).le) (fun hc => hb.head_le c (by simp [hc]))
    cases as with
    | nil =>
      cases bs with
      | nil => rw [listRun_merge_nil]; exact ⟨rfl, rfl, .refl _, .nil⟩
      | cons b bs => exact takeRight b bs rfl (by simp)
    | cons a as =>
      cases bs with
      | nil => exact takeLeft a as rfl (by simp)
      | cons b bs =>
        by_cases hab : a ≤ b
        · exact takeLeft a as rfl (fun c hc => hab.trans (hb.head_le c hc))
        · exact takeRight b bs rfl (fun c hc => by have := ha.head_le c hc; omega)

/-- Settles O30: at each turn the smaller head is taken, and an emission needs room. -/
theorem mergeEmitsEveryKeyInOrder : Obligations.MergeEmitsEveryKeyInOrder := by
  refine ⟨fun as bs ha hb => listRun_merges _ ⟨ha, by simp⟩ ⟨hb, by simp⟩ (by omega) (by omega), fun op n room as bs => listRun_withinRoom op n room _ _⟩

end Sys2Proof.Machine

/-! PROOFS. Levels, tallies and memory (spec/06, spec/07, spec/14, spec/17): what one operation gives, and what it leaves. -/

namespace Sys2Proof.Machine

/-! ### The staged level (R554) -/

theorem levelOf_le (a m : Int) : levelOf a m ≤ 15 := by
  unfold levelOf
  split_ifs <;> omega

theorem levelOf_of_nonpos {a : Int} (h : a ≤ 0) (m : Int) : levelOf a m = 15 := if_pos h

theorem levelOf_of_le {a m : Int} (hm : 0 < m) (h : m ≤ a) : levelOf a m = 0 := by
  rw [levelOf, if_neg (by omega), if_pos h]

theorem levelOf_of_lt {a m : Int} (h0 : 0 < a) (h : a < m) : levelOf a m = min 15 (16 - (16 * a / m).toNat) := by
  rw [levelOf, if_neg (by omega), if_neg (by omega)]

theorem levelOf_antitone {a b m : Int} (hm : 0 < m) (h : a ≤ b) : levelOf b m ≤ levelOf a m := by
  by_cases ha : a ≤ 0
  · rw [levelOf_of_nonpos ha]
    exact levelOf_le b m
  · by_cases hb : m ≤ b
    · rw [levelOf_of_le hm hb]
      exact Nat.zero_le _
    · have hdiv : 16 * a / m ≤ 16 * b / m := Int.ediv_le_ediv hm (by omega)
      rw [levelOf_of_lt (by omega) (by omega), levelOf_of_lt (by omega) (by omega)]
      omega

/-- Settles O54. -/
theorem levelFollowsTheEnvelope : Obligations.LevelFollowsTheEnvelope :=
  fun a m hm => ⟨levelOf_le a m, levelOf_of_le hm, fun h => levelOf_of_nonpos h m, levelOf_of_lt, fun _ => levelOf_antitone hm⟩

/-! ### The expectations of a run that halts (R204) -/

theorem expectOf_setExpect_self {x : UnitCtx} {i : Nat} (h : Sparse.sorted x.expect = true) (v : BitVec 48) : expectOf (setExpect i v x) i = v :=
  Sparse.get_set_self _ _ _ _ h

theorem expectOf_setExpect_ne {i j : Nat} (h : j ≠ i) (v : BitVec 48) (x : UnitCtx) : expectOf (setExpect i v x) j = expectOf x j :=
  Sparse.get_set_ne _ _ _ h

/-- `E` is raised for each of a run of tallies once, and for no other. -/
theorem raiseExpects (first : Nat) (inc : Nat → BitVec 48) (n : Nat) (x : UnitCtx) (h : Sparse.sorted x.expect = true) :
    let y := (List.range n).foldl (fun x i => setExpect (first + i) (expectOf x (first + i) + inc i) x) x
    Sparse.sorted y.expect = true ∧ ∀ i, expectOf y i = if first ≤ i ∧ i < first + n then expectOf x i + inc (i - first) else expectOf x i := by
  induction n with
  | zero => exact ⟨h, fun i => by rw [if_neg (by omega)]; rfl⟩
  | succ n ih =>
    obtain ⟨hs, hv⟩ := ih
    simp only [List.range_succ, List.foldl_append, List.foldl_cons, List.foldl_nil]
    refine ⟨Sparse.sorted_set _ _ _ _ hs, fun i => ?_⟩
    by_cases hi : i = first + n
    · subst hi
      rw [expectOf_setExpect_self hs, hv, if_neg (by omega), if_pos (by omega), Nat.add_sub_cancel_left]
    · rw [expectOf_setExpect_ne hi, hv]
      exact if_congr (by omega) rfl rfl

/-- Settles O18: the tallies of a run are raised one after another. -/
theorem haltRaisesExpectations : Obligations.HaltRaisesExpectations := by
  intro r x i h
  exact (raiseExpects r.tallyFirst (fun i => BitVec.ofNat 48 (r.incs.getD i 0)) r.tallyCount x h).2 i

/-! ### Increments (R239, R245, R253) -/

theorem bumpTally_eq (amount : Nat) (t : Tally) : bumpTally amount t = { t with
    value := BitVec.ofNat 48 (min (t.value.toNat + amount) (2 ^ 48 - 1))
    sat := t.sat || decide (2 ^ 48 - 1 ≤ t.value.toNat + amount) } := by
  have h : (min (t.value.toNat + amount) tallyMax == tallyMax) = decide (2 ^ 48 - 1 ≤ t.value.toNat + amount) := by
    rw [beq_eq_decide]
    exact decide_eq_decide.2 min_eq_right_iff
  simp only [bumpTally, h]
  rfl

theorem checkPairs_of_no_pairs {s : State} {u : UnitId} {slice : Nat} (h : ∀ x, findUnit s u slice = some x → x.pairs = []) (c : Cause) (i : Nat) :
    checkPairs c u slice i s = s := by
  unfold checkPairs
  split
  · rfl
  · next x hx => simp [brokenPair, h x hx]

theorem addTallyFrom_of_poison {s : State} {u : UnitId} {slice i k : Nat} (hk : tallyKey s slice u i = some k) (h : (tallyAt s k).poison = true)
    (c : Cause) (amount : Nat) : addTallyFrom c u slice i amount s = s := by
  simp [addTallyFrom, hk, h]

/-- An increment that breaks no pair writes its tally, and beyond it only what the tick has brought and the waits of a licensee's engine. -/
theorem addTallyFrom_of_sound {s : State} {u : UnitId} {slice i k : Nat} (hk : tallyKey s slice u i = some k) (h : (tallyAt s k).poison = false)
    (hp : ∀ x, findUnit s u slice = some x → x.pairs = []) (c : Cause) (amount : Nat) :
    ∃ p o tk, addTallyFrom c u slice i amount s =
      { s with tallies := (setTallyAt k (bumpTally amount (tallyAt s k)) s).tallies, ports := p, sent := o, tick := tk } := by
  obtain ⟨p, o, hw⟩ := wakeEngineWaits_only u (setTallyAt k (bumpTally amount (tallyAt s k)) (noteIncrement k amount s))
  refine ⟨p, o, (noteIncrement k amount s).tick, ?_⟩
  simp only [addTallyFrom, hk, h, hw, Bool.false_eq_true, if_false]
  refine (checkPairs_of_no_pairs ?_ c i).trans ?_
  · exact hp
  · rfl

/-- Settles O22. -/
theorem incrementsSaturate : Obligations.IncrementsSaturate := by
  intro s u slice i amount k hk hs
  refine ⟨fun h => addTallyFrom_of_poison hk h _ amount, fun h hp => ?_⟩
  obtain ⟨p, o, tk, ht⟩ := addTallyFrom_of_sound hk h hp {} amount
  rw [addTally, ht]
  refine ⟨?_, fun j hj => tallyAt_setTallyAt_ne _ hj, rfl, rfl, rfl, rfl⟩
  exact (tallyAt_setTallyAt_self _ hs).trans (bumpTally_eq amount _)

/-! ### Memory (R466, R503, R579) -/

theorem mem_linesOf {l addr n : Nat} : l ∈ linesOf addr n ↔ 0 < n ∧ addr / 64 ≤ l ∧ l ≤ (addr + n - 1) / 64 := by
  unfold linesOf
  split
  · simp; omega
  · simp only [List.mem_map, List.mem_range]
    constructor
    · rintro ⟨i, hi, rfl⟩; omega
    · rintro ⟨h0, h1, h2⟩; exact ⟨l - addr / 64, by omega, by omega⟩

theorem line_mem_linesOf {addr n i : Nat} (h : i < n) : (addr + i) / 64 ∈ linesOf addr n :=
  mem_linesOf.2 ⟨by omega, by omega, by omega⟩

@[simp] theorem writeLines_keyNumber (slot : Nat) (ls : List Nat) (s : State) (k : Nat) : keyNumber (writeLines s slot ls) k = keyNumber s k := by
  obtain ⟨m, n, h⟩ := writeLines_only slot ls s
  rw [h]; rfl

@[simp] theorem memWrite_keyNumber (addr slot : Nat) (data : List Byte) (s : State) (k : Nat) : keyNumber (memWrite addr slot data s) k = keyNumber s k := by
  obtain ⟨m, n, h⟩ := memWrite_only addr slot data s
  rw [h]; rfl

/-- Every line written takes the slot's key; every other line keeps its own. -/
theorem get?_memKeys_writeLines (slot l : Nat) (ls : List Nat) (s : State) :
    Sparse.get? (writeLines s slot ls).memKeys l = if l ∈ ls then some (slot, keyNumber s slot) else Sparse.get? s.memKeys l := by
  induction ls generalizing s with
  | nil => rfl
  | cons a ls ih =>
    simp only [writeLines]
    split
    · next h =>
      rw [ih]
      by_cases hl : l = a
      · simp [hl, h]
      · simp [hl]
    · rw [ih]
      by_cases hl : l = a
      · subst hl
        rw [if_pos (List.mem_cons_self ..)]
        split
        · rfl
        · exact Sparse.get?_put_self ..
      · simp only [List.mem_cons, hl, false_or]
        exact if_congr Iff.rfl rfl (Sparse.get?_put_ne _ _ hl)

/-- A byte is lost only in a line that is written under another key than it had. -/
theorem get?_mem_writeLines {slot a : Nat} {ls : List Nat} {s : State}
    (h : a / 64 ∈ ls → Sparse.get? s.memKeys (a / 64) = some (slot, keyNumber s slot)) :
    Sparse.get? (writeLines s slot ls).mem a = Sparse.get? s.mem a := by
  induction ls generalizing s with
  | nil => rfl
  | cons l ls ih =>
    simp only [writeLines]
    split
    · exact ih (fun hl => h (by simp [hl]))
    · next hn =>
      have hl : a / 64 ≠ l := fun e => hn (e ▸ h (by simp [e]))
      rw [ih (fun hm => ?_)]
      · exact Sparse.get?_delRange_out _ _ _ _ (by omega)
      · exact (Sparse.get?_put_ne _ _ hl).trans (h (by simp [hm]))

theorem readByte_memWrite_in {s : State} {addr slot i : Nat} {data : List Byte} (h : i < data.length) :
    readByte (memWrite addr slot data s) slot (addr + i) = data[i]? := by
  have hk : Sparse.get? (memWrite addr slot data s).memKeys ((addr + i) / 64) = some (slot, keyNumber s slot) := by
    exact (get?_memKeys_writeLines _ _ _ _).trans (if_pos (line_mem_linesOf h))
  have hm : Sparse.get? (memWrite addr slot data s).mem (addr + i) = data[i]? := Sparse.get?_putList_in _ _ _ _ h
  rw [readByte, memWrite_keyNumber, if_pos hk, hm, List.getElem?_eq_getElem h]

/-- A byte that the write leaves, in a line whose key it leaves, reads as before. -/
theorem readByte_congr {s t : State} {k a : Nat} (hn : keyNumber t k = keyNumber s k)
    (hk : Sparse.get? t.memKeys (a / 64) = Sparse.get? s.memKeys (a / 64)) (hm : Sparse.get? t.mem a = Sparse.get? s.mem a) :
    readByte t k a = readByte s k a := by
  simp only [readByte, garbageByte, hn, hk, hm]

theorem get?_mem_memWrite_out {s : State} {addr slot a : Nat} {data : List Byte} (ha : a < addr ∨ addr + data.length ≤ a)
    (h : a / 64 ∈ linesOf addr data.length → Sparse.get? s.memKeys (a / 64) = some (slot, keyNumber s slot)) :
    Sparse.get? (memWrite addr slot data s).mem a = Sparse.get? s.mem a :=
  (Sparse.get?_putList_out _ _ _ _ ha).trans (get?_mem_writeLines h)

theorem readByte_memWrite_other_line {s : State} {addr slot a : Nat} {data : List Byte} (h : a / 64 ∉ linesOf addr data.length) (k : Nat) :
    readByte (memWrite addr slot data s) k a = readByte s k a := by
  have ha : a < addr ∨ addr + data.length ≤ a := by
    by_contra hc
    exact h (mem_linesOf.2 ⟨by omega, by omega, by omega⟩)
  exact readByte_congr (memWrite_keyNumber ..) ((get?_memKeys_writeLines _ _ _ _).trans (if_neg h)) (get?_mem_memWrite_out ha (fun hl => absurd hl h))

theorem readByte_memWrite_same_key {s : State} {addr slot a : Nat} {data : List Byte} (ha : a < addr ∨ addr + data.length ≤ a)
    (h : Sparse.get? s.memKeys (a / 64) = some (slot, keyNumber s slot)) : readByte (memWrite addr slot data s) slot a = readByte s slot a := by
  refine readByte_congr (memWrite_keyNumber ..) ((get?_memKeys_writeLines _ _ _ _).trans ?_) (get?_mem_memWrite_out ha (fun _ => h))
  split
  · exact h.symm
  · rfl

theorem memRead_of_readByte {s : State} {slot addr : Nat} {data : List Byte} (h : ∀ i, i < data.length → readByte s slot (addr + i) = data[i]?) :
    memRead s slot addr data.length = some data := by
  induction data generalizing addr with
  | nil => rfl
  | cons b bs ih =>
    have hb : readByte s slot addr = some b := h 0 (by simp)
    have hbs : memRead s slot (addr + 1) bs.length = some bs := ih (fun i hi => by
      rw [Nat.add_assoc, Nat.add_comm 1 i]
      exact h (i + 1) (by simpa using hi))
    simp [memRead, hb, hbs]

/-- Settles O57. -/
theorem memoryReadsBackWrites : Obligations.MemoryReadsBackWrites := by
  intro s addr slot data hm hk
  obtain ⟨canonicalMem, canonicalKeys⟩ := memWrite_canonical addr slot data s ⟨hm, hk⟩
  obtain ⟨m, n, only⟩ := memWrite_only addr slot data s
  refine ⟨canonicalMem, canonicalKeys, ?_, memRead_of_readByte (fun i hi => readByte_memWrite_in hi), fun i hi => readByte_memWrite_in hi,
    fun a k ha => readByte_memWrite_other_line ha k, fun a ha h => readByte_memWrite_same_key ha h⟩
  rw [only]

end Sys2Proof.Machine

/-! PROOFS. The AHNIF queue interface (spec/02, spec/03): stops, doorbells, fetches, and descriptors -/

namespace Sys2Proof.Machine

/-! ### Stopping a queue (R83, R84) -/

/-- How far `COMPLETED` moves when a queue of done descriptors advances to a limit (R77, R450). -/
def doneCount (limit : Option Nat) (x : Queue) : Nat :=
  match limit with
  | none => donePrefix x.descs
  | some m => min (donePrefix x.descs) (m - x.completed)

theorem advanceQueue_frame (t : Nat) (limit : Option Nat) (x : Queue) : ∃ ds tm w st, advanceQueue t limit x =
    { x with completed := x.completed + doneCount limit x, descs := ds, timer := tm, waitingSince := w, state := st } := by
  have h : advanceQueue t limit x = if doneCount limit x = 0 then x else { x with
      completed := x.completed + doneCount limit x, descs := x.descs.drop (doneCount limit x), timer := 0, waitingSince := t
      state := if queueOpen x && x.completed + doneCount limit x == x.posted then .idle else x.state } := rfl
  rw [h]
  split
  · next h0 => exact ⟨x.descs, x.timer, x.waitingSince, x.state, by simp [h0]⟩
  · exact ⟨_, _, _, _, rfl⟩

/-- Stopping work stops no queue: it writes no queue at all. -/
theorem stopQueueWork_queues (slice q : Nat) (o : Owner) (rebase calls : Bool) (s : State) :
    (stopQueueWork slice q o rebase calls s).queues = s.queues := by
  unfold stopQueueWork
  dsimp only
  obtain ⟨_, _, _, _, _, _, h⟩ := leaveOpenFaults_opens slice q (askUnits ((s.units.filter (fun x => x.slice == slice && holdsQueue x q)).map UnitCtx.unit) s)
  rw [h]
  rfl

theorem Sends.queues {s t : State} (h : Sends s t) : t.queues = s.queues := by
  obtain ⟨_, _, _, rfl⟩ := h
  rfl

theorem findQueue_of_queues {s t : State} (h : t.queues = s.queues) (slice q : Nat) : findQueue t slice q = findQueue s slice q := by
  rw [findQueue, h, findQueue]

theorem countLimit_of_twin {s t : State} (h : t.twin = s.twin) (x : Queue) : countLimit t x = countLimit s x := by
  rw [countLimit, countLimit, mirroring, mirroring, h]

/-- A queue as closing it leaves it (R83, steps 3 and 4). -/
def closedQueue (s : State) (st : Nat) (seq : Word32) (x : Queue) : Queue :=
  stoppedQueue st (statusGuilty st) (statusVictim st) (some seq) (advanceQueue (now s) (countLimit s x) x)

theorem closedQueue_key (s : State) (st : Nat) (seq : Word32) (x : Queue) :
    (closedQueue s st seq x).slice = x.slice ∧ (closedQueue s st seq x).id = x.id := by
  obtain ⟨_, _, _, _, h⟩ := advanceQueue_frame (now s) (countLimit s x) x
  rw [closedQueue, h]
  exact ⟨rfl, rfl⟩

theorem closeQueue_queues (slice q st : Nat) (seq : Word32) (s : State) :
    (closeQueue slice q st seq s).queues = (mapQueue slice q (closedQueue s st seq) s).queues :=
  Sends.queues ((reportQueue_sends slice q (mapQueue slice q (closedQueue s st seq) s)).trans (emitD2d_sends _ _ _))

/-- The state in which a queue's stop has written its record and stopped its work. -/
def stoppedWork (slice q st : Nat) (r : FaultRecord) (s : State) : State :=
  stopQueueWork slice q .none true false (writeRecord { r with
    slice := slice, queue := q, dstatus := st, guilty := statusGuilty st, victim := statusVictim st, context := contextSlot s slice } s)

theorem stoppedWork_queues (slice q st : Nat) (r : FaultRecord) (s : State) : (stoppedWork slice q st r s).queues = s.queues := by
  rw [stoppedWork, stopQueueWork_queues]
  obtain ⟨_, _, _, _, _, h⟩ := writeRecord_records { r with
    slice := slice, queue := q, dstatus := st, guilty := statusGuilty st, victim := statusVictim st, context := contextSlot s slice } s
  rw [h]

theorem stoppedWork_twin (slice q st : Nat) (r : FaultRecord) (s : State) : (stoppedWork slice q st r s).twin = s.twin := by
  obtain ⟨_, _, _, _, _, _, _, _, _, _, _, _, h⟩ := (writeRecord_records { r with
    slice := slice, queue := q, dstatus := st, guilty := statusGuilty st, victim := statusVictim st, context := contextSlot s slice } s).stops.trans
      (stopQueueWork_stops slice q .none true false _)
  rw [stoppedWork, h]

/-- A queue of this block is closed where its work was stopped; the owner of another is told. -/
theorem stopQueue_queues (slice q st : Nat) (r : FaultRecord) (s : State) : (stopQueue slice q st r s).queues =
    if queueOwner s slice q = s.boot.blkId then (mapQueue slice q (closedQueue (stoppedWork slice q st r s) st (nextSeq s)) s).queues else s.queues := by
  have hq := stoppedWork_queues slice q st r s
  change (if queueOwner s slice q = s.boot.blkId then closeQueue slice q st (nextSeq s) (stoppedWork slice q st r s)
    else sendD2d (queueOwner s slice q) (.mgmt (.queueStop slice q st (nextSeq s))) (stoppedWork slice q st r s)).queues = _
  split
  · rw [closeQueue_queues, mapQueue, mapQueue, hq]
  · exact (sendD2d_sends _ _ _).queues.trans hq

theorem queueOwner_of_find {s : State} {slice q : Nat} {x : Queue} (h : findQueue s slice q = some x) : queueOwner s slice q = x.owner := by
  simp [queueOwner, h]

theorem findQueue_stopQueue_other {s : State} {slice q slice' q' : Nat} (h : ¬(slice' = slice ∧ q' = q)) (st : Nat) (r : FaultRecord) :
    findQueue (stopQueue slice q st r s) slice' q' = findQueue s slice' q' := by
  have hq := stopQueue_queues slice q st r s
  split at hq
  · exact (findQueue_of_queues hq slice' q').trans (findQueue_mapQueue_ne (closedQueue_key _ _ _) h)
  · exact findQueue_of_queues hq slice' q'

theorem findQueue_stopQueue_owned {s : State} {slice q : Nat} {x : Queue} (hx : findQueue s slice q = some x) (ho : x.owner = s.boot.blkId)
    (st : Nat) (r : FaultRecord) :
    findQueue (stopQueue slice q st r s) slice q = some (closedQueue (stoppedWork slice q st r s) st (nextSeq s) x) := by
  have hq := stopQueue_queues slice q st r s
  rw [queueOwner_of_find hx, if_pos ho] at hq
  exact (findQueue_of_queues hq slice q).trans (findQueue_mapQueue_self (closedQueue_key _ _ _) hx)

theorem findQueue_stopQueue_of_other_block {s : State} {slice q : Nat} {x : Queue} (hx : findQueue s slice q = some x)
    (ho : x.owner ≠ s.boot.blkId) (st : Nat) (r : FaultRecord) : findQueue (stopQueue slice q st r s) slice q = some x := by
  have hq := stopQueue_queues slice q st r s
  rw [queueOwner_of_find hx, if_neg ho] at hq
  exact (findQueue_of_queues hq slice q).trans hx

/-- What a twin has acknowledged bounds the count only while the queue is mirrored (R450). -/
theorem doneCount_countLimit (s : State) (x : Queue) : doneCount (countLimit s x) x =
    if mirroring s = true then min (donePrefix x.descs) (x.mirrored - x.completed) else donePrefix x.descs := by
  unfold countLimit
  split <;> rfl

/-- Settles O8: the stop is `StopsWork`, and of the queues it writes the one it stops. -/
theorem stoppingAQueueTouchesNoOther : Obligations.StoppingAQueueTouchesNoOther := by
  intro s slice q st r x hx
  refine ⟨fun ho => ⟨_, findQueue_stopQueue_owned hx ho st r, ?_⟩, fun ho => findQueue_stopQueue_of_other_block hx ho st r,
    fun slice' q' h => findQueue_stopQueue_other h st r, ?_⟩
  · obtain ⟨_, _, _, _, h⟩ := advanceQueue_frame (now (stoppedWork slice q st r s)) (countLimit (stoppedWork slice q st r s) x) x
    rw [countLimit_of_twin (stoppedWork_twin slice q st r s), doneCount_countLimit] at h
    rw [closedQueue, countLimit_of_twin (stoppedWork_twin slice q st r s), h]
    exact ⟨rfl, rfl, by simp [stoppedQueue, statusGuilty], by simp [stoppedQueue, statusVictim, beq_eq_decide], rfl, rfl, rfl, rfl, rfl, rfl, rfl,
      rfl, rfl, rfl, rfl, rfl, rfl, rfl, rfl⟩
  · obtain ⟨_, _, _, _, _, _, _, _, _, _, _, _, h⟩ := stopQueue_stops slice q st r s
    rw [h]
    exact ⟨rfl, rfl, rfl, rfl, rfl, rfl, rfl⟩

/-! ### Doorbells that are taken (R42, R44, R48, R49, R116) -/

theorem execDoorbellForward_of_owner {s : State} {slice q : Nat} {x : Queue} (hx : findQueue s slice q = some x) (owner : x.owner = s.boot.blkId)
    (v : ForwardedWrite) : execDoorbellForward slice q v s = .next (takeDoorbell slice q v.value.toNat v.tick s) := by
  simp [execDoorbellForward, hx, owner]

theorem doorbellStale_of_closed {x : Queue} (h : queueOpen x = false) (value : Nat) : doorbellStale x value = true := by
  simp [doorbellStale, h]

theorem doorbellStale_of_new {x : Queue} {value : Nat} (isOpen : queueOpen x = true) (fetching : x.quiescing = false) (h : x.posted < value) :
    doorbellStale x value = false := by
  simp [doorbellStale, isOpen, fetching, h]

/-- A member's queue is known to the lead, which forwards a write to it with the tick of its acceptance (R34, R35). -/
theorem execDoorbellWrite_of_other_owner {s : State} {slice q reg : Nat} {c : SliceCfg} {x : Queue} (ready : s.boot.ready = true)
    (lead : s.boot.isLead = true) (hc : sliceCfg s slice = some c) (hx : findQueue s slice q = some x) (hq : q < 64) (hreg : reg < 8)
    (owner : x.owner ≠ s.boot.blkId) (size : Nat) (v : Word64) :
    execDoorbellWrite c.identity (4096 * slice + 64 * q + reg) size v s =
      .next (sendD2d x.owner (.doorbell slice q (if reg = 0 ∧ size = 8 then v else 0) (now s)) s) := by
  have hslice : (4096 * slice + 64 * q + reg) / 4096 = slice := by omega
  have hqueue : (4096 * slice + 64 * q + reg) % 4096 / 64 = q := by omega
  have hoffset : (4096 * slice + 64 * q + reg) % 64 = reg := by omega
  simp [execDoorbellWrite, hslice, hqueue, hoffset, ready, lead, hc, hx, owner, Nat.not_le.2 hreg]

/-- Settles O5: a write that is not stale rings the queue; only then is its value held against the ring's size. -/
theorem doorbellsPostAndStop : Obligations.DoorbellsPostAndStop := by
  intro s slice q tick v x hx
  refine ⟨fun owner isOpen fetching new => ?_, fun owner closed => ?_, fun c reg size hq hreg ready lead hc => ⟨fun owner => ?_, fun owner => ?_⟩⟩
  · have take := execDoorbellForward_of_owner hx owner { value := v, tick := tick }
    have fresh := doorbellStale_of_new isOpen fetching new
    refine ⟨fun fits => take.trans ?_, fun beyond => take.trans ?_⟩
    · simp only [takeDoorbell, hx, fresh, ringSize, Nat.not_lt.2 fits, Bool.false_eq_true, if_false]
      rfl
    · simp only [takeDoorbell, hx, fresh, ringSize, beyond, Bool.false_eq_true, if_false, if_true]
      rfl
  · exact (execDoorbellForward_of_owner hx owner _).trans (congrArg _ (takeDoorbell_of_stale hx (doorbellStale_of_closed closed _) _))
  · exact (execDoorbellWrite_of_owner ready lead hc hx hq hreg owner size v).trans 
      (execDoorbellForward_of_owner hx owner { value := if reg = 0 ∧ size = 8 then v else 0, tick := now s }).symm
  · exact execDoorbellWrite_of_other_owner ready lead hc hx hq hreg owner size v

/-! ### Fetching (R77, R117, R55) -/

/-- Caching the pages of a range writes the translations, and nothing else. -/
theorem cachePages_only (place : XPlace) (sl : Slice) (va n : Nat) (s : State) : ∃ x, cachePages place sl va n s = { s with xlat := x } := by
  unfold cachePages
  split
  · exact ⟨s.xlat, rfl⟩
  · next seg _ =>
    dsimp only
    generalize pageParts _ _ _ = ps
    induction ps generalizing s with
    | nil => exact ⟨s.xlat, rfl⟩
    | cons p ps ih =>
      rw [List.foldl_cons]
      split
      · exact ih s
      · split
        · obtain ⟨x, h⟩ := ih (fillPage sl.id seg _ _ sl.gen [place] _ s)
          exact ⟨x, h⟩
        · split
          · obtain ⟨x, h⟩ := ih (fillPage sl.id seg _ _ sl.gen [place] _ s)
            exact ⟨x, h⟩
          · exact ih s

@[simp] theorem fetchState_now (sl : Slice) (x : Queue) (s : State) : now (fetchState sl x s) = now s := by
  obtain ⟨_, h⟩ := cachePages_only .l2 sl (fetchVa x) 64 (stepFree s)
  rw [fetchState, h]
  rfl

theorem execDescriptorFetch_of_empty {s : State} {slice q : Nat} {sl : Slice} {x : Queue} {c : SliceCfg} (hsl : findSlice s slice = some sl)
    (hx : findQueue s slice q = some x) (hc : sliceCfg s slice = some c) (owner : x.owner = s.boot.blkId) (isOpen : queueOpen x = true)
    (fetching : x.quiescing = false) (running : s.recovery.halted = false) (free : stalled s slice (frontEngine s slice q) = false)
    (h : x.posted ≤ x.fetched) : execDescriptorFetch slice q s = .next (mapQueue slice q (fun y => { y with armed := true }) s) := by
  simp [execDescriptorFetch, hsl, hx, hc, owner, isOpen, fetching, running, free, h]

theorem execDescriptorFetch_of_good {s : State} {slice q : Nat} {sl : Slice} {x : Queue} {c : SliceCfg} {d : List Byte} {o : DescOp}
    (may : MayFetch s slice q sl x c) (hread : readNow (fetchState sl x s) sl .fetch (fetchVa x) 64 = .ok d)
    (hcheck : checkDesc (fetchState sl x s) sl c d = .ok ([], some o)) :
    execDescriptorFetch slice q s = .next (reportQueue slice q (wantContext slice (mapQueue slice q (fetchedQueue (now s)
      { index := x.fetched, tag := BitVec.ofNat 32 (byteField d 4 4), ordered := byteField d 1 1 == 1, op := o, phase := .fetched })
      (fetchState sl x s)))) := by
  obtain ⟨hsl, hx, hc, owner, isOpen, fetching, running, free, posted⟩ := may
  have hnow : now (fetchState sl x s) = now s := fetchState_now sl x s
  unfold fetchState fetchVa at hread hcheck hnow ⊢
  simp [execDescriptorFetch, ringSize, hsl, hx, hc, owner, isOpen, fetching, running, free, Nat.not_le.2 posted, hread, hcheck, hnow]

theorem fetchedQueue_frame (t : Nat) (d : Desc) (y : Queue) : ∃ e, fetchedQueue t d y = { y with
      fetched := y.fetched + 1, armed := false, rung := false, state := .active, descs := y.descs ++ [e]
      rings := y.rings.filter (fun r => decide (y.fetched + 1 < r.posted))
      waitingSince := if y.descs.isEmpty then t else y.waitingSince } ∧
    e.index = d.index ∧ e.tag = d.tag ∧ e.ordered = d.ordered ∧ e.op = d.op ∧ e.phase = d.phase :=
  ⟨_, rfl, rfl, rfl, rfl, rfl, rfl⟩

/-- Settles O6: the front end reads one descriptor, and its checks decide between the list and a stop. -/
theorem descriptorFetchListsOrRejects : Obligations.DescriptorFetchListsOrRejects := by
  intro s slice q sl x c hsl hx hc owner isOpen fetching running free
  refine ⟨execDescriptorFetch_of_empty hsl hx hc owner isOpen fetching running free, fun d posted => ?_, fun d y => fetchedQueue_frame (now s) d y⟩
  have may : MayFetch s slice q sl x c := ⟨hsl, hx, hc, owner, isOpen, fetching, running, free, posted⟩
  exact fun hread => ⟨fun o hcheck => execDescriptorFetch_of_good may hread hcheck,
    fun b bad o hcheck => ⟨_, pickStatus_mem _ b bad, execDescriptorFetch_of_bad may hread hcheck⟩⟩

/-! ### Descriptors that start (R59 to R66) -/

theorem execNop_of_startable {s : State} {slice q : Nat} {sl : Slice} {x : Queue} {d : Desc} (h : startable s slice q = some (sl, x, d))
    (op : d.op = .nop) : execNop slice q s = .next (startDesc slice q d.index .done s) := by
  simp [execNop, h, op]

theorem execFence_of_startable {s : State} {slice q : Nat} {sl : Slice} {x : Queue} {d : Desc} (h : startable s slice q = some (sl, x, d))
    (op : d.op = .fence) : execFence slice q s = .next (startDesc slice q d.index .done s) := by
  simp [execFence, h, op]

/-- Runs that have one block to go to all wait there. -/
theorem addRuns_of_single_block {s : State} {slice q target : Nat} (h : runBlocks s slice q target = [s.boot.blkId]) (n : Nat) (mk : Nat → Nat → Run) :
    addRuns slice q target mk n s = mapSlice slice (fun y => { y with
      runs := y.runs ++ (List.range n).map (fun i => mk (y.nextRun + i) i), nextRun := y.nextRun + n }) s := by
  have here : ∀ i, runBlock s slice q target i = s.boot.blkId := fun i => by simp [runBlock, h, Nat.mod_one]
  have index : ∀ y : Slice, (List.range n).map (fun i => mk (y.nextRun + i) ((List.range n).getD i 0)) =
      (List.range n).map (fun i => mk (y.nextRun + i) i) := fun y => List.map_congr_left (fun i hi => by
    simp [List.getElem?_range (List.mem_range.1 hi)])
  simp only [addRuns, here, beq_self_eq_true, List.filter_true, bne_self_eq_false, List.filter_false, List.foldl_nil, List.length_range, index]

/-- Settles O9. -/
theorem descriptorsStartInOrder : Obligations.DescriptorsStartInOrder := by
  refine ⟨fun s slice q sl x d h => ⟨execNop_of_startable h, execFence_of_startable h, fun prog p params plen inst target op => ?_⟩,
    fun s slice q target n mk h => addRuns_of_single_block h n mk⟩
  change execLaunch slice q s = _
  simp only [execLaunch, h, op]

/-! ### Descriptors that move data (R61 to R65) -/

theorem classOf_of_find {s : State} {slice q : Nat} {x : Queue} (h : findQueue s slice q = some x) :
    classOf (stepFree s) slice q = if x.rt then 0 else 1 := by
  have hs : findQueue (stepFree s) slice q = some x := h
  simp [classOf, hs]

theorem readWaitWord_of_read {s : State} {sl : Slice} {q va : Nat} {d : Desc} {v : Word64} {bs : List Byte} (h : readNow s sl .read va 8 = .ok bs) :
    readWaitWord sl q d va v s = mapDesc sl.id q d.index (fun e => { e with phase := if v.toNat ≤ leNat bs then .done else .started }) s := by
  simp [readWaitWord, h]

/-- Settles O10. -/
theorem descriptorsMoveData : Obligations.DescriptorsMoveData := by
  refine ⟨fun s slice q sl x d h free => ?_, fun s slice q sl x d va v bs hsl hid hx isOpen runs free hd op hread => ?_⟩
  · have cls := classOf_of_find (startable_found h).1
    refine ⟨fun src dst n ps qs op hps hqs => ?_, fun dst n psize pattern qs op hqs => ?_, fun va v p op hp => ?_, fun va v bs op hid hread => ?_⟩
    · change execCopy slice q s = _
      simp only [execCopy, h, op, free, hps, hqs, cls]
      rfl
    · change execFill slice q s = _
      simp only [execFill, h, op, free, hqs, cls]
      rfl
    · change execSignal slice q s = _
      simp only [execSignal, h, op, free, hp, cls]
      rfl
    · subst hid
      change execWait sl.id q s = _
      simp only [execWait, h, op, free, readWaitWord_of_read hread]
      rfl
  · subst hid
    change execWaitReread sl.id q s = _
    simp only [execWaitReread, hsl, hx, isOpen, runs, free, hd, op, readWaitWord_of_read hread]
    rfl

/-! ### Graphs (R71 to R76, R235) -/

/-- Settles O13. -/
theorem graphLaunches : Obligations.GraphLaunches := by
  refine ⟨fun s slice q sl x d handle image len gen ps h op may free => ⟨fun g hg hbase hlen hgen hq hl => ?_, fun im hg hroom hcheck => ?_⟩,
    fun s slice handle l n sl g gl nd x hsl hg hgl hnd hx may runs going isOpen => ?_⟩
  · change execLaunchGraph slice q s = _
    have same : (g.base == image && g.len == len && g.gen == gen) = true := by simp [hbase, hlen, hgen]
    have listed : g.queues.contains q = true := by simpa using hq
    have idle : decide (2 ≤ g.launches.length) = false := by simpa using hl
    simp only [execLaunchGraph, h, op, free, hg, may, same, listed, idle]
    rfl
  · change execLaunchGraph slice q s = _
    have room : ¬64 ≤ sl.graphs.length := Nat.not_le.2 hroom
    simp only [execLaunchGraph, h, op, free, hg, hcheck, room, decide_false, if_false, may]
    rfl
  · change execGraphNodeStart slice handle l n s = _
    simp [execGraphNodeStart, hsl, hg, hgl, hnd, hx, may, runs, going, isOpen]

end Sys2Proof.Machine

/-! PROOFS. Completion of descriptors (spec/02, spec/03) -/

namespace Sys2Proof.Machine

/-! ### What settling the manager's commands and the twin's mode leaves alone -/

/-- What replies to the manager write: its channel and mailboxes, memory, the fault queue, the manager's and the twin's own state, and what
is sent. Nothing else has changed. -/
def LeavesWork (s t : State) : Prop :=
  s = { t with
    chan := s.chan, mbx := s.mbx, mem := s.mem, memKeys := s.memKeys, mgr := s.mgr, twin := s.twin, fq := s.fq, icu := s.icu
    fab := s.fab, sent := s.sent, free := s.free }

theorem LeavesWork.refl (s : State) : LeavesWork s s := rfl

theorem LeavesWork.sends {s t u : State} (h : Sends t u) (k : LeavesWork s t) : LeavesWork s u := by
  obtain ⟨_, _, _, rfl⟩ := h
  exact k

theorem LeavesWork.records {s t u : State} (h : Records t u) (k : LeavesWork s t) : LeavesWork s u := by
  obtain ⟨_, _, _, _, _, rfl⟩ := h
  exact k

theorem LeavesWork.ite {s t u : State} {c : Prop} [Decidable c] (h : LeavesWork s t) (k : LeavesWork s u) : LeavesWork s (if c then t else u) := by
  split
  · exact h
  · exact k

theorem foldl_leavesWork {α : Type} {s : State} {f : State → α → State} (h : ∀ t a, LeavesWork s t → LeavesWork s (f t a)) {l : List α} {t : State}
    (k : LeavesWork s t) : LeavesWork s (l.foldl f t) := by
  induction l generalizing t with
  | nil => exact k
  | cons a l ih => exact ih (h t a k)

theorem LeavesWork.queues {s t : State} (k : LeavesWork s t) : t.queues = s.queues := (congrArg State.queues k).symm
theorem LeavesWork.tallies {s t : State} (k : LeavesWork s t) : t.tallies = s.tallies := (congrArg State.tallies k).symm
theorem LeavesWork.units {s t : State} (k : LeavesWork s t) : t.units = s.units := (congrArg State.units k).symm

section
variable {s t : State}

theorem setMailbox_leavesWork {m b} (k : LeavesWork s t) : LeavesWork s (setMailbox m b t) := k
theorem refreshLevels_leavesWork (k : LeavesWork s t) : LeavesWork s (refreshLevels t) := k

theorem memWrite_leavesWork {addr slot : Nat} {data : List Byte} (k : LeavesWork s t) : LeavesWork s (memWrite addr slot data t) := by
  obtain ⟨m, n, h⟩ := memWrite_only addr slot data t
  rw [h]
  exact k

theorem putMessage_leavesWork {m ws who} (k : LeavesWork s t) : LeavesWork s (putMessage m ws who t) := setMailbox_leavesWork k
theorem sendSegment_leavesWork (k : LeavesWork s t) : LeavesWork s (sendSegment t) := putMessage_leavesWork k

theorem writeRing_leavesWork {s t u : State} {bs : List Byte} (k : LeavesWork s t) (h : writeRing bs t = some u) : LeavesWork s u := by
  unfold writeRing at h
  dsimp only at h
  split at h
  · cases h
  · cases h
    exact memWrite_leavesWork (.ite k (memWrite_leavesWork k))

theorem pumpList_leavesWork {rs : List (List Byte × Nat × Word32)} (k : LeavesWork s t) : LeavesWork s (pumpList rs t) := by
  induction rs generalizing t with
  | nil => exact k
  | cons r rs ih =>
    unfold pumpList
    split
    · split
      · exact ih (writeRing_leavesWork k ‹_›)
      · exact k
    · split
      · exact k
      · split
        · exact putMessage_leavesWork (m := 1) (ws := bufferMessage r.1 r.2.1 r.2.2) (who := manager0) (memWrite_leavesWork k)
        · exact sendSegment_leavesWork k

theorem pumpReplies_leavesWork (k : LeavesWork s t) : LeavesWork s (pumpReplies t) := refreshLevels_leavesWork (pumpList_leavesWork k)

theorem deliver_leavesWork {who buffer r} (k : LeavesWork s t) : LeavesWork s (deliver who buffer r t) := by
  unfold deliver
  split
  · exact pumpReplies_leavesWork k
  · exact .sends (emit_sends _ _) k
  · exact k

theorem finish_leavesWork {c status detail0 detail} (k : LeavesWork s t) : LeavesWork s (finish c status detail0 detail t) :=
  deliver_leavesWork k
theorem finishOk_leavesWork {c detail0 detail} (k : LeavesWork s t) : LeavesWork s (finishOk c detail0 detail t) := finish_leavesWork k
theorem bufferWrite_leavesWork {pa bs} (k : LeavesWork s t) : LeavesWork s (bufferWrite pa bs t) :=
  .ite (memWrite_leavesWork k) (foldl_leavesWork (fun _ _ k' => (.sends (postRequest_sends _ _ _ _ _) k')) k)
theorem reportBlock_leavesWork {op slice ok entries queues} (k : LeavesWork s t) :
    LeavesWork s (reportBlock op slice ok entries queues t) :=
  .sends (sendD2d_sends _ _ _) k
theorem replyStop_leavesWork {c entries queues} (k : LeavesWork s t) : LeavesWork s (replyStop c entries queues t) :=
  finishOk_leavesWork (.ite k (bufferWrite_leavesWork k))

theorem settleLead_leavesWork {c} (k : LeavesWork s t) : LeavesWork s (settleLead t c) := by
  unfold settleLead
  dsimp only
  split
  · exact .ite (.ite (replyStop_leavesWork k) k) (.ite (replyStop_leavesWork k) k)
  · exact .ite (.ite k (finishOk_leavesWork k)) k
  · exact k

theorem settleMember_leavesWork {c} (k : LeavesWork s t) : LeavesWork s (settleMember t c) := by
  unfold settleMember
  dsimp only
  split
  · exact .ite (reportBlock_leavesWork k) k
  · exact .ite k (reportBlock_leavesWork k)
  · exact k

theorem settleCommands_leavesWork (k : LeavesWork s t) : LeavesWork s (settleCommands t) :=
  foldl_leavesWork (fun _ _ k' => (.ite (settleLead_leavesWork k') (settleMember_leavesWork k'))) k
theorem setTwinState_leavesWork {st} (k : LeavesWork s t) : LeavesWork s (setTwinState st t) :=
  .records (raiseSource_records _ _) (.records (writeRecord_records _ _) k)
theorem sendImage_leavesWork {m} (k : LeavesWork s t) : LeavesWork s (sendImage m t) := .sends (emit_sends _ _) k
theorem leaveNode_leavesWork (k : LeavesWork s t) : LeavesWork s (leaveNode t) :=
  setTwinState_leavesWork (.sends (emit_sends _ _) (foldl_leavesWork (fun _ _ k' => (sendImage_leavesWork k')) k))

theorem settleTwin_leavesWork (k : LeavesWork s t) : LeavesWork s (settleTwin t) := by
  unfold settleTwin
  refine .ite ?_ ?_
  · exact k
  · refine .ite ?_ ?_
    · exact leaveNode_leavesWork k
    · split
      · exact setTwinState_leavesWork k
      · exact k

end

/-! ### Completion (R77, R81, R120) -/

theorem donePrefix_markFree (t : Nat) (before ds : List Desc) : donePrefix (markFree t before ds) = donePrefix ds := by
  induction ds generalizing before with
  | nil => rfl
  | cons d ds ih =>
    simp only [markFree, donePrefix, ih]
    split <;> rfl

/-- The queue whose head descriptor, with a list of others behind it, is done. -/
def headDone (t : Nat) (d : Desc) (rest : List Desc) (x : Queue) : Queue :=
  { x with descs := markFree t [] ({ d with phase := .done } :: rest) }

theorem advanceQueue_headDone (t : Nat) (d : Desc) (rest : List Desc) {x : Queue} (isOpen : queueOpen x = true) :
    advanceQueue t none (headDone t d rest x) = { x with
      completed := x.completed + 1 + donePrefix rest, timer := 0, waitingSince := t
      descs := (markFree t [] ({ d with phase := .done } :: rest)).drop (1 + donePrefix rest)
      state := if x.completed + 1 + donePrefix rest = x.posted then .idle else x.state } := by
  have count : donePrefix (headDone t d rest x).descs = 1 + donePrefix rest := by
    rw [headDone, donePrefix_markFree, donePrefix, if_pos (by rfl), Nat.add_comm]
  have still : queueOpen (headDone t d rest x) = true := isOpen
  have some : 1 + donePrefix rest ≠ 0 := by omega
  simp only [advanceQueue, count, still, if_neg some]
  simp [headDone, Nat.add_assoc]

/-- The head descriptor of a queue that finishes: it is done in its queue's list, and `COMPLETED` moves on (R77, R81). -/
theorem completeDescriptor_queue {s : State} {slice q : Nat} {sl : Slice} {x : Queue} {d : Desc} {rest : List Desc}
    (hsl : findSlice s slice = some sl) (hx : findQueue s slice q = some x) (isOpen : queueOpen x = true) (fetching : x.quiescing = false)
    (single : mirroring s = false) (descs : x.descs = d :: rest) (index : ∀ e ∈ rest, e.index ≠ d.index) (fin : descFinished s sl q d = true) :
    findQueue (completeDescriptor slice q d.index s) slice q = some (advanceQueue (now s) none (headDone (now s) d rest x)) := by
  have head : x.descs.find? (fun e => e.index == d.index) = some d := by simp [descs]
  have limit : countLimit s x = none := by simp [countLimit, single]
  have others : rest.map (fun e => if e.index = d.index then { e with phase := DescPhase.done } else e) = rest := by
    rw [List.map_congr_left fun e he => if_neg (index e he), List.map_id']
  have done : findQueue (mapDesc slice q d.index (fun e => { e with phase := .done }) s) slice q = some (headDone (now s) d rest x) := by
    have marked := findQueue_mapQueue_self (f := fun y => { y with descs := markFree (now s) [] (y.descs.map (fun e =>
      if e.index = d.index then { e with phase := .done } else e)) }) (fun _ => ⟨rfl, rfl⟩) hx
    rw [descs, List.map_cons, others, if_pos rfl] at marked
    exact marked
  have settled : settleQuiesce (advanceQueue (now s) none (headDone (now s) d rest x)) = advanceQueue (now s) none (headDone (now s) d rest x) := by
    simp [settleQuiesce, advanceQueue_headDone _ _ _ isOpen, fetching]
  simp only [completeDescriptor, hsl, hx, isOpen, head, fin, limit, Bool.not_true, Bool.false_eq_true, if_false, if_true]
  rw [findQueue_of_queues (reportQueue_sends _ _ _).queues, findQueue_mapQueue_self _ (x := headDone (now s) d rest x), settled]
  · exact done
  · intro y
    obtain ⟨_, _, _, _, h⟩ := advanceQueue_frame (now s) none y
    rw [h, settleQuiesce]
    split <;> exact ⟨rfl, rfl⟩

/-- Completing a descriptor of one queue writes no other queue, no tally and no unit. -/
theorem completeDescriptor_frame (slice q index : Nat) (s : State) :
    (∀ slice' q', ¬(slice' = slice ∧ q' = q) → findQueue (completeDescriptor slice q index s) slice' q' = findQueue s slice' q') ∧
    (completeDescriptor slice q index s).tallies = s.tallies ∧ (completeDescriptor slice q index s).units = s.units := by
  have key : ∀ (l : Option Nat) (y : Queue), (settleQuiesce (advanceQueue (now s) l y)).slice = y.slice ∧
      (settleQuiesce (advanceQueue (now s) l y)).id = y.id := fun l y => by
    obtain ⟨_, _, _, _, h⟩ := advanceQueue_frame (now s) l y
    rw [h, settleQuiesce]
    split <;> exact ⟨rfl, rfl⟩
  unfold completeDescriptor
  split
  · split
    · exact ⟨fun _ _ _ => rfl, rfl, rfl⟩
    · split
      · exact ⟨fun _ _ _ => rfl, rfl, rfl⟩
      · dsimp only
        obtain ⟨_, _, _, h⟩ := reportQueue_sends slice q _
        rw [h]
        refine ⟨fun slice' q' hne => ?_, ?_, ?_⟩
        · refine (findQueue_mapQueue_ne (key _) hne).trans ?_
          split
          · exact findQueue_mapQueue_ne (fun _ => ⟨rfl, rfl⟩) hne
          · rfl
        · split <;> rfl
        · split <;> rfl
  · exact ⟨fun _ _ _ => rfl, rfl, rfl⟩

/-- Settles O11: what is settled after a completion writes no queue, tally or unit. -/
theorem descriptorsEndOrTimeOut : Obligations.DescriptorsEndOrTimeOut := by
  refine ⟨fun s slice q sl x d rest hsl hx isOpen fetching single descs index fin => ?_, fun s slice q x hx isOpen pending due => ⟨fun hg => ?_, ?_⟩⟩
  · have settle := settleTwin_leavesWork (settleCommands_leavesWork (.refl (completeDescriptor slice q d.index s)))
    obtain ⟨other, tallies', units'⟩ := completeDescriptor_frame slice q d.index s
    refine ⟨_, rfl, ?_, fun slice' q' hne => (findQueue_of_queues settle.queues _ _).trans (other slice' q' hne), settle.tallies.trans tallies', settle.units.trans units'⟩
    rw [findQueue_of_queues settle.queues, completeDescriptor_queue hsl hx isOpen fetching single descs index fin, advanceQueue_headDone _ _ _ isOpen]
  · change execQueueTimeout slice q s = _
    simp only [execQueueTimeout, headIndex, hx, isOpen, pending, Nat.not_lt.2 due, hg, Bool.not_true, Bool.false_or, decide_false, Bool.false_eq_true,
      if_false]
  · intro u e hg
    refine ⟨Config.peerAbsentAddr (fld 75 64 e.word) (fld 57 48 e.word), ?_⟩
    change execQueueTimeout slice q s = _
    simp only [execQueueTimeout, headIndex, hx, isOpen, pending, Nat.not_lt.2 due, hg, Bool.not_true, Bool.false_or, decide_false, Bool.false_eq_true,
      if_false]

end Sys2Proof.Machine

/-! PROOFS. The chair boundary (spec/03, spec/11) -/

namespace Sys2Proof.Machine

/-! ### What the events of a boundary leave alone -/

/-- The sets, the lift clock, and SRAM: what swapping the active set leaves to the swap's own writes. -/
def SetSram (s t : State) : Prop := t.cfg = s.cfg ∧ t.lift = s.lift ∧ t.sram = s.sram

/-- The sets and the lift clock: what no event of a boundary but the swap writes. -/
def KeepsSet (s t : State) : Prop := t.cfg = s.cfg ∧ t.lift = s.lift

theorem SetSram.refl (s : State) : SetSram s s := ⟨rfl, rfl, rfl⟩

theorem SetSram.trans {s t u : State} (h : SetSram s t) (k : SetSram t u) : SetSram s u := by
  obtain ⟨hc, hl, hs⟩ := h
  obtain ⟨kc, kl, ks⟩ := k
  exact ⟨kc.trans hc, kl.trans hl, ks.trans hs⟩

theorem SetSram.records {s t u : State} (h : Records t u) (k : SetSram s t) : SetSram s u := by
  obtain ⟨_, _, _, _, _, rfl⟩ := h
  exact k

theorem SetSram.sends {s t u : State} (h : Sends t u) (k : SetSram s t) : SetSram s u := .records h.records k

theorem SetSram.leavesWork {s t u : State} (h : LeavesWork t u) (k : SetSram s t) : SetSram s u :=
  k.trans ⟨(congrArg State.cfg h).symm, (congrArg State.lift h).symm, (congrArg State.sram h).symm⟩

theorem SetSram.ite {s t u : State} {c : Prop} [Decidable c] (h : SetSram s t) (k : SetSram s u) : SetSram s (if c then t else u) := by
  split
  · exact h
  · exact k

theorem foldl_setSram {α : Type} {s : State} {f : State → α → State} (h : ∀ t a, SetSram s t → SetSram s (f t a)) {l : List α} {t : State}
    (k : SetSram s t) : SetSram s (l.foldl f t) := by
  induction l generalizing t with
  | nil => exact k
  | cons a l ih => exact ih (h t a k)

theorem KeepsSet.trans {s t u : State} (h : KeepsSet s t) (k : KeepsSet t u) : KeepsSet s u := ⟨k.1.trans h.1, k.2.trans h.2⟩

theorem KeepsSet.records {s t u : State} (h : Records t u) (k : KeepsSet s t) : KeepsSet s u := by
  obtain ⟨_, _, _, _, _, rfl⟩ := h
  exact k

theorem KeepsSet.sends {s t u : State} (h : Sends t u) (k : KeepsSet s t) : KeepsSet s u := .records h.records k

theorem KeepsSet.leavesWork {s t u : State} (h : LeavesWork t u) (k : KeepsSet s t) : KeepsSet s u :=
  k.trans ⟨(congrArg State.cfg h).symm, (congrArg State.lift h).symm⟩

theorem KeepsSet.ite {s t u : State} {c : Prop} [Decidable c] (h : KeepsSet s t) (k : KeepsSet s u) : KeepsSet s (if c then t else u) := by
  split
  · exact h
  · exact k

theorem foldl_keepsSet {α : Type} {s : State} {f : State → α → State} (h : ∀ t a, KeepsSet s t → KeepsSet s (f t a)) {l : List α} {t : State}
    (k : KeepsSet s t) : KeepsSet s (l.foldl f t) := by
  induction l generalizing t with
  | nil => exact k
  | cons a l ih => exact ih (h t a k)

section
variable {s t : State}

theorem mapSlice_setSram {id f} (k : SetSram s t) : SetSram s (mapSlice id f t) := k
theorem mapContext_setSram {slice f} (k : SetSram s t) : SetSram s (mapContext slice f t) := k
theorem setTallyAt_setSram {k0 t0} (k : SetSram s t) : SetSram s (setTallyAt k0 t0 t) := k
theorem claimTallies_setSram {slice u slot} (k : SetSram s t) : SetSram s (claimTallies slice u slot t) :=
  foldl_setSram (fun _ _ k' => (by split; exacts [setTallyAt_setSram k', k'])) k

theorem noteResidue_setSram {old slice} (k : SetSram s t) : SetSram s (noteResidue old slice t) := by
  unfold noteResidue
  dsimp only
  split
  · exact k
  · exact .records (writeRecord_records _ _) k

theorem removeContext_setSram {old slice} (k : SetSram s t) : SetSram s (removeContext old slice t) := noteResidue_setSram k

theorem settleContext_setSram {old slice} (k : SetSram s t) : SetSram s (settleContext old t slice) := by
  unfold settleContext
  split
  · exact .ite (removeContext_setSram k) k
  · dsimp only
    refine .ite ?_ ?_
    · refine mapContext_setSram ?_
      split
      · exact .ite (foldl_setSram (fun _ _ k' => (claimTallies_setSram k')) k) k
      · exact k
    · exact by split; exacts [.ite (foldl_setSram (fun _ _ k' => (claimTallies_setSram k')) k) k, k]

theorem swapResurf_setSram {old gone slice} (k : SetSram s t) : SetSram s (swapResurf old gone t slice) := .ite k (mapSlice_setSram k)

theorem sendJoins_setSram {old slices} (k : SetSram s t) : SetSram s (sendJoins old slices t) := by
  unfold sendJoins
  refine .ite ?_ ?_
  · exact k
  · exact foldl_setSram (fun _ _ k' => (by split; exacts [.sends (emitD2d_sends _ _ _) k', k'])) k

theorem swapSlices_setSram {old} (k : SetSram s t) : SetSram s (swapSlices old t) :=
  sendJoins_setSram (foldl_setSram (fun _ _ k' => (swapResurf_setSram k')) (foldl_setSram (fun _ _ k' => (swapResurf_setSram k'))
    (foldl_setSram (fun _ _ k' => (settleContext_setSram k')) k)))
theorem applyRts_setSram (k : SetSram s t) : SetSram s (applyRts t) := k

theorem mapSlice_keepsSet {id f} (k : KeepsSet s t) : KeepsSet s (mapSlice id f t) := k
theorem mapUnit_keepsSet {u slice f} (k : KeepsSet s t) : KeepsSet s (mapUnit u slice f t) := k
theorem askUnits_keepsSet {us} (k : KeepsSet s t) : KeepsSet s (askUnits us t) := k
theorem setEnginePort_keepsSet {p x} (k : KeepsSet s t) : KeepsSet s (setEnginePort p x t) := k
theorem mapPower_keepsSet {f} (k : KeepsSet s t) : KeepsSet s (mapPower f t) := k
theorem presentLevel_keepsSet {level n} (k : KeepsSet s t) : KeepsSet s (presentLevel level t n) :=
  .ite k (.sends (emit_sends _ _) (setEnginePort_keepsSet k))
theorem setLevel_keepsSet {level} (k : KeepsSet s t) : KeepsSet s (setLevel level t) :=
  foldl_keepsSet (fun _ _ k' => (presentLevel_keepsSet k')) (mapPower_keepsSet k)
theorem setVoltage_keepsSet {mv} (k : KeepsSet s t) : KeepsSet s (setVoltage mv t) :=
  .ite k (.sends (emit_sends _ _) (mapPower_keepsSet k))

theorem endTrip_keepsSet (k : KeepsSet s t) : KeepsSet s (endTrip t) := by
  unfold endTrip
  split
  · exact .ite (setVoltage_keepsSet (mapPower_keepsSet k)) k
  · exact k

theorem switchSchuss_keepsSet (k : KeepsSet s t) : KeepsSet s (switchSchuss t) :=
  .ite (mapPower_keepsSet k) (.ite (mapPower_keepsSet k) (setVoltage_keepsSet (mapPower_keepsSet k)))
theorem powerBoundary_keepsSet (k : KeepsSet s t) : KeepsSet s (powerBoundary t) :=
  mapPower_keepsSet (setLevel_keepsSet (switchSchuss_keepsSet (endTrip_keepsSet k)))
theorem zeroCluster_keepsSet {c} (k : KeepsSet s t) : KeepsSet s (zeroCluster c t) := k
theorem setCluster_keepsSet {c off gated retention} (k : KeepsSet s t) : KeepsSet s (setCluster c off gated retention t) :=
  mapPower_keepsSet (.ite (zeroCluster_keepsSet k) k)
theorem placeCluster_keepsSet {c} (k : KeepsSet s t) : KeepsSet s (placeCluster t c) :=
  .ite (setCluster_keepsSet k) (.ite (setCluster_keepsSet k) (setCluster_keepsSet k))
theorem enterDeep_keepsSet (k : KeepsSet s t) : KeepsSet s (enterDeep t) := mapPower_keepsSet k
theorem domainBoundary_keepsSet (k : KeepsSet s t) : KeepsSet s (domainBoundary t) :=
  .ite k (.ite (enterDeep_keepsSet (mapPower_keepsSet (foldl_keepsSet (fun _ _ k' => (placeCluster_keepsSet k')) k)))
    (mapPower_keepsSet (foldl_keepsSet (fun _ _ k' => (placeCluster_keepsSet k')) k)))
theorem turnHalves_keepsSet (k : KeepsSet s t) : KeepsSet s (turnHalves t) := k
theorem shareCount_keepsSet (k : KeepsSet s t) : KeepsSet s (shareCount t) := .ite (.sends (emitD2d_sends _ _ _) k) k

theorem allocate_keepsSet {u} (k : KeepsSet s t) : KeepsSet s (allocate u t) := by
  unfold allocate
  split
  · exact k
  · exact mapUnit_keepsSet k

theorem stopCurrent_keepsSet {u} (k : KeepsSet s t) : KeepsSet s (stopCurrent u t) := by
  unfold stopCurrent
  split
  · exact .ite k (mapUnit_keepsSet (askUnits_keepsSet k))
  · exact k

theorem markSlot_keepsSet {u} (k : KeepsSet s t) : KeepsSet s (markSlot u t) := k
theorem allocateChair_keepsSet (k : KeepsSet s t) : KeepsSet s (allocateChair t) :=
  foldl_keepsSet (fun _ _ k' => (.ite (stopCurrent_keepsSet k') (allocate_keepsSet (markSlot_keepsSet k')))) k
theorem freshKey_keepsSet {slot} (k : KeepsSet s t) : KeepsSet s (freshKey t slot) := .ite (.sends (emit_sends _ _) k) k

theorem eraseSlice_keepsSet {x} (k : KeepsSet s t) : KeepsSet s (eraseSlice t x) := by
  unfold eraseSlice
  split
  · exact k
  · exact .ite k (foldl_keepsSet (fun _ _ k' => (freshKey_keepsSet k')) k)

theorem clearTraces_keepsSet {slice} (k : KeepsSet s t) : KeepsSet s (clearTraces slice t) := k

theorem endResurf_keepsSet {x} (k : KeepsSet s t) : KeepsSet s (endResurf t x) := by
  unfold endResurf
  split
  · exact k
  · refine .ite ?_ ?_
    · exact k
    · dsimp only
      split
      · exact .leavesWork (finishOk_leavesWork (.refl _)) (.ite (foldl_keepsSet (fun _ _ k' => (.sends (reportQueue_sends _ _ _) k'))
          (.ite k (mapSlice_keepsSet (clearTraces_keepsSet k)))) (.ite k (mapSlice_keepsSet (clearTraces_keepsSet k))))
      · exact .ite (foldl_keepsSet (fun _ _ k' => (.sends (reportQueue_sends _ _ _) k')) (.ite k (mapSlice_keepsSet (clearTraces_keepsSet k))))
          (.ite k (mapSlice_keepsSet (clearTraces_keepsSet k)))

theorem retireCluster_keepsSet {c} (k : KeepsSet s t) : KeepsSet s (retireCluster c t) :=
  .ite k (.records (raiseSource_records _ _) (.records (writeRecord_records _ _) k))
theorem retireArray_keepsSet {a} (k : KeepsSet s t) : KeepsSet s (retireArray t a) :=
  .ite k (.ite (retireCluster_keepsSet (.records (raiseSource_records _ _) (.records (writeRecord_records _ _) k)))
    (.records (raiseSource_records _ _) (.records (writeRecord_records _ _) k)))
theorem mirrorLedgers_keepsSet (k : KeepsSet s t) : KeepsSet s (mirrorLedgers t) :=
  .ite k (foldl_keepsSet (fun _ _ k' => (.leavesWork (sendImage_leavesWork (.refl _)) k')) k)
theorem heartbeat_keepsSet (k : KeepsSet s t) : KeepsSet s (heartbeat t) := .ite (.sends (emit_sends _ _) k) k
theorem reportShown_keepsSet {old} (k : KeepsSet s t) : KeepsSet s (reportShown old t) :=
  foldl_keepsSet (fun _ _ k' => (.ite (.sends (reportQueue_sends _ _ _) k') k')) k

end

/-! ### The chair boundary (R33, R96, R365 to R367) -/

/-- The sets once a commit with go has been made: its set is active, the set before it is the shadow and the rollback set. -/
def sweptSets (s : State) (k : Commit) : Cfg :=
  { active := nextActive s k, shadow := s.cfg.active, rollback := some s.cfg.active, edited := false, commit := none }

/-- A commit with go writes the sets, and neither the lift clock nor SRAM. -/
theorem swapSet_of_go {s : State} {k : Commit} (hk : s.cfg.commit = some k) (go : k.go = some true) :
    SetSram { s with cfg := sweptSets s k } (swapSet s) := by
  simp only [swapSet, hk, go, ne_eq, not_true_eq_false, if_false]
  have swapped := applyRts_setSram (swapSlices_setSram (old := s) (.refl { s with cfg := sweptSets s k }))
  split
  · exact .leavesWork (finishOk_leavesWork (.refl _)) (.ite (.sends (emit_sends _ _) swapped) swapped)
  · exact .ite (.sends (emit_sends _ _) swapped) swapped

theorem swapSet_of_no_go {s : State} (h : ∀ k, s.cfg.commit = some k → k.go ≠ some true) : swapSet s = s := by
  unfold swapSet
  split
  · rfl
  · exact if_pos (h _ ‹_›)

theorem swapSet_lift (s : State) : (swapSet s).lift = s.lift := by
  by_cases h : ∀ k, s.cfg.commit = some k → k.go ≠ some true
  · rw [swapSet_of_no_go h]
  · simp only [not_forall, not_not] at h
    obtain ⟨k, hk, go⟩ := h
    exact (swapSet_of_go hk go).2.1

/-- The resurfacings of the chair that ends have ended, when the set is swapped. -/
def beforeSwap (s : State) : State :=
  (s.slices.map (pushHistory s)).foldl endResurf { s with slices := s.slices.map (pushHistory s) }

theorem beforeSwap_keepsSet (s : State) : KeepsSet s (beforeSwap s) := foldl_keepsSet (fun _ _ k => endResurf_keepsSet k) ⟨rfl, rfl⟩

/-- The events after the swap write neither the sets nor the lift clock. -/
theorem chairEvents_keepsSet (s : State) : KeepsSet (swapSet (beforeSwap s)) (chairEvents s) := by
  have erased : KeepsSet (swapSet (beforeSwap s)) ((swapSet (beforeSwap s)).slices.foldl eraseSlice (swapSet (beforeSwap s))) :=
    foldl_keepsSet (fun _ _ k => eraseSlice_keepsSet k) ⟨rfl, rfl⟩
  refine shareCount_keepsSet (heartbeat_keepsSet (mirrorLedgers_keepsSet (turnHalves_keepsSet (allocateChair_keepsSet (domainBoundary_keepsSet
    (powerBoundary_keepsSet (reportShown_keepsSet ?_)))))))
  exact foldl_keepsSet (f := retireArray) (fun _ _ k => retireArray_keepsSet k) erased

theorem execChairBoundary_of_done {s : State} (h : s.lift.chairDone = true) : exec .chairBoundary s = .next s := if_pos h

/-- Settles O36: of the events of a boundary only the swap writes the sets, and none the mark that the boundary has been. -/
theorem chairBoundarySwapsOnce : Obligations.ChairBoundarySwapsOnce := by
  refine ⟨fun s k hk go => ?_, fun s => ⟨fun done => ?_, fun due => ?_⟩⟩
  · obtain ⟨hc, hl, hs⟩ := swapSet_of_go hk go
    dsimp only
    rw [hc]
    exact ⟨rfl, rfl, rfl, rfl, rfl, hs, hl⟩
  · exact execChairBoundary_of_done done
  · obtain ⟨bc, bl⟩ := beforeSwap_keepsSet (mapLift (fun l => { l with chairDone := true }) s)
    obtain ⟨ec, el⟩ := chairEvents_keepsSet (mapLift (fun l => { l with chairDone := true }) s)
    have lift := (el.trans (swapSet_lift _)).trans bl
    have done : (chairEvents (mapLift (fun l => { l with chairDone := true }) s)).lift.chairDone = true := congrArg Lift.chairDone lift
    have count := congrArg Lift.count lift
    refine ⟨chairEvents (mapLift (fun l => { l with chairDone := true }) s), if_neg (by simp [due]), done, count, execChairBoundary_of_done done,
      fun k hk go => ?_, fun h => ?_⟩
    · obtain ⟨hc, -⟩ := swapSet_of_go (k := k) ((congrArg Cfg.commit bc).trans hk) go
      rw [ec, hc]
      exact ⟨congrArg (fun c : Cfg => c.active.serial + 1) bc, rfl⟩
    · rw [ec, swapSet_of_no_go (fun k hk => h k ((congrArg Cfg.commit bc).symm.trans hk)), bc]
      rfl

end Sys2Proof.Machine

/-! PROOFS. Walks and table syncs (spec/08) -/

namespace Sys2Proof.Machine

/-! ### Walks that return (R282 to R291) -/

/-- The state in which a walk has ended. -/
def walkEnded (w : Walk) (s : State) : State :=
  stepFree { s with xlat := { s.xlat with walks := s.xlat.walks.filter (fun v => decide (v ≠ w)) } }

section
variable {s : State} {slice seg page : Nat} {sl : Slice} {w : Walk}

theorem exec_translationWalkReturn (hsl : findSlice s slice = some sl)
    (hw : s.xlat.walks.find? (fun w => w.slice == slice && w.segment == seg && w.page == page) = some w) (err : Bool) :
    exec (.translationWalkReturn slice seg { page := page, err := err }) s =
      if w.gen ≠ sl.gen then .next (walkEnded w s) else .next (endWalk sl w err (walkEnded w s)) := by
  change execTranslationWalkReturn slice seg _ s = _
  simp only [execTranslationWalkReturn, hsl, hw]
  rfl

theorem endWalk_of_page {err : Bool} {u : PageUse} (h : walkFinds s sl w err = .ok u) :
    endWalk sl w err s = if w.demand.isEmpty && !pageGrants w.kind u then s else
      fillPage sl.id w.segment w.page (segmentAt sl.inForce w.segment).psize w.gen (w.place :: w.demand.map (fun d => XPlace.buffer d.unit d.eng)) u s := by
  simp only [endWalk, h]

theorem endWalk_of_fault_of_prefetch {err : Bool} {c : Nat} (h : walkFinds s sl w err = .error c) (hd : w.demand = []) : endWalk sl w err s = s := by
  simp only [endWalk, h, hd]

theorem endWalk_of_fault {err : Bool} {c : Nat} {d : Demand} {ds : List Demand} (h : walkFinds s sl w err = .error c) (hd : w.demand = d :: ds) :
    endWalk sl w err s = if c = 0x102 then stallEngines sl.id w.segment w.page (w.demand.map demandEngine) d.record s
      else w.demand.foldl (demandFault sl.id c) s := by
  simp only [endWalk, h, hd]

end

/-! ### The steps of `SYNC_TABLES` (R298 to R302) -/

theorem findSlice_switchBank_self {s : State} {slice gen : Nat} {sl : Slice} {y : Sync} (h : findSlice s slice = some sl) (hy : sl.sync = some y) :
    findSlice (switchBank slice gen s) slice = some { sl with
      inForce := sl.staged, gen := gen, era := sl.era + 1, sync := some { y with switched := true } } := by
  have k := findSlice_mapSlice_self (f := fun x => { x with
    inForce := x.staged, gen := gen, era := x.era + 1, sync := x.sync.map (fun y => { y with switched := true }) }) (fun _ => rfl) h
  rw [hy] at k
  exact k

/-- An acknowledgement that counts (R300, R301): the last one fixes the switch. -/
theorem takeSyncAck_of_waiting {s : State} {slice block : Nat} {sl : Slice} {y : Sync} (hsl : findSlice s slice = some sl) (hy : sl.sync = some y)
    (lead : s.boot.isLead = true) (unfixed : y.switchTick = none) (new : block ∉ y.acks) (mine : block ∈ syncBlocks s slice)
    (inTime : now s ≤ y.since + 256) :
    takeSyncAck slice block s = if ∀ b ∈ syncBlocks s slice, b ∈ y.acks ∨ b = block then
        emitD2d (sliceBlocks s slice) (.mgmt (.syncSwitch slice y.gen (now s + 16)))
          (mapSync slice (fun y' => { y' with acks := y.acks ++ [block], switchTick := some (now s + 16) }) s)
      else mapSync slice (fun y' => { y' with acks := y.acks ++ [block] }) s := by
  simp [takeSyncAck, hsl, hy, lead, unfixed, new, mine, Nat.not_lt.2 inTime]

/-- Settles O42. -/
theorem translationEvents : Obligations.TranslationEvents := by
  refine ⟨fun s slice seg page err sl w hsl hw => ?_, fun s slice gen block sl hsl => ?_⟩
  · have out := exec_translationWalkReturn hsl hw err
    have same : w.gen = sl.gen → exec (.translationWalkReturn slice seg { page := page, err := err }) s = .next (endWalk sl w err (walkEnded w s)) :=
      fun hg => out.trans (if_neg (not_not_intro hg))
    refine ⟨fun he => by rw [he]; rfl, fun u hg hu use => ?_, fun u hg hu hd hk => ?_, fun c hg hc hd => ?_, fun c hg hc hd hne => ?_,
      fun d ds hg hc hd => ?_, fun hg => out.trans (if_pos hg)⟩
    · refine (same hg).trans (congrArg _ ((endWalk_of_page (s := walkEnded w s) hu).trans (if_neg ?_)))
      rcases use with use | use <;> simp [use]
    · exact (same hg).trans (congrArg _ ((endWalk_of_page (s := walkEnded w s) hu).trans (if_pos (by simp [hd, hk]))))
    · exact (same hg).trans (congrArg _ (endWalk_of_fault_of_prefetch (s := walkEnded w s) hc hd))
    · obtain ⟨d, ds, hd⟩ := List.exists_cons_of_ne_nil hd
      exact (same hg).trans (congrArg _ ((endWalk_of_fault (s := walkEnded w s) hc hd).trans (if_neg hne)))
    · exact (same hg).trans (congrArg _ ((endWalk_of_fault (s := walkEnded w s) hc hd).trans (if_pos rfl)))
  · refine ⟨fun member => ?_, fun y lead hy => ?_, fun y hy lead unfixed new mine inTime => ⟨fun more => ?_, fun all => ?_⟩,
      fun y c hy lead unfixed late hc => ?_, fun y t hy ht before => ⟨fun early => ?_, fun due => ?_⟩, fun y hy switched mine => ⟨fun lead drained => ?_,
      fun member here drained => ?_, fun here busy => ?_⟩⟩
    · change execSyncPrepare slice gen s = _
      simp [execSyncPrepare, prepareSync, member]
    · change execSyncPrepare slice gen s = if y.gen = gen then execSyncAck slice s.boot.blkId s else _
      by_cases h : y.gen = gen <;> simp [execSyncPrepare, execSyncAck, prepareSync, lead, hsl, hy, h]
    · obtain ⟨b, hb, hn, hne⟩ := more
      exact congrArg _ ((takeSyncAck_of_waiting hsl hy lead unfixed new mine inTime).trans (if_neg fun all => (all b hb).elim hn hne))
    · exact congrArg _ ((takeSyncAck_of_waiting hsl hy lead unfixed new mine inTime).trans (if_pos all))
    · change execSyncAckTimeout slice s = _
      simp [execSyncAckTimeout, hsl, hy, lead, unfixed, Nat.not_le.2 late, hc, stTimedOut]
    · change execSyncSwitch slice s = _
      simp [execSyncSwitch, hsl, hy, ht, early]
    · refine ⟨switchBank slice y.gen s, ?_, findSlice_switchBank_self hsl hy, fun i hi => findSlice_mapSlice_ne (fun _ => rfl) hi,
        fun e he hs => ?_, fun e he hs => List.mem_filter.2 ⟨he, by simp [hs]⟩, rfl⟩
      · change execSyncSwitch slice s = _
        simp [execSyncSwitch, hsl, hy, ht, before, Nat.not_lt.2 due]
      · simpa [hs] using (List.mem_filter.1 he).2
    · change execSyncDrainDone slice block s = _
      have free : (block == s.boot.blkId && eraBusy s slice) = false := by
        by_cases h : block = s.boot.blkId <;> simp [h, drained]
      simp [execSyncDrainDone, hsl, hy, switched, free, mine, lead]
    · change execSyncDrainDone slice block s = _
      subst here
      simp [execSyncDrainDone, hsl, hy, switched, drained, mine, member]
    · change execSyncDrainDone slice block s = _
      simp [execSyncDrainDone, hsl, hy, switched, here, busy]

end Sys2Proof.Machine

/-! PROOFS. The lift clock (spec/03) -/

namespace Sys2Proof.Machine

/-! ### One tick (R89, R94, R96, R81, R82, R373) -/

theorem endTick_of_no_dumps {s : State} (h : s.tick.dumps = []) : endTick s = { s with tick := {} } := by
  simp [endTick, takeDumps, h]

theorem countLanes_only (s : State) : ∃ f n, countLanes s = { s with fab := f, free := n } := by
  unfold countLanes
  generalize s.fab.lanes = ls
  induction ls generalizing s with
  | nil => exact ⟨_, _, rfl⟩
  | cons e ls ih =>
    rw [List.foldl_cons]
    split
    · obtain ⟨f, n, h⟩ := ih (setLane e.1 (countLane (groupAt s (e.1 / 6)).rate s.lift.tickNs (Config.laneErrors s.free) e.2) { s with free := s.free + 1 })
      exact ⟨f, n, h⟩
    · exact ih s

theorem countLanes_of_no_lock {s : State} (h : ∀ e ∈ s.fab.lanes, e.2.lock = false) : countLanes s = s := by
  unfold countLanes
  generalize s.fab.lanes = ls at h
  induction ls with
  | nil => rfl
  | cons e ls ih =>
    rw [List.foldl_cons, h e List.mem_cons_self]
    exact ih fun e he => h e (List.mem_cons_of_mem _ he)

theorem dueLogSwaps_only (s : State) : ∃ x, dueLogSwaps s = { s with slices := x } := by
  unfold dueLogSwaps
  generalize s.slices = xs
  induction xs generalizing s with
  | nil => exact ⟨s.slices, rfl⟩
  | cons x xs ih =>
    rw [List.foldl_cons]
    split
    · next w _ =>
      split
      · obtain ⟨y, h⟩ := ih (swapLog x.id w.segment w.stop s)
        exact ⟨y, h⟩
      · exact ih s
    · exact ih s

theorem dueLogSwaps_of_none {s : State} (h : ∀ x ∈ s.slices, x.logSwap = none) : dueLogSwaps s = s := by
  unfold dueLogSwaps
  generalize s.slices = xs at h
  induction xs with
  | nil => rfl
  | cons x xs ih =>
    rw [List.foldl_cons, h x List.mem_cons_self]
    exact ih fun x hx => h x (List.mem_cons_of_mem _ hx)

theorem turnAt_of_whole_chair {s : State} {x : UnitCtx} (aside : x.aside = none) (whole : ∀ c, x.unit = .cluster c → halfCluster s x.slice c = false) :
    turnAt s x = x := by
  cases h : x.unit with
  | cluster c => simp [turnAt, turnDue, h, whole c h, aside]
  | port p => simp [turnAt, turnDue, h]

theorem turnHalves_of_whole_chairs {s : State} (h : ∀ x ∈ s.units, x.aside = none ∧ ∀ c, x.unit = .cluster c → halfCluster s x.slice c = false) :
    turnHalves s = s := by
  have units : s.units.map (turnAt s) = s.units :=
    (List.map_congr_left fun x hx => turnAt_of_whole_chair (h x hx).1 (h x hx).2).trans (List.map_id _)
  rw [turnHalves, units]

/-- The tick's own writes: its log is over, the count rises, and the queues' timers count. -/
def ticked (s : State) : State :=
  { s with tick := {}, lift := countedTick s.lift, queues := s.queues.map (tickQueue s) }

/-- What a tick may write besides: links and what they send, log swaps that are due, and units that turn. -/
theorem tickOnce_of_no_dumps {s : State} (h : s.tick.dumps = []) : ∃ f n o x u, tickOnce s =
    { ticked s with fab := f, free := n, sent := o, slices := x, units := u } := by
  obtain ⟨f, n, hl⟩ := countLanes_only { s with tick := {} }
  simp only [tickOnce, endTick_of_no_dumps h, hl]
  obtain ⟨x, hx⟩ := dueLogSwaps_only { mapLift countedTick { s with tick := {}, fab := f, free := n } with queues := s.queues.map (tickQueue s) }
  have due : dueLogSwaps { mapLift countedTick { s with tick := {}, fab := f, free := n } with
      queues := ({ s with tick := {} } : State).queues.map (tickQueue { s with tick := {} }) } = _ := hx
  rw [due]
  split
  · exact ⟨_, _, _, _, _, rfl⟩
  · obtain ⟨f', o, n', hf⟩ := flushOutbox_sends (turnHalves { mapLift countedTick { s with tick := {}, fab := f, free := n } with
      queues := s.queues.map (tickQueue s), slices := x })
    exact ⟨f', n', o, _, _, hf⟩

theorem tickOnce_of_quiet {s : State} (dumps : s.tick.dumps = []) (swaps : ∀ x ∈ s.slices, x.logSwap = none)
    (whole : ∀ x ∈ s.units, x.aside = none ∧ ∀ c, x.unit = .cluster c → halfCluster s x.slice c = false)
    (locks : ∀ e ∈ s.fab.lanes, e.2.lock = false) (outbox : s.fab.outbox = []) : tickOnce s = ticked s := by
  have lanes : countLanes { s with tick := {} } = { s with tick := {} } := countLanes_of_no_lock locks
  have due : dueLogSwaps (ticked s) = ticked s := dueLogSwaps_of_none swaps
  have turn : turnHalves (ticked s) = ticked s := turnHalves_of_whole_chairs whole
  have quiet : (ticked s).fab.outbox.isEmpty = true := by simp [ticked, outbox]
  have tick : tickOnce s = if (turnHalves (dueLogSwaps (ticked s))).fab.outbox.isEmpty then turnHalves (dueLogSwaps (ticked s))
      else flushOutbox (turnHalves (dueLogSwaps (ticked s))) := by
    simp only [tickOnce, endTick_of_no_dumps dumps, lanes]
    rfl
  rw [tick, due, turn, if_pos quiet]

theorem countedTick_count (l : Lift) : (countedTick l).count = l.count + 1 ∧ (countedTick l).sincePacket = l.sincePacket + 1 := by
  unfold countedTick
  dsimp only
  split <;> exact ⟨rfl, rfl⟩

theorem countedTick_slew (l : Lift) : (countedTick l).slewNs = (slewed l).slewNs ∧ (countedTick l).tickNs = (slewed l).tickNs := by
  unfold countedTick
  dsimp only
  split <;> exact ⟨rfl, rfl⟩

theorem countedTick_chairDone (l : Lift) :
    (countedTick l).chairDone = (l.chairDone && decide ((l.count.toNat + 1) % 16384 ≠ 0)) := by
  unfold countedTick
  dsimp only
  split
  · next h => simp [show (l.count.toNat + 1) % 16384 = 0 from h]
  · next h => simp [show ¬(l.count.toNat + 1) % 16384 = 0 from h, slewed]

theorem slewed_slewNs (l : Lift) : (slewed l).slewNs.natAbs = l.slewNs.natAbs - 1 := by
  simp only [slewed]
  split
  · omega
  · split <;> omega

theorem findQueue_map {s t : State} {f : Queue → Queue} (h : t.queues = s.queues.map f) (key : ∀ x, (f x).slice = x.slice ∧ (f x).id = x.id)
    (slice q : Nat) : findQueue t slice q = (findQueue s slice q).map f := by
  have same : ((fun x : Queue => x.slice == slice && x.id == q) ∘ f) = fun x => x.slice == slice && x.id == q := by
    funext x
    simp [key x]
  rw [findQueue, h, List.find?_map, same, findQueue]

/-- A queue's timer counts the tick while its head descriptor has started on a resident context. -/
theorem tickQueue_eq (s : State) (x : Queue) : tickQueue s x = { x with
    timer := if x.owner = s.boot.blkId ∧ queueOpen x = true ∧ ((x.descs.find? (fun d => decide (d.phase ≠ .done))).map Desc.timed) = some true ∧
      ((findContext s x.slice).any (fun c => c.resident && decide (c.enteredChair ≤ chairOf s))) = true then x.timer + 1 else x.timer
    timeout := x.newTimeout.getD x.timeout, newTimeout := none } := by
  have timed : ∀ o : Option Bool, o.getD false = true ↔ o = some true := by simp [Option.getD_eq_iff]
  have resident : ∀ (o : Option Context) (p : Context → Bool), (o.map p).getD false = o.any p := fun o p => by cases o <;> rfl
  simp only [tickQueue, Bool.and_eq_true, beq_iff_eq, and_assoc, timed, resident]

/-! ### `LIFT` packets (R90 to R95) -/

theorem errorField_toInt (e : Int) : (errorField e).toInt = max (-128) (min 127 e) := by
  rw [errorField, BitVec.toInt_ofInt, Int.bmod_eq_of_le] <;> omega

/-- The lift clock with a correction of `err` ticks begun (R94, R95). -/
def correcting (err : Int) (l : Lift) : Lift :=
  { l with
    error := errorField err, slewNs := err * 64, holdover := false, sincePacket := 0, adrift := l.adrift && decide (64 < err.natAbs) }

/-- A correction of at most 1,024 ticks writes the lift clock alone; a larger one is also recorded. -/
theorem takeLift_frame (count : Word64) (s : State) : ∃ f o n, takeLift count s =
    if 1024 < (count - s.lift.count).toInt.natAbs then
      raiseSource 8 (writeRecord (plainRecord 0x70A 0 0) { s with
        lift := { correcting (count - s.lift.count).toInt s.lift with adrift := true }, fab := f, sent := o, free := n })
    else { s with lift := correcting (count - s.lift.count).toInt s.lift, fab := f, sent := o, free := n } := by
  obtain ⟨f, o, n, h⟩ := emitD2d_sends (otherBlocks s) (.mgmt (.slew (now s) ((count - s.lift.count).toInt * 64))) s
  refine ⟨f, o, n, ?_⟩
  simp only [takeLift, h]
  rfl

/-- What recording a correction and its interrupt writes. -/
theorem raise_record_count (n : Nat) (r : FaultRecord) (s : State) :
    Records s (raiseSource n (writeRecord r s)) ∧ (raiseSource n (writeRecord r s)).fq.count = nextCount s.fq.count :=
  ⟨(writeRecord_records r s).trans (raiseSource_records n _), by rw [raiseSource_fq, writeRecord_count]⟩

/-- Settles O34. -/
theorem liftClockCounts : Obligations.LiftClockCounts := by
  refine ⟨fun s => ⟨fun src => ?_, fun lead src => ?_, fun lead src phase down => ?_, fun dumps => ?_⟩, fun s g c len phase => ⟨fun lead up src => ?_,
    fun member elected src => ?_, fun lead up src => ?_, fun down => ?_, ?_, fun lead src held late => ?_⟩⟩
  · change execLiftTick s = _
    simp [execLiftTick, src]
  · change execLiftRefEdge s = _
    simp [execLiftRefEdge, lead, src]
  · change execLiftRefEdge s = _
    simp [execLiftRefEdge, lead, src, phase, down, mapLift]
  · obtain ⟨f, n, o, x, u, h⟩ := tickOnce_of_no_dumps dumps
    obtain ⟨count, since⟩ := countedTick_count s.lift
    obtain ⟨slew, tickNs⟩ := countedTick_slew s.lift
    dsimp only
    refine ⟨?_, ?_, ?_, ?_, ?_, fun slice q y hy => ?_, ?_, fun swaps whole locks outbox => ?_⟩
    · rw [h]
      exact (congrArg BitVec.toNat count).trans (by simp [BitVec.toNat_add]; rfl)
    · rw [h]; exact since
    · rw [h]; exact (congrArg Int.natAbs slew).trans (slewed_slewNs _)
    · rw [h]; exact tickNs
    · rw [h]; exact countedTick_chairDone _
    · have key : ∀ x, (tickQueue s x).slice = x.slice ∧ (tickQueue s x).id = x.id := fun _ => ⟨rfl, rfl⟩
      rw [h, findQueue_map rfl key, hy, Option.map_some, tickQueue_eq, (findQueue_key hy).1]
    · rw [h]; exact ⟨rfl, rfl, rfl, rfl, rfl, rfl⟩
    · rw [tickOnce_of_quiet dumps swaps whole locks outbox]
      rfl
  · obtain ⟨f, o, n, h⟩ := emitD2d_sends (otherBlocks s) (.mgmt (.liftCount (now (loadCount c.count s)))) (loadCount c.count s)
    refine ⟨shareCount (loadCount c.count s), ?_, ?_⟩
    · change execLiftPacket (.group g) c s = _
      simp [execLiftPacket, len, lead, up, src, Nat.not_lt.2 phase]
    · have share : shareCount (loadCount c.count s) = { loadCount c.count s with fab := f, sent := o, free := n } := (if_pos lead).trans h
      rw [share]
      exact ⟨rfl, rfl, rfl, rfl, rfl, rfl, rfl, rfl, rfl, rfl, rfl, rfl⟩
  · refine ⟨loadCount c.count s, ?_, rfl, rfl, rfl, rfl, rfl, rfl, rfl, rfl, rfl, rfl⟩
    change execLiftPacket .lead c s = _
    simp [execLiftPacket, takeLeadCount, len, member, elected, src, phase]
  · obtain ⟨f, o, n, h⟩ := takeLift_frame c.count s
    dsimp only
    refine ⟨takeLift c.count s, ?_, ?_⟩
    · change execLiftPacket (.group g) c s = _
      simp [execLiftPacket, len, lead, up, src, Nat.not_lt.2 phase]
    · have error := errorField_toInt (c.count - s.lift.count).toInt
      rw [h]
      split
      · next large =>
        obtain ⟨⟨_, _, _, _, _, frame⟩, count⟩ := raise_record_count 8 (plainRecord 0x70A 0 0) { s with
          lift := { correcting (c.count - s.lift.count).toInt s.lift with adrift := true }, fab := f, sent := o, free := n }
        refine ⟨?_, ?_, ?_, ?_, ?_, fun _ => ⟨?_, count⟩, fun small => absurd large (Nat.not_lt.2 small), ?_⟩ <;> rw [frame]
        · rfl
        · exact Int.mul_comm _ _
        · exact error
        · rfl
        · rfl
        · exact ⟨rfl, rfl, rfl, rfl, rfl, rfl, rfl⟩
      · next small => exact ⟨rfl, Int.mul_comm _ _, error, rfl, rfl, fun large => absurd large small, fun _ => rfl, rfl, rfl, rfl, rfl, rfl, rfl, rfl⟩
  · change execLiftPacket (.group g) c s = _
    simp [execLiftPacket, len, down]
  · change execLiftPacket .elsewhere c s = _
    simp [execLiftPacket, len]
  · change execLiftHoldover s = _
    simp [execLiftHoldover, lead, src, held, late, mapLift]

end Sys2Proof.Machine

/-! PROOFS. The sequencer (spec/06): branches, loops and scalar instructions -/

namespace Sys2Proof.Machine

/-! ### Where the sequencer goes on -/

theorem currentUnit_unit {s : State} {u : UnitId} {x : UnitCtx} (h : currentUnit s u = some x) : x.unit = u := by
  obtain ⟨slice, _, hx⟩ := Option.bind_eq_some_iff.1 h
  exact (findUnit_key hx).1

theorem goTo_of_lt {x : UnitCtx} {z : Seq} {t : Nat} (h : t < z.run.nwords) (s : State) : goTo x z t s = putSeq x { z with pc := t } s := if_pos h

/-! ### Control (R217 to R219) -/

section
variable {s : State} {u : UnitId} {x : UnitCtx} {z : Seq} {sl : Slice} {w : InsnWord} (h : AtWord s u x z sl w)
include h

theorem exec_br (op : opOf w = 0x01) : exec (.br u) s = .next (doBr x z sl w (fetchStep u sl z s)) := issueStep_at h (isOp_of op)
theorem exec_loop (op : opOf w = 0x02) : exec (.loop u) s = .next (doLoop x z sl w (fetchStep u sl z s)) := issueStep_at h (isOp_of op)
theorem exec_endloop (op : opOf w = 0x03) : exec (.endloop u) s = .next (doEndloop x z sl w (fetchStep u sl z s)) := issueStep_at h (isOp_of op)
theorem exec_halt (op : opOf w = 0x04) : exec (.halt u) s = .next (doHalt x z sl w (fetchStep u sl z s)) := issueStep_at h (isOp_of op)
theorem exec_add (op : opOf w = 0x10) : exec (.add u) s = .next (doAdd x z sl w (fetchStep u sl z s)) := issueStep_at h (isOp_of op)
theorem exec_shl (op : opOf w = 0x11) : exec (.shl u) s = .next (doShl x z sl w (fetchStep u sl z s)) := issueStep_at h (isOp_of op)
theorem exec_ldp (op : opOf w = 0x12) : exec (.ldp u) s = .next (doLdp x z sl w (fetchStep u sl z s)) := issueStep_at h (isOp_of op)
theorem exec_mov (op : opOf w = 0x13) : exec (.mov u) s = .next (doMov x z sl w (fetchStep u sl z s)) := issueStep_at h (isOp_of op)

end

theorem brTaken_eq (sub : Nat) (a b : Word64) : brTaken sub a b =
    if sub = 0 then true else if sub = 1 then decide (a = 0) else if sub = 2 then decide (a ≠ 0)
    else if sub = 3 then decide (a.toInt < b.toInt) else if sub = 4 then decide (b.toInt ≤ a.toInt) else decide (a.toNat < b.toNat) := by
  match sub with
  | 0 => rfl
  | 1 => simp [brTaken, beq_eq_decide]
  | 2 => simp [brTaken, bne, beq_eq_decide]
  | 3 => rfl
  | 4 => simp [brTaken, BitVec.slt, ← decide_not]
  | n + 5 => rfl

section
variable {s : State} {x : UnitCtx} {z : Seq} {sl : Slice} {w : InsnWord}

theorem doBr_of_taken (low : 0 ≤ (z.pc : Int) + imm32 w) (high : (z.pc : Int) + imm32 w < z.run.nwords)
    (taken : brTaken (subOf w) (sReg z (rd w)) (sReg z (ra w)) = true) : doBr x z sl w s =
      putSeq x { z with loops := closeLoops ((z.pc : Int) + imm32 w).toNat z.loops, pc := ((z.pc : Int) + imm32 w).toNat } s := by
  have inside : ¬((z.pc : Int) + imm32 w < 0 ∨ (z.run.nwords : Int) ≤ (z.pc : Int) + imm32 w) := by omega
  simp only [doBr, if_neg inside, if_pos taken]
  exact goTo_of_lt (by dsimp only; omega) s

theorem doBr_of_not_taken (low : 0 ≤ (z.pc : Int) + imm32 w) (high : (z.pc : Int) + imm32 w < z.run.nwords)
    (straight : brTaken (subOf w) (sReg z (rd w)) (sReg z (ra w)) = false) : doBr x z sl w s = goNext x z s := by
  have inside : ¬((z.pc : Int) + imm32 w < 0 ∨ (z.run.nwords : Int) ≤ (z.pc : Int) + imm32 w) := by omega
  simp [doBr, if_neg inside, straight]

/-- A `LOOP` whose target is a word of the program. -/
theorem doLoop_of_target {v : InsnWord} (low : 0 < imm32 w) (high : (z.pc : Int) + imm32 w < z.run.nwords)
    (hv : readWord s x.unit sl z.run ((z.pc : Int) + imm32 w).toNat = .ok v) : doLoop x z sl w s =
      if opOf v ≠ 0x03 then seqFault x z z.pc 0x304 0 0 s
      else if 4 ≤ z.loops.length then seqFault x z z.pc 0x305 0 0 s
      else if (sReg z (rd w)).toNat = 0 then goTo x z (((z.pc : Int) + imm32 w).toNat + 1) s
      else goNext x { setS (ra w) 0 z with
        loops := { start := z.pc, stop := ((z.pc : Int) + imm32 w).toNat, left := (sReg z (rd w)).toNat, index := ra w, pass := 0 } :: z.loops } s := by
  have inside : ¬(imm32 w ≤ 0 ∨ (z.run.nwords : Int) ≤ (z.pc : Int) + imm32 w) := by omega
  simp only [doLoop, if_neg inside, hv]

end

/-- Settles O17. -/
theorem branchesAndLoops : Obligations.BranchesAndLoops := by
  intro s u x z sl w word
  refine ⟨fun op => ⟨fun out => ?_, fun low high => ⟨fun taken => ?_, fun straight next => ?_⟩⟩,
    fun op => ⟨fun out => ?_, fun v low high hv => ?_⟩,
    fun op => ⟨fun empty => ?_, fun l ls loops => ⟨fun again next => ?_, fun last next => ?_⟩⟩, fun op => exec_halt word op⟩
  · exact (exec_br word op).trans (congrArg _ (if_pos out))
  · exact (exec_br word op).trans (congrArg _ (doBr_of_taken low high ((brTaken_eq _ _ _).trans taken)))
  · exact (exec_br word op).trans (congrArg _ ((doBr_of_not_taken low high ((brTaken_eq _ _ _).trans straight)).trans (goNext_at next)))
  · exact (exec_loop word op).trans (congrArg _ (if_pos out))
  · have loop := (exec_loop word op).trans (congrArg _ (doLoop_of_target low high (by rwa [currentUnit_unit word.unit])))
    refine ⟨fun other => ?_, fun endloop => ⟨fun deep => ?_, fun room zero next => ?_, fun room some next => ?_⟩⟩
    · rw [loop, if_pos other]
    · rw [loop, if_neg (not_not_intro endloop), if_pos deep]
    · rw [loop, if_neg (not_not_intro endloop), if_neg (Nat.not_le.2 room), if_pos (by rw [zero]; rfl), goTo_of_lt next]
    · have more : (sReg z (rd w)).toNat ≠ 0 := fun h => some (BitVec.eq_of_toNat_eq h)
      rw [loop, if_neg (not_not_intro endloop), if_neg (Nat.not_le.2 room), if_neg more]
      exact congrArg _ (goNext_at next)
  · refine (exec_endloop word op).trans (congrArg _ ?_)
    simp only [doEndloop, empty]
  · refine (exec_endloop word op).trans (congrArg _ ?_)
    simp only [doEndloop, loops, if_pos again]
    exact if_pos next
  · refine (exec_endloop word op).trans (congrArg _ ?_)
    simp only [doEndloop, loops, if_neg (Nat.not_lt.2 last)]
    exact goNext_at next

/-! ### Scalar instructions (R220, R221, R584) -/

theorem shiftBy_left (v : Word64) (n : Nat) : (shiftBy 0 v n).toNat = v.toNat * 2 ^ n % 2 ^ 64 := by
  simp only [shiftBy]
  split
  · next h =>
    obtain ⟨m, rfl⟩ := Nat.exists_eq_add_of_le h
    rw [Nat.pow_add, Nat.mul_left_comm, Nat.mul_mod_right]
    rfl
  · rw [BitVec.toNat_shiftLeft, Nat.shiftLeft_eq]

theorem shiftBy_right (v : Word64) (n : Nat) : (shiftBy 1 v n).toNat = v.toNat / 2 ^ n := by
  simp only [shiftBy]
  split
  · next h => exact (Nat.div_eq_of_lt (v.isLt.trans_le (Nat.pow_le_pow_right (by decide) h))).symm
  · rw [BitVec.toNat_ushiftRight, Nat.shiftRight_eq_div_pow]

/-- A number below `b` in magnitude is divided by it to 0 or, where it is negative, to -1. -/
theorem ediv_of_small {a b : Int} (low : -b ≤ a) (high : a < b) : a / b = if a < 0 then -1 else 0 := by
  split
  · next neg =>
    have pos : 0 < b := by omega
    have below : a / b < 0 := Int.ediv_neg_of_neg_of_pos neg pos
    have above : -1 ≤ a / b := Int.le_ediv_of_mul_le pos (by omega)
    omega
  · next nonneg => exact Int.ediv_eq_zero_of_lt (by omega) high

theorem shiftBy_sign (v : Word64) (n : Nat) : (shiftBy 2 v n).toInt = v.toInt / 2 ^ n := by
  simp only [shiftBy]
  rw [BitVec.toInt_sshiftRight, Int.shiftRight_eq_div_pow]
  rcases Nat.le_total n 63 with small | large
  · rw [Nat.min_eq_left small]
    norm_cast
  · have low : -2 ^ 63 ≤ v.toInt := BitVec.le_toInt v
    have high : v.toInt < 2 ^ 63 := BitVec.toInt_lt
    have grows : (2 : Int) ^ 63 ≤ 2 ^ n := pow_le_pow_right₀ (by decide) large
    rw [Nat.min_eq_right large, ediv_of_small (b := 2 ^ n) (by omega) (by omega)]
    exact ediv_of_small low high

theorem ldpDest_eq (w : InsnWord) (bs : List Byte) (z : Seq) : ldpDest w bs z =
    if subOf w = 0 then setS (rd w) (BitVec.ofNat 64 (leNat bs)) z
    else if subOf w = 1 then setA (rd w) (BitVec.ofNat 64 (leNat bs)) z else setT (rd w) (BitVec.ofNat 256 (leNat bs)) z := by
  unfold ldpDest
  split
  · next h => simp [h]
  · next h => simp [h]
  · next h h' => rw [if_neg h, if_neg h']

theorem ldpDest_frame (w : InsnWord) (bs : List Byte) (z : Seq) : (ldpDest w bs z).run = z.run ∧ (ldpDest w bs z).pc = z.pc := by
  unfold ldpDest
  split <;> exact ⟨rfl, rfl⟩

section
variable {s : State} {x : UnitCtx} {z : Seq} {sl : Slice} {w : InsnWord}

/-- The size of what an `LDP` reads (R220). -/
def ldpSize (w : InsnWord) : Nat := if subOf w = 2 then 32 else 8

/-- Where an `LDP` with `FLG[0]` reads in SRAM. -/
def ldpPlace (z : Seq) (w : InsnWord) : Nat := (sReg z (ra w) + BitVec.ofNat 64 (fld 31 0 w)).toNat

theorem doLdp_of_param (flg : flgOf w 0 = false) (mult : 4 * fld 31 0 w % ldpSize w = 0) (fits : 4 * fld 31 0 w + ldpSize w ≤ z.run.param.length) :
    doLdp x z sl w s = goNext x (ldpDest w ((z.run.param.drop (4 * fld 31 0 w)).take (ldpSize w)) z) s := by
  have inside : ¬(4 * fld 31 0 w % ldpSize w ≠ 0 ∨ z.run.param.length < 4 * fld 31 0 w + ldpSize w) := by omega
  rw [doLdp, if_neg (Bool.eq_false_iff.1 flg)]
  exact if_neg inside

theorem doLdp_of_no_param (flg : flgOf w 0 = false) (off : 4 * fld 31 0 w % ldpSize w ≠ 0 ∨ z.run.param.length < 4 * fld 31 0 w + ldpSize w) :
    doLdp x z sl w s = seqFault x z z.pc 0x306 0 0 s := by
  rw [doLdp, if_neg (Bool.eq_false_iff.1 flg)]
  exact if_pos off

theorem doLdp_of_fit (flg : flgOf w 0 = true) (mult : ldpPlace z w % ldpSize w = 0) (fits : ldpPlace z w + ldpSize w ≤ sramSize s x.slice x.unit) :
    doLdp x z sl w s = if (badWords s x.slice x.unit [(ldpPlace z w, ldpSize w)]).contains 2 then seqFault x z z.pc 0x501 0 0 s
      else goNext x (ldpDest w (sramRead s x.slice x.unit (ldpPlace z w) (ldpSize w)) z)
        (countFixes x.slice (badWords s x.slice x.unit [(ldpPlace z w, ldpSize w)]) s) := by
  rw [doLdp, if_pos flg]
  have inside : ¬(!sramFits s x.slice x.unit (ldpPlace z w) (ldpSize w)) = true := by simp [sramFits, fits]
  exact (if_neg (not_not_intro mult)).trans (if_neg inside)

theorem doLdp_of_sram (flg : flgOf w 0 = true) (mult : ldpPlace z w % ldpSize w = 0) (fits : ldpPlace z w + ldpSize w ≤ sramSize s x.slice x.unit)
    (sound : badWords s x.slice x.unit [(ldpPlace z w, ldpSize w)] = []) :
    doLdp x z sl w s = goNext x (ldpDest w (sramRead s x.slice x.unit (ldpPlace z w) (ldpSize w)) z) s := by
  rw [doLdp_of_fit flg mult fits, sound]
  rfl

theorem doLdp_of_bad_sram (flg : flgOf w 0 = true) (mult : ldpPlace z w % ldpSize w = 0) (fits : ldpPlace z w + ldpSize w ≤ sramSize s x.slice x.unit)
    (bad : 2 ∈ badWords s x.slice x.unit [(ldpPlace z w, ldpSize w)]) : doLdp x z sl w s = seqFault x z z.pc 0x501 0 0 s := by
  rw [doLdp_of_fit flg mult fits, if_pos (List.contains_iff_mem.2 bad)]

end

/-- Settles O16. -/
theorem scalarInstructions : Obligations.ScalarInstructions := by
  refine ⟨fun s u x z sl w word next => ⟨fun op => ?_, fun op => ?_, fun op => ?_⟩, fun s u x z sl w word op next => ?_⟩
  · exact (exec_add word op).trans (congrArg _ (goNext_at next))
  · have mov : ∀ {z'}, movRegs w z = z' → z'.run = z.run → z'.pc = z.pc →
        exec (.mov u) s = .next (putSeq x { z' with pc := z.pc + 1 } (fetchStep u sl z s)) := fun regs run pc => by
      rw [exec_mov word op, doMov, regs, goNext_at (by rwa [run, pc]), pc]
    refine ⟨fun sub => ?_, fun sub => ?_, fun sub => ?_, fun sub => ?_, fun sub => ?_, fun sub => ?_, fun sub => ?_⟩ <;>
      exact mov (by simp only [movRegs, sub]) rfl rfl
  · have put : ∀ (bs : List Byte), goNext x (ldpDest w bs z) (fetchStep u sl z s) = putSeq x {
        (if subOf w = 0 then setS (rd w) (BitVec.ofNat 64 (leNat bs)) z
          else if subOf w = 1 then setA (rd w) (BitVec.ofNat 64 (leNat bs)) z else setT (rd w) (BitVec.ofNat 256 (leNat bs)) z)
        with pc := z.pc + 1 } (fetchStep u sl z s) := fun bs => by
      obtain ⟨run, pc⟩ := ldpDest_frame w bs z
      rw [← ldpDest_eq, goNext_at (by rwa [run, pc]), pc]
    have out := exec_ldp word op
    refine ⟨fun flg mult fits => ?_, fun flg mult fits => ⟨fun sound => ?_, fun bad => ?_⟩, fun flg off => ?_⟩
    · exact out.trans (congrArg _ ((doLdp_of_param flg mult fits).trans (put _)))
    · exact out.trans (congrArg _ ((doLdp_of_sram flg mult fits sound).trans (put _)))
    · exact out.trans (congrArg _ (doLdp_of_bad_sram flg mult fits bad))
    · exact out.trans (congrArg _ (doLdp_of_no_param flg off))
  · refine ⟨_, (exec_shl word op).trans (congrArg _ (goNext_at next)), fun sub => ?_, fun sub => ?_, fun sub => ?_⟩
    · rw [sub]; exact shiftBy_left _ _
    · rw [sub]; exact shiftBy_right _ _
    · rw [sub]; exact shiftBy_sign _ _

end Sys2Proof.Machine

/-! PROOFS. Runs, engine queues and tally instructions (spec/06, spec/07) -/

namespace Sys2Proof.Machine

/-! ### Runs start and complete (R60, R106, R201, R205, R246) -/

/-- Settles O14. -/
theorem runsStartAndComplete : Obligations.RunsStartAndComplete := by
  refine ⟨fun s u slice x sl r hx hsl cur runs idle going whole pick rt param free range => ?_, fun s u slice run x r hx drains left => ⟨fun here plain => ?_,
    fun b away => ?_⟩⟩
  · change execRunStart u slice s = _
    have inRange : ¬(0 < r.tallyCount ∧ tallyCount (stepFree s) slice u < r.tallyFirst + r.tallyCount) := by omega
    have begin' : execRunStart u slice s = .next (mapContext slice (fun c => { c with lastDispatch := now s }) (mapUnit u slice (beginRun r r.param)
        (coreSigns r (mapSlice slice (fun y => { y with runs := y.runs.filter (fun z => z.id != r.id) }) (stepFree s))))) := by
      simp only [execRunStart, hx, hsl, cur, runs, idle, going, whole, pick, param, free, inRange, noteLate, rt, ne_eq, not_true, decide_false]
      rfl
    exact begin'
  · change execRunComplete u slice run s = _
    have done : x.insns.any (fun e => e.run == run) = false := by simpa using left
    simp only [execRunComplete, hx, drains, done, countRun, here, takeRunDone, plain]
    rfl
  · change execRunComplete u slice run s = _
    have done : x.insns.any (fun e => e.run == run) = false := by simpa using left
    simp only [execRunComplete, hx, drains, done, countRun, away]
    rfl

/-! ### Instructions of engines (R124, R125) -/

section
variable {s : State} {u : UnitId} {x : UnitCtx} {z : Seq} {sl : Slice} {w : InsnWord} {c : Instr} (h : AtWord s u x z sl w)
include h

theorem exec_of_queued (hc : (c, opOf w) ∈ queuedCommands u) : exec c s = .next (doIssue x z sl w (fetchStep u sl z s)) := by
  simp only [queuedCommands, List.mem_cons, Prod.mk.injEq, List.not_mem_nil, or_false] at hc
  rcases hc with ⟨rfl, op⟩ | ⟨rfl, op⟩ | ⟨rfl, op⟩ | ⟨rfl, op⟩ | ⟨rfl, op⟩ | ⟨rfl, op⟩ | ⟨rfl, op⟩ | ⟨rfl, op⟩ | ⟨rfl, op⟩ | ⟨rfl, op⟩ | ⟨rfl, op⟩ |
    ⟨rfl, op⟩ | ⟨rfl, op⟩ | ⟨rfl, op⟩ | ⟨rfl, op⟩ | ⟨rfl, op⟩ | ⟨rfl, op⟩ | ⟨rfl, op⟩ | ⟨rfl, op⟩ | ⟨rfl, op⟩ | ⟨rfl, op⟩ | ⟨rfl, op⟩ | ⟨rfl, op⟩ |
    ⟨rfl, op⟩ <;> exact issueStep_at h (isOp_of op)

theorem exec_sig_issue (op : opOf w = 0x80) : exec (.sig u .issue) s = .next (doSigSeq x z sl w (fetchStep u sl z s)) :=
  issueStep_at h (isOp_of op)

theorem exec_pairchkDeclare_issue (op : opOf w = 0x82) (sub : subOf w = 0) :
    exec (.pairchkDeclare u .issue) s = .next (doDeclareSeq x z sl w (fetchStep u sl z s)) :=
  issueStep_at h (by simp [isDeclare, isOp_of op, sub])

theorem exec_pairchkDissolve_issue (op : opOf w = 0x82) (sub : subOf w = 1) :
    exec (.pairchkDissolve u .issue) s = .next (doDissolveSeq x z sl w (fetchStep u sl z s)) :=
  issueStep_at h (by simp [isDissolve, isOp_of op, sub])

theorem exec_of_tally_queued (hc : (c, true) ∈ tallyCommands u w) (heng : engOf w ≠ 0) :
    exec c s = .next (doIssue x z sl w (fetchStep u sl z s)) := by
  simp only [tallyCommands, List.mem_cons, Prod.mk.injEq, List.not_mem_nil, or_false, eq_comm (a := true), Bool.and_eq_true, beq_iff_eq] at hc
  rcases hc with ⟨rfl, op⟩ | ⟨rfl, op⟩ | ⟨rfl, op, sub⟩ | ⟨rfl, op, sub⟩
  · exact (exec_sig_issue h op).trans (congrArg _ (if_pos heng))
  · exact (exec_waitge_issue h op).trans (congrArg _ (if_pos heng))
  · exact (exec_pairchkDeclare_issue h op sub).trans (congrArg _ (if_pos heng))
  · exact (exec_pairchkDissolve_issue h op sub).trans (congrArg _ (if_pos heng))

end

/-- Settles O19: such a command issues its word, and what issuing does depends on the room in the engine's queue alone. -/
theorem engineInstructionsQueue : Obligations.EngineInstructionsQueue := by
  intro s u x z sl w c word hc
  have issue : exec c s = .next (doIssue x z sl w (fetchStep u sl z s)) := hc.elim (exec_of_queued word) fun h => exec_of_tally_queued word h.1 h.2
  exact ⟨fun full => issue.trans (congrArg _ (doIssue_full full)), fun room next => issue.trans (congrArg _ (doIssue_room room next))⟩

/-! ### Tally instructions (R238, R241, R243, R244, R246) -/

section
variable {s : State} {u : UnitId} {eng : Nat} {x : UnitCtx} {e : EngInsn} {sl : Slice} (h : AtHead s u eng x e sl) (first : oldest x e = true)
include h first

theorem exec_sig_head (op : opOf e.word = 0x80) : exec (.sig u (.head eng)) s = .next (doSigHead x e sl (stepFree s)) :=
  headStep_at h (isOp_of op) fun _ => first

theorem exec_pairchkDeclare_head (op : opOf e.word = 0x82) (sub : subOf e.word = 0) :
    exec (.pairchkDeclare u (.head eng)) s = .next (doDeclareHead x e sl (stepFree s)) :=
  headStep_at h (by simp [isDeclare, isOp_of op, sub]) fun _ => first

theorem exec_pairchkDissolve_head (op : opOf e.word = 0x82) (sub : subOf e.word = 1) :
    exec (.pairchkDissolve u (.head eng)) s = .next (doDissolveHead x e sl (stepFree s)) :=
  headStep_at h (by simp [isDissolve, isOp_of op, sub]) fun _ => first

end

theorem waitFinds_of_sound {t : Tally} (poison : t.poison = false) (sat : t.sat = false) (n : Nat) :
    waitFinds t n = if n ≤ t.value.toNat then .met else .waits := by
  simp [waitFinds, poison, sat]

theorem pairFault_of_range {s : State} {x : UnitCtx} {r : Run} {w : InsnWord} (producer : tallyOk s x r (fld 55 48 w) = true)
    (consumer : tallyOk s x r (fld 63 56 w) = true) (bad : Bool) :
    pairFault s x r w bad = if bad then some (0x203, syncAddr s x.unit (fld 55 48 w) (fld 63 56 w)) else none := by
  simp [pairFault, pairRange, pairProducer, pairConsumer, producer, consumer]

/-- Settles O20: each instruction meets its tallies in range, and the case of its clause. -/
theorem tallyInstructions : Obligations.TallyInstructions := by
  refine ⟨fun s u eng x e sl r head first run => ⟨fun op ok => ?_, fun op ok sound unsat => ⟨fun met => ?_, fun met started heng => ?_, fun unmet => ?_⟩,
    fun op ok ok' => ⟨fun sub valid => ?_, fun sub invalid => ?_, fun sub stands => ?_, fun sub gone => ?_⟩⟩,
    fun s u x z sl w word heng ok => ⟨fun op => ?_, fun op sound unsat next => ⟨fun met => ?_, fun unmet => ?_⟩,
      fun op ok' => ⟨fun sub valid => ?_, fun sub stands => ?_⟩⟩⟩
  · refine (exec_sig_head head first op).trans (congrArg _ ?_)
    simp only [doSigHead, insnTallyOk, run, sigTally, sigAmount, ok]
    rfl
  · refine (exec_waitge_head head op).trans (congrArg _ ?_)
    simp only [doWaitHead, run, ok, waitFinds_of_sound sound unsat, waitThreshold, met]
    rfl
  · refine (exec_waitgeWake_head head op started heng).trans (congrArg _ ?_)
    simp only [doWaitHead, run, ok, waitFinds_of_sound sound unsat, waitThreshold, met]
    rfl
  · refine (exec_waitge_head head op).trans (congrArg _ ?_)
    simp only [doWaitHead, run, ok, waitFinds_of_sound sound unsat, waitThreshold, unmet]
    rfl
  · refine (exec_pairchkDeclare_head head first op sub).trans (congrArg _ ?_)
    simp only [doDeclareHead, run, pairFault_of_range ok ok', valid]
    rfl
  · refine (exec_pairchkDeclare_head head first op sub).trans (congrArg _ ?_)
    simp only [doDeclareHead, run, pairFault_of_range ok ok', invalid]
    rfl
  · refine (exec_pairchkDissolve_head head first op sub).trans (congrArg _ ?_)
    simp only [doDissolveHead, run, pairFault_of_range ok ok', stands]
    rfl
  · refine (exec_pairchkDissolve_head head first op sub).trans (congrArg _ ?_)
    simp only [doDissolveHead, run, pairFault_of_range ok ok', gone]
    rfl
  · refine (exec_sig_issue word op).trans (congrArg _ ?_)
    simp only [doSigSeq, heng, sigTally, sigAmount, ok]
    rfl
  · have go : doWaitSeq x z sl w (fetchStep u sl z s) = putSeq x { z with pc := z.pc + 1 } (fetchStep u sl z s) := by
      simp only [doWaitSeq, heng, ok, waitFinds_of_sound sound unsat, waitThreshold, met]
      exact goNext_at next
    exact ⟨(exec_waitge_issue word op).trans (congrArg _ go), (exec_waitgeWake_seq word op heng).trans (congrArg _ go)⟩
  · refine (exec_waitge_issue word op).trans (congrArg _ ?_)
    simp only [doWaitSeq, heng, ok, waitFinds_of_sound sound unsat, waitThreshold, unmet]
    rfl
  · refine (exec_pairchkDeclare_issue word op sub).trans (congrArg _ ?_)
    simp only [doDeclareSeq, heng, pairFault_of_range ok ok', valid]
    rfl
  · refine (exec_pairchkDissolve_issue word op sub).trans (congrArg _ ?_)
    simp only [doDissolveSeq, heng, pairFault_of_range ok ok', stands]
    rfl

end Sys2Proof.Machine

/-! PROOFS. Start gates and the DMA engine (spec/04, spec/06, spec/07) -/

namespace Sys2Proof.Machine

/-! ### What a queue head does -/

/-- An instruction of an engine at its queue head, behind no other of its queue. -/
theorem engineStep_at {op : Nat} {u : UnitId} {eng : Nat} {k : UnitCtx → EngInsn → Slice → State → State} {s : State} {x : UnitCtx} {e : EngInsn}
    {sl : Slice} (h : AtHead s u eng x e sl) (first : oldest x e = true) (hop : opOf e.word = op) :
    engineStep op u true k (.head eng) s = .next (k x e sl (stepFree s)) :=
  headStep_at h (isOp_of hop) fun _ => first

@[simp] theorem countFixes_nil (slice : Nat) (s : State) : countFixes slice [] s = s := rfl

/-- SRAM whose words are all sound is read, and nothing is counted (R137). -/
theorem readSram_of_sound {x : UnitCtx} {e : EngInsn} {rs : List (Nat × Nat)} {s : State} (h : badWords s x.slice x.unit rs = [])
    (k : State → State) : readSram x e rs k s = k s := by
  simp [readSram, h]

/-- A word with two bad symbols faults the instruction that starts to read it (R138). -/
theorem readSram_of_bad {x : UnitCtx} {e : EngInsn} {rs : List (Nat × Nat)} {s : State} (first : e.started = false)
    (h : 2 ∈ badWords s x.slice x.unit rs) (k : State → State) : readSram x e rs k s = insnFault x e 0x501 0 0 s := by
  simp [readSram, first, h]

/-! ### Start gates (R263 to R267) -/

theorem takenGate_of_taken {g : Gate} (free : g.free = false) (takeNext : g.takeNext = false) (a : Arrival) : takenGate a g = g := by
  simp [takenGate, free, takeNext]

theorem StopsWork.gates {s t : State} (h : StopsWork s t) : t.gates = s.gates := by
  obtain ⟨_, _, _, _, _, _, _, _, _, _, _, _, rfl⟩ := h
  rfl

theorem addTally_gates (u : UnitId) (slice i n : Nat) (s : State) : (addTally u slice i n s).gates = s.gates := by
  obtain ⟨_, _, h⟩ := addTallyFrom_only {} u slice i n s
  exact h.gates

theorem mailboxAdd_gates (u : UnitId) (slice i n : Nat) (s : State) : (mailboxAdd u slice i n s).gates = s.gates := by
  unfold mailboxAdd
  split
  · split
    · split
      · rfl
      · exact (checkPairs_stops _ _ _ _ _).gates
    · rfl
  · exact addTally_gates _ _ _ _ _

theorem landRelease_gates (home slice cluster gate gen : Nat) (s : State) : (landRelease home slice cluster gate gen s).gates = s.gates := by
  unfold landRelease
  split
  · rfl
  · exact mailboxAdd_gates _ _ _ _ _

theorem sendReleases_gates (home tag gate gen : Nat) (ps : List Participant) (s : State) : (sendReleases home tag gate gen ps s).gates = s.gates := by
  induction ps generalizing s with
  | nil => rfl
  | cons p ps ih =>
    refine (ih _).trans ?_
    split
    · split
      · exact landRelease_gates _ _ _ _ _ _
      · rfl
    · exact (transmit_sends _ s).stops.gates

/-- A met gate opens its next generation, and every other gate stays (R266). -/
theorem placeArrival_gates (k : Nat) (g : Gate) (s : State) : (placeArrival k g s).gates =
    Sparse.set {} s.gates k (if g.count = g.expected then { g with gen := g.gen + 1, count := 0, list := [] } else g) := by
  unfold placeArrival
  split
  · exact sendReleases_gates _ _ _ _ _ _
  · rfl

/-- The payload of an arrival's packet. -/
def arrivedPayload (a : Arrival) : List Byte := Config.arrivalPayload a.tag a.gate a.gen a.expected a.who

/-- Settles O23. -/
theorem startGates : Obligations.StartGates := by
  refine ⟨fun s u eng x e sl head first op new ok => ?_, fun a g free takeNext => ?_, fun s k g sorted => ⟨?_, fun j hj => ?_⟩⟩
  · have gate := engineStep_at (k := doGateHead) head first op
    refine ⟨fun wrong => ?_, fun low high home single => ?_, fun low high away single => ⟨arrivedPayload (gateArrival (stepFree s) x e.word), ?_⟩⟩
    · refine gate.trans (congrArg _ ?_)
      simp only [doGateHead, new, ok]
      exact if_pos wrong
    · have inRange : ¬((gateArrival (stepFree s) x e.word).expected = 0 ∨ 4096 < (gateArrival (stepFree s) x e.word).expected) := by omega
      have here : fld 75 64 e.word = ownNode (stepFree s) ∨ (stepFree s).fab.assumed.contains (fld 75 64 e.word) = true := .inl home
      have place : gatePlace (stepFree s) (fld 75 64 e.word) (gateArrival (stepFree s) x e.word).gate = (gateArrival (stepFree s) x e.word).gate :=
        if_neg (Bool.eq_false_iff.1 single)
      refine ⟨fun g hg => gate.trans (congrArg _ ?_), fun c hc => gate.trans (congrArg _ ?_)⟩
      · have arrive : arriveAt (gateArrival (stepFree s) x e.word) (gateAt (stepFree s) (gateArrival (stepFree s) x e.word).gate) = .ok g := hg
        simp only [doGateHead, new, ok, if_neg inRange, if_pos here, place, arrive]
        rfl
      · have arrive : arriveAt (gateArrival (stepFree s) x e.word) (gateAt (stepFree s) (gateArrival (stepFree s) x e.word).gate) = .error c := hc
        simp only [doGateHead, new, ok, if_neg inRange, if_pos here, place, arrive]
        rfl
    · have inRange : ¬((gateArrival (stepFree s) x e.word).expected = 0 ∨ 4096 < (gateArrival (stepFree s) x e.word).expected) := by omega
      have elsewhere : ¬(fld 75 64 e.word = ownNode (stepFree s) ∨ (stepFree s).fab.assumed.contains (fld 75 64 e.word) = true) :=
        not_or.2 ⟨away, Bool.eq_false_iff.1 single⟩
      refine gate.trans (congrArg _ ?_)
      simp only [doGateHead, new, ok, if_neg inRange, if_neg elsewhere]
      rfl
  · simp only [arriveAt, takenGate_of_taken free takeNext, List.contains_iff_mem]
  · rw [gateAt, placeArrival_gates, Sparse.get_set_self _ _ _ _ sorted]
  · rw [gateAt, placeArrival_gates, Sparse.get_set_ne _ _ _ hj, gateAt]

/-! ### The DMA engine (R162, R163, R577, R585) -/

theorem addrReg_dst {e : EngInsn} (gather : opOf e.word ≠ 0x30) (scatter : opOf e.word ≠ 0x31) (walk : opOf e.word ≠ 0x32) :
    addrReg e 0 = if tMem (dT e) = true then e.ar else 0 := by
  cases dst : tMem (dT e) <;> simp [addrReg, opTiles, gather, scatter, walk, dst]

theorem addrReg_src {e : EngInsn} (gather : opOf e.word ≠ 0x30) (scatter : opOf e.word ≠ 0x31) (walk : opOf e.word ≠ 0x32) :
    addrReg e 1 = if tMem (s1T e) = false then 0 else if tMem (dT e) = true then e.ar2 else e.ar := by
  cases src : tMem (s1T e) <;> cases dst : tMem (dT e) <;> simp [addrReg, opTiles, gather, scatter, walk, src, dst]

/-- A `DMA.BCAST` whose targets are the context's and hold the places it writes. -/
theorem doDmaBcast_of_targets {s : State} {x : UnitCtx} {e : EngInsn} {sl : Slice} (some : tEmpty (s1T e) = false)
    (may : e.started = true ∨ ((maskUnits (fld 31 0 e.word)).all (holdsCluster s x.slice) = true ∧
      (maskUnits (fld 31 0 e.word)).all (fun v => sramOk s x v (sramBase (dT e)) (walkOf (s1T e) (dT e)) (tLen0 (s1T e))) = true)) :
    doDmaBcast x e sl s = if tMem (s1T e) then goJobs x e sl (loadJobs sl (maskUnits (fld 31 0 e.word)) e) s
      else if !sramOk s x x.unit (sramBase (s1T e)) (walkOf (s1T e) (s1T e)) (tLen0 (s1T e)) then insnFault x e 0x307 0 0 s
      else readSram x e (walkRanges (sramBase (s1T e)) (walkOf (s1T e) (s1T e)) (tLen0 (s1T e))) (goJobs x e sl
        (((List.range (walkOf (s1T e) (s1T e)).length).zip (List.zip (walkOf (s1T e) (s1T e)) (walkOf (s1T e) (dT e)))).map (fun o =>
          { row := noRow, tile := o.1, refs := []
            act := .spread (maskUnits (fld 31 0 e.word)) (sramBase (s1T e) + o.2.1) (sramBase (dT e) + o.2.2) (tLen0 (s1T e)) }))) s := by
  unfold doDmaBcast
  rcases may with started | ⟨held, fits⟩
  · simp only [some, started]
    rfl
  · simp only [some, held, fits, Bool.not_true, Bool.and_false]
    rfl

/-- Settles O24. -/
theorem dmaInstructionsMove : Obligations.DmaInstructionsMove := by
  refine ⟨fun s u eng x e sl head first => ⟨fun empty => ?_, fun some => ?_⟩, fun e gather scatter walk =>
    ⟨addrReg_dst gather scatter walk, addrReg_src gather scatter walk⟩⟩
  · exact ⟨fun op => (engineStep_at (k := doDmaLd) head first op).trans (congrArg _ (if_pos empty)),
      fun op => (engineStep_at (k := doDmaSt) head first op).trans (congrArg _ (if_pos empty)),
      fun op => (engineStep_at (k := doDmaCopy) head first op).trans (congrArg _ (if_pos empty)),
      fun op => (engineStep_at (k := doDmaBcast) head first op).trans (congrArg _ (if_pos empty))⟩
  · have more : ¬tEmpty (s1T e) = true := by simp [some]
    refine ⟨fun op out => ?_, fun op out => ?_, fun op fits => ?_, fun op fits new bad => ?_, fun op fits sound => ?_, fun op => ?_, fun op => ?_⟩
    · refine (engineStep_at (k := doDmaLd) head first op).trans (congrArg _ ((if_neg more).trans (if_pos ?_)))
      rw [out]
      rfl
    · refine (engineStep_at (k := doDmaSt) head first op).trans (congrArg _ ((if_neg more).trans (if_pos ?_)))
      rw [out]
      rfl
    · refine (engineStep_at (k := doDmaLd) head first op).trans (congrArg _ ((if_neg more).trans (if_neg ?_)))
      rw [fits]
      exact Bool.false_ne_true
    · refine (engineStep_at (k := doDmaSt) head first op).trans (congrArg _ ((if_neg more).trans ((if_neg ?_).trans (readSram_of_bad new bad _))))
      rw [fits]
      exact Bool.false_ne_true
    · refine (engineStep_at (k := doDmaSt) head first op).trans (congrArg _ ((if_neg more).trans ((if_neg ?_).trans (readSram_of_sound sound _))))
      rw [fits]
      exact Bool.false_ne_true
    · exact (engineStep_at (k := doDmaCopy) head first op).trans (congrArg _ (if_neg more))
    · have bcast := engineStep_at (k := doDmaBcast) head first op
      refine ⟨fun new stray => bcast.trans (congrArg _ ?_), fun new held out => bcast.trans (congrArg _ ?_),
        fun may => ⟨fun mem => bcast.trans (congrArg _ ?_), fun sram fits sound => bcast.trans (congrArg _ ?_)⟩⟩
      · simp only [doDmaBcast, some, new, stray]
        rfl
      · simp only [doDmaBcast, some, new, held, out]
        rfl
      · exact (doDmaBcast_of_targets some may).trans (if_pos mem)
      · refine (doDmaBcast_of_targets some may).trans ((if_neg (by simp [sram])).trans ((if_neg (by simp [fits])).trans (readSram_of_sound sound _)))

end Sys2Proof.Machine

/-! PROOFS. Rows and fabric instructions (spec/04, spec/06, spec/09) -/

namespace Sys2Proof.Machine

/-! ### Rows: GATHER, SCATTER and WALK (R147 to R155) -/

/-- Settles O25. -/
theorem gatherScatterWalk : Obligations.GatherScatterWalk := by
  refine fun s u eng x e sl head first => ⟨fun op => ⟨fun size => ?_, fun size some idx inside fits sound => ?_⟩,
    fun op going => ⟨fun flg fmt => ?_, fun fmt size row rows rows' idx inside fits sound => ?_⟩,
    fun op going status => ⟨fun sub => ?_, fun sub flg some idx inside fits sound => ?_⟩⟩
  · refine (engineStep_at (k := doGather) head first op).trans (congrArg _ (if_pos ?_))
    rw [size]
    rfl
  · refine (engineStep_at (k := doGather) head first op).trans (congrArg _ ?_)
    have out : (subOf e.word == 0 && !sramOk (stepFree s) x x.unit (sramBase (dT e))
        ((List.range (tLen1 (s2T e))).map (fun j => j * tPitch1 (dT e))) (tLen0 (s1T e))) = false := by
      rcases fits with sub | fits
      · simp [sub]
      · simp [fits]
    simp only [doGather, size, some, idx, inside, out, readSram_of_sound sound]
    rfl
  · refine (engineStep_at (k := doScatter) head first op).trans (congrArg _ (if_pos ?_))
    rw [flg, fmt]
    rfl
  · refine (engineStep_at (k := doScatter) head first op).trans (congrArg _ ?_)
    have adds : (flgOf e.word 0 && (scatterAdd (tFmt (dT e))).isNone) = false := by
      rcases fmt with flg | fmt
      · simp [flg]
      · simp [Option.isNone_eq_false_iff, Option.isSome_iff_ne_none, fmt]
    have some : scatterEmpty e = false := by simp [scatterEmpty, row, rows, rows', idx]
    simp only [doScatter, adds, size, some, inside, fits, readSram_of_sound sound]
    rfl
  · refine (engineStep_at (k := doWalk) head first op).trans (congrArg _ ?_)
    simp only [doWalk, going, status, sub]
    rfl
  · refine (engineStep_at (k := doWalk) head first op).trans (congrArg _ ?_)
    simp only [doWalk, going, status, sub, flg, some, idx, inside, fits, readSram_of_sound sound]
    rfl

/-! ### Fabric instructions (R226, R227, R309, R330 to R333) -/

theorem paNode_eq (pa : Nat) : paNode pa = pa / 2 ^ 52 % 2 ^ 12 := by
  rw [paNode, bitsOf, Nat.shiftRight_eq_div_pow]

/-- Settles O27. -/
theorem fabricInstructions : Obligations.FabricInstructions := by
  refine fun s u eng x e sl head first going => ⟨fun op some fits sound => ?_, fun op some fits => ?_,
    fun op fits => ⟨fun win off => ?_, fun win aligned => ?_, fun win aligned => ?_⟩,
    fun op f fmt => ⟨fun odd => ?_, fun whole some off => ?_, fun whole some aligned fits sound => ?_⟩, fun op new => ?_⟩
  · have win : isWin e = flgOf e.word 0 := if_neg (by rw [op]; decide)
    refine (engineStep_at (k := doPut) head first op).trans (congrArg _ ?_)
    simp only [doPut, going, some, fits, readSram_of_sound sound, win]
    rfl
  · have win : isWin e = flgOf e.word 0 := if_neg (by rw [op]; decide)
    refine (engineStep_at (k := doGet) head first op).trans (congrArg _ ?_)
    simp only [doGet, going, some, fits, win]
    rfl
  · have near : isWin e = false := (if_pos op).trans win
    refine (engineStep_at (k := doAtom) head first op).trans (congrArg _ ?_)
    simp only [doAtom, going, fits, near]
    exact if_pos off
  · have near : isWin e = false := (if_pos op).trans win
    refine (engineStep_at (k := doAtom) head first op).trans (congrArg _ ?_)
    simp only [doAtom, going, fits, near]
    exact if_neg (not_not_intro aligned)
  · have far : isWin e = true := (if_pos op).trans win
    refine (engineStep_at (k := doAtom) head first op).trans (congrArg _ ?_)
    simp only [doAtom, going, fits, far]
    refine (if_neg (not_not_intro aligned)).trans ?_
    have win' : winId e = fld 61 52 e.word := if_pos op
    simp only [winPacket, win', paNode_eq]
    rfl
  · refine (engineStep_at (k := doReduce) head first op).trans (congrArg _ ?_)
    simp only [doReduce, going, fmt]
    exact if_pos odd
  · have win : isWin e = flgOf e.word 0 := if_neg (by rw [op]; decide)
    refine (engineStep_at (k := doReduce) head first op).trans (congrArg _ ?_)
    simp only [doReduce, going, fmt, whole, some, win]
    refine if_pos (List.any_eq_true.2 ?_)
    obtain ⟨o, ho, h⟩ := off
    exact ⟨o, ho, bne_iff_ne.2 h⟩
  · have win : isWin e = flgOf e.word 0 := if_neg (by rw [op]; decide)
    have all : (walkOf (s1T e) (dT e)).any (fun o => ((if flgOf e.word 0 then winBase (dT e) (addrReg e 0) else dAddr e) + o) % 256 != 0) = false :=
      List.any_eq_false.2 fun o ho => by simpa [dAddr] using aligned o ho
    refine (engineStep_at (k := doReduce) head first op).trans (congrArg _ ?_)
    simp only [doReduce, going, fmt, whole, some, win, all, fits, readSram_of_sound sound]
    rfl
  · refine (engineStep_at (k := doPsig) head first op).trans (congrArg _ ?_)
    simp only [doPsig, new]
    rfl

end Sys2Proof.Machine

/-! PROOFS. Set, vector and array instructions, and completions (spec/04, spec/05, spec/06) -/

namespace Sys2Proof.Machine

/-! ### Set instructions (R156 to R158, R225) -/

theorem sortPlaces_of_keys {e : EngInsn} (h : flgOf e.word 0 = false) :
    sortPlaces e = ([itemAddrs (s1T e) (s1T e)], [itemAddrs (s1T e) (dT e)]) := by
  simp [sortPlaces, h]

/-- What a list operation emits from the keys at its two lists' places. -/
def listOut (op : ListOp) (x : UnitCtx) (e : EngInsn) (s : State) : ListOut :=
  listRun op ((listAddrs (s1T e)).length + (listAddrs (s2T e)).length + 1) (tLen1 (dT e))
    (0, none, keysAt s x (listAddrs (s1T e))) (0, none, keysAt s x (listAddrs (s2T e)))

section
variable {op : ListOp} {x : UnitCtx} {e : EngInsn} {s : State} (going : e.issued = false) (status : statusOk s x e = true)
  (some : tEmpty (s1T e) = false) (some' : tEmpty (s2T e) = false)
  (fits : (listAddrs (s1T e) ++ listAddrs (s2T e)).all (fun a => sramFits s x.slice x.unit a 4) = true)
  (sound : badWords s x.slice x.unit ((listAddrs (s1T e) ++ listAddrs (s2T e)).map (fun a => (a, 4))) = [])
  (room : writesFit s x (listWrites op e (listOut op x e s).keys) = true)
include going status some some' fits sound room

theorem doList_of_sorted (sl : Slice) (sorted : (listOut op x e s).bad = none) : doList op x e sl s =
    actWhole x e (listWrites op e (listOut op x e s).keys) (listStatus (listOut op x e s).keys.length (listOut op x e s).full) s := by
  unfold listOut at room sorted ⊢
  simp only [doList, going, status, some, some', fits, readSram_of_sound sound, room, sorted]
  rfl

theorem doList_of_unsorted (sl : Slice) {b : Nat × Nat} (bad : (listOut op x e s).bad = Option.some b) : doList op x e sl s =
    insnFault x e 0x405 (Config.unsortedAddr b.1 b.2) (Config.unsortedDetail b.1 b.2) (putWrites x (listWrites op e (listOut op x e s).keys) s) := by
  unfold listOut at room bad ⊢
  simp only [doList, going, status, some, some', fits, readSram_of_sound sound, room, bad]
  rfl

end

/-- A list operation is its opcode's. -/
theorem exec_list {s : State} {u : UnitId} {eng : Nat} {x : UnitCtx} {e : EngInsn} {sl : Slice} (head : AtHead s u eng x e sl)
    (first : oldest x e = true) {op : ListOp} {c : Instr}
    (h : (op = .merge ∧ c = Instr.merge u (.head eng) ∧ opOf e.word = 0x41) ∨ (op = .isect ∧ c = Instr.isect u (.head eng) ∧ opOf e.word = 0x42) ∨
      (op = .union ∧ c = Instr.union u (.head eng) ∧ opOf e.word = 0x43)) : exec c s = .next (doList op x e sl (stepFree s)) := by
  rcases h with ⟨rfl, rfl, code⟩ | ⟨rfl, rfl, code⟩ | ⟨rfl, rfl, code⟩
  · exact engineStep_at (k := doList .merge) head first code
  · exact engineStep_at (k := doList .isect) head first code
  · exact engineStep_at (k := doList .union) head first code

/-- Settles O28. -/
theorem setInstructions : Obligations.SetInstructions := by
  refine fun s u eng x e sl head first going status some => ⟨fun op keys small fits => ⟨fun meet => ?_, fun apart sound => ?_⟩,
    fun op c hc some' fits room sound => ?_⟩
  · refine (engineStep_at (k := doSort) head first op).trans (congrArg _ ?_)
    have inside : ([itemAddrs (s1T e) (s1T e)] ++ [itemAddrs (s1T e) (dT e)]).all (fun as => as.all (fun a => sramFits (stepFree s) x.slice x.unit a 4)) = true := by
      simpa [List.all_append] using fits
    simp only [doSort, going, if_neg (Nat.not_lt.2 small), status, some, sortPlaces_of_keys keys, inside, List.any_cons, List.any_nil, meet]
    rfl
  · refine (engineStep_at (k := doSort) head first op).trans (congrArg _ ?_)
    have inside : ([itemAddrs (s1T e) (s1T e)] ++ [itemAddrs (s1T e) (dT e)]).all (fun as => as.all (fun a => sramFits (stepFree s) x.slice x.unit a 4)) = true := by
      simpa [List.all_append] using fits
    have words : badWords (stepFree s) x.slice x.unit (([itemAddrs (s1T e) (s1T e)].flatten).map (fun a => (a, 4))) = [] := by simpa using sound
    simp only [doSort, going, if_neg (Nat.not_lt.2 small), status, some, sortPlaces_of_keys keys, inside, List.any_cons, List.any_nil, apart,
      readSram_of_sound words, List.append_nil]
    rfl
  · have run := exec_list head first hc
    exact ⟨fun sorted => run.trans (congrArg _ (doList_of_sorted going status some some' fits sound room sl sorted)),
      fun b bad => ⟨_, _, run.trans (congrArg _ (doList_of_unsorted going status some some' fits sound room sl bad))⟩⟩

/-! ### Vector instructions (R160, R190 to R193, R586, R589) -/

theorem any_ne_of_mem {α : Type} {l : List α} {f : α → Nat} {n : Nat} (h : ∃ a ∈ l, f a ≠ n) : l.any (fun a => f a != n) = true := by
  simpa using h

theorem any_ne_of_all {α : Type} {l : List α} {f : α → Nat} {n : Nat} (h : ∀ a ∈ l, f a = n) : l.any (fun a => f a != n) = false := by
  simpa using h

/-- The ranges of SRAM that an operation reads (R160). -/
def vopReads (e : EngInsn) (v : Nat) : List (Nat × Nat) :=
  ((s1T e :: vOthers e v).map (fun y => (itemAddrs (s1T e) y).map (fun a => (a, tLen0 (s1T e))))).flatten ++
    (if vKind v = .perRow then [(e.sX.toNat, 4 * (itemAddrs (s1T e) (dT e)).length)] else [])

theorem doElementwise_of_fit {s : State} {x : UnitCtx} {e : EngInsn} {v : Nat}
    (fits : ∀ t ∈ s1T e :: dT e :: vOthers e v, tFmt t = 8 ∧ walkFits s x (s1T e) t (tLen0 (s1T e)) = true) (whole : tLen0 (s1T e) % 4 = 0)
    (status : statusOk s x e = true) (some : tEmpty (s1T e) = false)
    (row : vKind v = .perRow → sramFits s x.slice x.unit e.sX.toNat (4 * (itemAddrs (s1T e) (dT e)).length) = true) :
    doElementwise x e v s = readSram x e (vopReads e v) (actWhole x e (((List.range (itemAddrs (s1T e) (dT e)).length).zip
      (itemAddrs (s1T e) (dT e))).map (fun p => (p.2, fpBytes (vopItem s x e v (tLen0 (s1T e)) p.1)))) 0) s := by
  have inside : (s1T e :: dT e :: vOthers e v).all (fun y => walkFits s x (s1T e) y (tLen0 (s1T e))) = true :=
    List.all_eq_true.2 fun t ht => (fits t ht).2
  have row' : (vKind v == .perRow && !sramFits s x.slice x.unit e.sX.toNat (4 * (itemAddrs (s1T e) (dT e)).length)) = false := by
    by_cases kind : vKind v = .perRow
    · simp [row kind]
    · simp [kind]
  simp only [doElementwise, any_ne_of_all fun t ht => (fits t ht).1, whole, status, some, inside, row']
  rfl

/-- Settles O31. -/
theorem vectorInstructions : Obligations.VectorInstructions := by
  refine fun s u eng x e sl head first going => ⟨fun op cvt xadd => ?_, fun op fmt whole status some fits sound => ?_⟩
  · have vop : exec (.vop u (.head eng)) s = .next (doElementwise x e (fld 79 72 e.word) (stepFree s)) := by
      refine (engineStep_at (k := doVop) head first op).trans (congrArg _ ?_)
      simp only [doVop, going, if_neg cvt, if_neg xadd]
      rfl
    refine ⟨fun other => vop.trans (congrArg _ (if_pos (any_ne_of_mem other))), fun fp odd => vop.trans (congrArg _ ?_),
      fun fits whole status some row => ⟨fun sound => vop.trans (congrArg _ ?_), fun bad new => vop.trans (congrArg _ ?_)⟩⟩
    · simp only [doElementwise, any_ne_of_all fp]
      exact if_pos odd
    · exact (doElementwise_of_fit fits whole status some row).trans (readSram_of_sound sound _)
    · exact (doElementwise_of_fit fits whole status some row).trans (readSram_of_bad new bad _)
  · have vred := engineStep_at (k := doVred) head first op
    refine ⟨fun room => vred.trans (congrArg _ ?_), fun out => vred.trans (congrArg _ ?_)⟩
    · simp only [doVred, going, fmt, whole, status, some, fits, readSram_of_sound sound, room]
      rfl
    · simp only [doVred, going, fmt, whole, status, some, fits, readSram_of_sound sound, out]
      rfl

/-! ### Array instructions (R142 to R145, R194, R195) -/

theorem busy_any {x : UnitCtx} {e : EngInsn} (h : ∃ q ∈ arrQuads e, (quadAt x e.eng q).busy ≠ none) :
    (arrQuads e).any (fun q => (quadAt x e.eng q).busy.isSome) = true := by
  simpa [Option.isSome_iff_ne_none] using h

theorem busy_none {x : UnitCtx} {e : EngInsn} (h : ∀ q ∈ arrQuads e, (quadAt x e.eng q).busy = none) :
    (arrQuads e).any (fun q => (quadAt x e.eng q).busy.isSome) = false := by
  simpa using h

/-- Settles O32. -/
theorem arrayInstructions : Obligations.ArrayInstructions := by
  refine ⟨fun s u eng x e sl head array check => ?_, fun s u eng q i x y e hx busy he runs going hy => ?_⟩
  · have start : exec (.arrayInstructionStart u eng) s = .next (doArrayStart x e sl (stepFree s)) := headStep_at head array nofun
    refine ⟨fun wait => start.trans (congrArg _ ?_), fun free turn tile => ⟨fun same sound => start.trans (congrArg _ ?_),
      fun same new bad => start.trans (congrArg _ ?_), fun q h rest mis => start.trans (congrArg _ ?_)⟩⟩
    · have held : ((arrQuads e).any (fun q => (quadAt x e.eng q).busy.isSome) || !arrayTurn (stepFree s) x e || awaitsTile x e) = true := by
        rcases wait with busy | turn | tile
        · simp [busy_any busy]
        · simp [turn]
        · simp [tile]
      simp only [doArrayStart, check, held]
      rfl
    · simp only [doArrayStart, check, busy_none free, turn, tile, same, readSram_of_sound sound]
      rfl
    · simp only [doArrayStart, check, busy_none free, turn, tile, same, readSram_of_bad new bad]
      rfl
    · simp only [doArrayStart, check, busy_none free, turn, tile, mis]
      rfl
  · refine ⟨fun left => ?_, fun last => ?_⟩
    · change execArrayWriteback u eng q s = _
      have more : (arrQuads e).any (fun k => (quadAt y eng k).busy == some i) = true := by simpa using left
      simp only [execArrayWriteback, hx, busy, he, runs, going, hy, more]
      rfl
    · change execArrayWriteback u eng q s = _
      have none' : (arrQuads e).any (fun k => (quadAt y eng k).busy == some i) = false := by simpa using last
      simp only [execArrayWriteback, hx, busy, he, runs, going, hy, none']
      rfl

/-! ### Completions of engine instructions (R126, R107) -/

/-- An instruction of queue `eng` that has been issued whole. -/
def wholeInsn (eng : Nat) : EngInsn :=
  { id := 0, eng := eng, word := 0, pc := 0, run := 0, queue := 0, tD := [], tS1 := [], tS2 := [], tS3 := 0, tV := 0, ar := 0, ar2 := 0, sX := 0
    sY := 0, started := true, issued := true }

/-- Such an instruction stands in its unit's queue, and another of the same number in the work that is set aside (R107). -/
def unitWithAside : UnitCtx :=
  { unit := .cluster 0, slice := 0, insns := [wholeInsn 8]
    aside := some { rt := true, seq := none, draining := [], insns := [wholeInsn 8], quads := [] } }

/-- The unit has the cluster. -/
def stateWithAside : State := { units := [unitWithAside], current := [(unitIdx (.cluster 0), 0)] }

/-- What is left of an instruction that completes is taken out of the work set aside as well. -/
theorem aside_after_completion : exec (.engineInstructionComplete (.cluster 0) 8) stateWithAside =
    .next (releaseLive (retire unitWithAside 0 stateWithAside) unitWithAside (wholeInsn 8)) := rfl

/-- Refutes O33: the clause on completions leaves the work set aside as it is, and the instruction's number goes from there too. -/
theorem not_callsAndCompletions : ¬ Obligations.CallsAndCompletions := by
  intro h
  obtain ⟨-, completes⟩ := h
  have claim := (completes stateWithAside (.cluster 0) 8 unitWithAside (wholeInsn 8) rfl rfl (by decide) rfl).2 rfl
  rw [aside_after_completion] at claim
  have asides := congrArg (fun t : State => t.units.map (fun y => (y.aside.map (fun a => a.insns.length)).getD 0)) (Host.Outcome.next.inj claim)
  exact absurd asides (by decide)

end Sys2Proof.Machine

/-! PROOFS. The relay zone (spec/03) -/

namespace Sys2Proof.Machine

/-! ### The relay zone (R96 to R99, R111, R25) -/

/-- A plan moves at most four contexts each way (R98). -/
theorem planMoves_length (s : State) (places : Nat) (ws : List Nat) {evict load : List Nat} (he : evict.length ≤ 4) (hl : load.length ≤ 4) :
    (planMoves s places ws evict load).1.length ≤ 4 ∧ (planMoves s places ws evict load).2.length ≤ 4 := by
  induction ws generalizing evict load with
  | nil => exact ⟨he, hl⟩
  | cons w ws ih =>
    unfold planMoves
    split
    · exact ⟨he, hl⟩
    · next room =>
      have more : (load ++ [w]).length ≤ 4 := by simp; omega
      split
      · exact ih he more
      · split
        · exact ⟨he, hl⟩
        · next few =>
          split
          · exact ih (by simp; omega) more
          · exact ⟨he, hl⟩

/-- The lead decides a commit of this chair that is undecided at tick 16,352 (R97, R111). -/
theorem execCommitGo_of_due {s : State} {k : Commit} (hk : s.cfg.commit = some k) (lead : s.boot.isLead = true) (due : s.lift.goDone = false)
    (chair : k.chair = chairOf s) (undecided : k.go = none) (late : 16352 ≤ tickOf s) : exec .commitGo s =
      if managerStalled s then .next (holdCommit (mapLift (fun l => { l with goDone := true }) s))
      else if k.chair = chairOf s ∧ (partBlocks s).all (fun b => k.confirms.contains b) then
        .next (emitD2d (otherBlocks s) (.mgmt (.go k.next.serial.toNat))
          { mapLift (fun l => { l with goDone := true }) s with cfg := { s.cfg with commit := some { k with go := some true } } })
      else if k.confirms.isEmpty then .next (mapLift (fun l => { l with goDone := true }) s)
      else .next (abortCommit k stTimedOut (mapLift (fun l => { l with goDone := true }) s)) := by
  have now' : ¬(!s.boot.isLead || s.lift.goDone || decide (tickOf s < Config.settleTick)) = true := by
    have tick : ¬tickOf s < Config.settleTick := Nat.not_lt.2 late
    simp [lead, due, tick]
  have this' : ¬(chairOf s < k.chair ∨ k.go.isSome = true) := by simp [chair, undecided]
  change execCommitGo s = _
  simp only [execCommitGo, if_neg now', hk, if_neg this']
  rfl

/-- Settles O35. -/
theorem relayZoneEvents : Obligations.RelayZoneEvents := by
  refine fun s => ⟨fun due late awake => ⟨?_, planMoves_length _ _ _ (Nat.zero_le 4) (Nat.zero_le 4)⟩, fun done => ?_, fun due late => ?_,
    fun k b hk lead chair undecided asked new late early => ?_, fun k hk lead due chair undecided late => ⟨fun held => ?_, fun going all => ?_, fun going asked left => ?_⟩⟩
  · change execPlanFix s = _
    have tick : ¬tickOf s < Config.relayTick - 1 := Nat.not_lt.2 late
    simp only [execPlanFix, due, tick, awake]
    rfl
  · exact if_pos (by simp [done])
  · change execRelayZoneOpen s = _
    have tick : ¬tickOf s < Config.relayTick := Nat.not_lt.2 late
    simp only [execRelayZoneOpen, due, tick]
    rfl
  · change execStagedSetConfirm b s = _
    have low : Config.relayTick ≤ tickOf s := late
    have high : tickOf s < Config.settleTick := early
    simp [execStagedSetConfirm, hk, lead, chair, low, high, undecided, asked, new]
  · refine (execCommitGo_of_due hk lead due chair undecided late).trans (if_pos held)
  · refine (execCommitGo_of_due hk lead due chair undecided late).trans ?_
    rw [if_neg (Bool.eq_false_iff.1 going), if_pos ⟨chair, by simpa using all⟩]
    rfl
  · refine (execCommitGo_of_due hk lead due chair undecided late).trans ?_
    have some : ¬(k.chair = chairOf s ∧ (partBlocks s).all (fun b => k.confirms.contains b) = true) := by simpa [chair] using left
    rw [if_neg (Bool.eq_false_iff.1 going), if_neg some, if_neg (by simpa using asked)]
    rfl

end Sys2Proof.Machine

/-! PROOFS. Slots, saves, loads and cleared clusters (spec/03, spec/14) -/

namespace Sys2Proof.Machine.Sparse

variable {β : Type}

theorem mem_of_get? {m : List (Nat × β)} {k : Nat} {v : β} (h : get? m k = some v) : (k, v) ∈ m := by
  induction m with
  | nil => cases h
  | cons e m ih =>
    rw [get?] at h
    split at h
    · next hk => cases h; exact hk ▸ List.mem_cons_self
    · exact List.mem_cons_of_mem _ (ih h)

theorem mem_put {m : List (Nat × β)} {k : Nat} {v : β} {e : Nat × β} (h : e ∈ put m k v) : e = (k, v) ∨ e ∈ m := by
  induction m with
  | nil => exact .inl (List.mem_singleton.1 h)
  | cons a m ih =>
    rw [put] at h
    split at h
    · exact List.mem_cons.1 h
    · split at h
      · exact (List.mem_cons.1 h).imp_right (List.mem_cons_of_mem _)
      · rcases List.mem_cons.1 h with rfl | h
        · exact .inr List.mem_cons_self
        · exact (ih h).imp_right (List.mem_cons_of_mem _)

theorem mem_del {m : List (Nat × β)} {k : Nat} {e : Nat × β} (h : e ∈ del m k) : e ∈ m := by
  induction m with
  | nil => cases h
  | cons a m ih =>
    rw [del] at h
    split at h
    · exact List.mem_cons_of_mem _ h
    · rcases List.mem_cons.1 h with rfl | h
      · exact List.mem_cons_self
      · exact List.mem_cons_of_mem _ (ih h)

theorem mem_set [DecidableEq β] {d : β} {m : List (Nat × β)} {k : Nat} {v : β} {e : Nat × β} (h : e ∈ set d m k v) : e = (k, v) ∨ e ∈ m := by
  unfold set at h
  split at h
  · exact .inr (mem_del h)
  · exact mem_put h

end Sys2Proof.Machine.Sparse

namespace Sys2Proof.Machine

/-! ### A cluster that is cleared (R483) -/

/-- Every tally listed for cluster `c` is another context's, or holds nothing but its owner. -/
def OnlyOwners (other : Nat → Bool) (c : Nat) (ts : List (Nat × Tally)) : Prop :=
  ∀ e ∈ ts, e.1 / 256 = c → other e.1 = true ∨ ∃ n, e.2 = { ({} : Tally) with owner := n }

theorem OnlyOwners.claim {other : Nat → Bool} {c : Nat} {ts : List (Nat × Tally)} (h : OnlyOwners other c ts) (k : Nat) (n : BitVec 8) :
    OnlyOwners other c (Sparse.set {} ts k { Sparse.get {} ts k with owner := n }) := by
  intro e he hc
  rcases Sparse.mem_set he with rfl | he
  · cases hv : Sparse.get? ts k with
    | none => exact .inr ⟨n, by simp [Sparse.get, hv]⟩
    | some v =>
      rcases h (k, v) (Sparse.mem_of_get? hv) hc with ho | ⟨m, rfl⟩
      · exact .inl ho
      · exact .inr ⟨n, by simp [Sparse.get, hv]⟩
  · exact h e he hc

theorem claimTallies_onlyOwners {other : Nat → Bool} {c : Nat} (slice : Nat) (u : UnitId) (slot : Nat) {s : State} (h : OnlyOwners other c s.tallies) :
    OnlyOwners other c (claimTallies slice u slot s).tallies := by
  unfold claimTallies
  generalize List.range (tallyCount s slice u) = is
  induction is generalizing s with
  | nil => exact h
  | cons i is ih =>
    refine ih ?_
    dsimp only
    split
    · exact h.claim _ _
    · exact h

theorem claimTallies_sram (slice : Nat) (u : UnitId) (slot : Nat) (s : State) : (claimTallies slice u slot s).sram = s.sram := by
  unfold claimTallies
  generalize List.range (tallyCount s slice u) = is
  induction is generalizing s with
  | nil => rfl
  | cons i is ih =>
    refine (ih _).trans ?_
    dsimp only
    split <;> rfl

theorem clearCluster_tallies (slice c : Nat) (s : State) :
    OnlyOwners (otherTally (clearTraces slice s) slice c) c (clearCluster slice c s).tallies := by
  have kept : OnlyOwners (otherTally (clearTraces slice s) slice c) c
      ((clearTraces slice s).tallies.filter (fun e => e.1 / 256 != c || otherTally (clearTraces slice s) slice c e.1)) := fun e he hc =>
    .inl (by simpa [hc] using (List.mem_filter.1 he).2)
  unfold clearCluster
  dsimp only
  split
  · split
    · exact claimTallies_onlyOwners _ _ _ kept
    · exact kept
  · exact kept

theorem clearCluster_sram (slice c : Nat) (s : State) : (clearCluster slice c s).sram =
    (clearTraces slice s).sram.filter (fun e => e.1 / 2 ^ 21 != c || otherLive (clearTraces slice s) slice c e.1) := by
  unfold clearCluster
  dsimp only
  split
  · split
    · exact claimTallies_sram _ _ _ _
    · rfl
  · rfl

/-! ### Slots, saves and loads (R99, R104, R105, R113 to R115) -/

/-- Settles O37. -/
theorem slotsSavesAndLoads : Obligations.SlotsSavesAndLoads := by
  refine fun s u slice => ⟨fun ok due free => ?_, fun x ok due wait cur hx going => ?_, fun ok done => ?_, fun c x hc hx saving idle here => ?_,
    fun c hc loading saved room => ?_, fun sl r c hsl hr chair late mine new => ⟨?_, clearCluster_tallies slice c s, fun e he hc => ?_⟩⟩
  · change execSlotEnd u s = _
    simp only [execSlotEnd, ok, decide_eq_false (Nat.not_le.2 due), free]
    rfl
  · change execSlotEnd u s = _
    simp only [execSlotEnd, ok, decide_eq_false (Nat.not_le.2 due), wait, stopCurrent, cur, hx, Option.any_some, going]
    rfl
  · change execSlotEnd u s = _
    simp only [execSlotEnd, ok, decide_eq_true done]
    rfl
  · change execContextSaveDone slice u s = _
    have mine : c.saving.contains u = true := List.contains_iff_mem.2 saving
    have none' : x.insns.any handedOff = false := List.any_eq_false.2 fun e he => Bool.eq_false_iff.1 (here e he)
    simp only [execContextSaveDone, hc, hx, mine, idle, none']
    rfl
  · change execContextLoadDone slice u s = _
    have mine : c.loading.contains u = true := List.contains_iff_mem.2 loading
    have none' : (stepFree s).contexts.any (fun k => k.saving.contains u) = false := List.any_eq_false.2 fun k hk => by simpa using saved k hk
    have place : (c.resident || decide (((stepFree s).contexts.filter (fun k => k.resident || !k.saving.isEmpty)).length < 128)) = true := by
      rw [Bool.or_eq_true, decide_eq_true_eq]
      exact room
    simp only [execContextLoadDone, hc, mine, none', place, Option.isNone_iff_eq_none]
    rfl
  · change execResurfaceZeroDone slice c s = _
    have due : ¬(r.chair ≠ chairOf s ∨ tickOf s < 33 ∨ r.clusters.contains c = false ∨ r.zeroed.contains c = true) := by
      simp [chair, Nat.not_lt.2 late, mine, new]
    simp only [execResurfaceZeroDone, hsl, Option.bind_some, hr, if_neg due]
  · rw [clearCluster_sram] at he
    have kept := (List.mem_filter.1 he).2
    rwa [bne_eq_false_iff_eq.2 hc, Bool.false_or] at kept

end Sys2Proof.Machine

/-! PROOFS. Memory accesses from the fabric (spec/08, spec/09) -/

namespace Sys2Proof.Machine

/-! ### Packets that arrive (R317, R318, R321) -/

theorem acceptType_of_silent {s : State} (h : serves s = false) (type : Nat) (p : Packet) (act : State → State) : acceptType type p act s = .next s := by
  simp [acceptType, h]

theorem acceptType_of_cause {s : State} {p : Packet} {c : Nat} (h : serves s = true) (hc : headerCause s p = some c) (act : State → State) :
    acceptType p.type p act s = .next (refuse p c s) := by
  simp [acceptType, h, hc]

/-- Each of the four memory accesses does its step on a packet of its own type. -/
theorem exec_access {c : Instr} {p : Packet}
    (h : (c, p.type) ∈ [(Instr.fabricRead p, 1), (.fabricWrite p, 2), (.fabricAtom p, 3), (.fabricReduce p, 4)]) (s : State) :
    exec c s = acceptType p.type p (fun s => memAccess p s) s := by
  simp only [List.mem_cons, Prod.mk.injEq, List.not_mem_nil, or_false] at h
  rcases h with ⟨rfl, type⟩ | ⟨rfl, type⟩ | ⟨rfl, type⟩ | ⟨rfl, type⟩ <;> rw [type] <;> rfl

/-! ### Memory accesses (R309 to R311, R330) -/

section
variable {s : State} {p : Packet}

/-- The piece of this node's memory that a local address names. -/
def localPiece (s : State) (p : Packet) : Piece :=
  { va := 0, pa := ownNode s * 2 ^ 52 + paLocal p.addr, len := accessLen p, key := packetKey s p }

theorem memAccess_of_local (win : p.winv = false) : memAccess p s =
    if nodeBytes s < paLocal p.addr + accessLen p then refuse p 0x106 s else goAccess 2048 p [localPiece s p] (fun s => s) s := by
  rw [memAccess, if_neg (Bool.eq_false_iff.1 win)]
  rfl

theorem memAccess_of_refused_window {c : Nat} (win : p.winv = true) (h : windowCheck (stepFree s) p = .error c) :
    memAccess p s = countRefusal p.win (refuse p c (stepFree s)) := by
  simp only [memAccess, win, h]
  rfl

theorem memAccess_of_unmapped_window {sl : Slice} {va : Nat} {st : Stop} (win : p.winv = true) (h : windowCheck (stepFree s) p = .ok (sl, va))
    (hx : xlatBound (stepFree s) .l2 sl true (windowAccess p.type) va (accessLen p) = .error st) : memAccess p s =
      countRefusal p.win (refuse p 0x10B (writeRecord (unmappedRecord (stepFree s) sl (windowAccess p.type) va (p.addr % 2 ^ 40)) (stepFree s))) := by
  simp only [memAccess, win, h, hx]
  rfl

theorem memAccess_of_window {sl : Slice} {va : Nat} {ps : List Piece} (win : p.winv = true) (h : windowCheck (stepFree s) p = .ok (sl, va))
    (hx : xlatBound (stepFree s) .l2 sl true (windowAccess p.type) va (accessLen p) = .ok ps) : memAccess p s =
      goAccess sl.id p ps (fun t => logWrite (.remote p) sl (windowAccess p.type) va (accessLen p) (cachePages .l2 sl va (accessLen p) t)) (stepFree s) := by
  simp only [memAccess, win, h, hx]
  rfl

end

/-! ### A local write (R309, R330) -/

theorem paNode_of_local {n a : Nat} (h : n < 4096) : paNode (n * 2 ^ 52 + paLocal a) = n := by
  have ha : paLocal a < 2 ^ 52 := Nat.mod_lt _ (by decide)
  rw [paNode, bitsOf, Nat.shiftRight_eq_div_pow]
  omega

theorem paLocal_of_local (n a : Nat) : paLocal (n * 2 ^ 52 + paLocal a) = paLocal a := by
  simp only [paLocal, bitsOf, Nat.shiftRight_zero]
  omega

/-- A range that crosses no 256-byte boundary is one request. -/
theorem chunks_of_within {a n : Nat} (pos : 0 < n) (h : a % 256 + n ≤ 256) : chunks 512 n a n = [(a, n)] := by
  obtain ⟨m, rfl⟩ := Nat.exists_eq_add_of_lt pos
  have whole : min (0 + m + 1) (512 - a % 512) = 0 + m + 1 := by omega
  rw [show (0 + m + 1) = m + 1 from by omega] at whole ⊢
  rw [chunks, if_neg (by omega)]
  simp only [whole, Nat.sub_self]
  cases m <;> simp [chunks]

/-- What memory holds after a write depends on what it held, and on the keys. -/
theorem writeLines_mem_congr {s t : State} (hm : t.mem = s.mem) (hk : t.memKeys = s.memKeys) (keys : t.keys = s.keys) (slot : Nat) (ls : List Nat) :
    (writeLines t slot ls).mem = (writeLines s slot ls).mem := by
  induction ls generalizing s t with
  | nil => exact hm
  | cons l ls ih =>
    have number : keyNumber t slot = keyNumber s slot := by rw [keyNumber, keyNumber, keys]
    simp only [writeLines, hm, hk, number]
    split
    · exact ih hm hk keys
    · exact ih rfl rfl keys

theorem memWrite_mem_congr {s t : State} (hm : t.mem = s.mem) (hk : t.memKeys = s.memKeys) (keys : t.keys = s.keys) (addr slot : Nat) (data : List Byte) :
    (memWrite addr slot data t).mem = (memWrite addr slot data s).mem := by
  simp only [memWrite, writeLines_mem_congr hm hk keys]

theorem noteCorrection_only (p : Packet) (s : State) : ∃ x, noteCorrection p s = { s with slices := x } := by
  unfold noteCorrection
  split
  · split
    · exact ⟨_, rfl⟩
    · exact ⟨s.slices, rfl⟩
  · exact ⟨s.slices, rfl⟩

/-- Writing memory does not look at the ports. -/
theorem writeLines_mp (s : State) (q : MemPorts) (slot : Nat) (ls : List Nat) :
    writeLines { s with mp := q } slot ls = { writeLines s slot ls with mp := q } := by
  induction ls generalizing s with
  | nil => rfl
  | cons l ls ih =>
    have number : keyNumber { s with mp := q } slot = keyNumber s slot := rfl
    simp only [writeLines, number]
    split
    · exact ih s
    · exact ih { s with mem := Sparse.delRange s.mem (l * 64) 64, memKeys := Sparse.put s.memKeys l (slot, keyNumber s slot) }

theorem memWrite_mp (s : State) (q : MemPorts) (addr slot : Nat) (data : List Byte) :
    memWrite addr slot data { s with mp := q } = { memWrite addr slot data s with mp := q } := by
  simp only [memWrite, writeLines_mp]

theorem freeTag_of_idle {q : MemPorts} (h : q.out = []) (port : Nat) : freeTag q port 1024 0 = some 0 := if_pos (by rw [tagFree, h]; rfl)

/-- A write with nothing else outstanding goes to its port at once, and to memory. -/
theorem mpRequest_of_write {s : State} {r : MemReq} (out : s.mp.out = []) (queue : s.mp.queue = []) (write : r.write = true) (rmw : r.rmw = none) :
    ∃ r', r'.owner = r.owner ∧ mpRequest [r] s = { memWrite r.addr r.key r.data s with mp := { s.mp with out := [r'], queue := [] } } := by
  refine ⟨{ r with slice := ownerSlice s r.owner, era := ownerEra s r.owner, tag := 0 }, rfl, ?_⟩
  simp only [mpRequest, drainPorts, List.map_cons, List.map_nil, queue, List.nil_append, drainList, conflicts, out, List.any_nil, Bool.false_eq_true,
    if_false, freeTag_of_idle, issueReq, write, rmw, Bool.not_true, memWrite_mp]

section
variable {s : State} {p : Packet}

theorem goAccess_of_sound {slice : Nat} {ps : List Piece} {log : State → State} (sound : p.badSyms < 2) (epoch : p.epoch = 0) :
    goAccess slice p ps log s = settleGather (pieceAccess slice p ps (log (openGather (.remote p) (noteCorrection p s)))) := by
  have whole : ¬(p.badSyms = 2 ∧ p.type ≠ 1) := by omega
  have room : counterFull s p = false := by simp [counterFull, epoch]
  have alloc : (if p.type = 2 then allocCounter p s else s) = s := by simp [allocCounter, epoch]
  simp only [goAccess, if_neg whole, room, alloc]
  rfl

/-- A write that passes the checks of its header names its bytes, inside 256 of them (R318, R321). -/
theorem write_fields (h : headerCause s p = none) (type : p.type = 2) : 1 ≤ p.len ∧ p.addr % 256 + p.len ≤ 256 ∧ p.payload.length = p.len := by
  have ok : fieldsOk p = true := by
    by_contra bad
    simp only [headerCause, Bool.eq_false_iff.2 bad] at h
    split_ifs at h with h1 h2 h3 h4
    exact h4 rfl
  simp only [fieldsOk, type, Bool.and_eq_true, decide_eq_true_eq, within256, beq_iff_eq] at ok
  obtain ⟨-, ⟨pos, fits⟩, data⟩ := ok
  exact ⟨pos, fits, data⟩

/-- A request that is outstanding keeps its answer back. -/
theorem settleGather_of_outstanding {o : Owner} (h : s.mp.gather = [{ owner := o }]) (out : outstanding s o = true) :
    settleGather s = { s with mp := { s.mp with gather := [{ owner := o }] } } := by
  simp [settleGather, h, giveAnswers, out]

theorem writeReqs_of_within {a key : Nat} {data : List Byte} (o : Owner) (pos : 0 < data.length) (h : a % 256 + data.length ≤ 256) :
    ∃ r, writeReqs a key data o = [r] ∧ r.addr = a ∧ r.key = key ∧ r.data = data ∧ r.write = true ∧ r.rmw = none ∧ r.owner = o := by
  refine ⟨_, by rw [writeReqs, chunks_of_within pos h]; rfl, rfl, rfl, ?_, rfl, rfl, rfl⟩
  simp

/-- A local write that nothing else is outstanding before changes memory as `memWrite` does, at once. -/
theorem goAccess_of_write (passes : headerCause s p = none) (type : p.type = 2) (node : ownNode s < 4096) (sound : p.badSyms < 2) (epoch : p.epoch = 0)
    (out : s.mp.out = []) (queue : s.mp.queue = []) (gather : s.mp.gather = []) : ∃ q x k,
    goAccess 2048 p [localPiece s p] (fun s => s) s =
      { s with slices := x, mem := (memWrite (paLocal p.addr) (packetKey s p) p.payload s).mem, memKeys := k, mp := q } := by
  obtain ⟨x, hx⟩ := noteCorrection_only p s
  obtain ⟨pos, fits, data⟩ := write_fields passes type
  have len : accessLen p = p.len := if_neg (by omega)
  have low : paLocal p.addr % 256 = p.addr % 256 := by
    simp only [paLocal, bitsOf, Nat.shiftRight_zero]
    omega
  obtain ⟨r, hr, addr, key, bytes, write, rmw, owner⟩ := writeReqs_of_within (a := paLocal p.addr) (key := packetKey s p) (.remote p)
    (data.symm ▸ pos) (by rw [low, data]; exact fits)
  obtain ⟨r', owner', hm⟩ := mpRequest_of_write (s := openGather (.remote p) { s with slices := x }) (r := r) out queue write rmw
  obtain ⟨m, k, hw⟩ := memWrite_only r.addr r.key r.data (openGather (.remote p) { s with slices := x })
  have mem : m = (memWrite (paLocal p.addr) (packetKey s p) p.payload s).mem := by
    have same := congrArg State.mem hw
    rw [addr, key, bytes] at same
    exact same.symm.trans (memWrite_mem_congr (s := s) (t := openGather (.remote p) { s with slices := x }) rfl rfl rfl _ _ _)
  have piece : pieceAccess 2048 p [localPiece s p] (openGather (.remote p) { s with slices := x }) =
      mpRequest [r] (openGather (.remote p) { s with slices := x }) := by
    have here : paNode (localPiece s p).pa = ownNode (openGather (.remote p) { s with slices := x }) := paNode_of_local node
    have all : (p.payload.drop 0).take (localPiece s p).len = p.payload := by
      rw [List.drop_zero]
      exact List.take_of_length_le (by rw [data]; exact len.ge)
    have place : paLocal (localPiece s p).pa = paLocal p.addr := paLocal_of_local _ _
    simp only [pieceAccess, List.foldl_cons, List.foldl_nil, type, all, writePiece, if_pos here, place]
    exact congrArg (fun rs => mpRequest rs _) hr
  rw [goAccess_of_sound sound epoch, hx, piece, hm, hw, settleGather_of_outstanding (o := .remote p)]
  · exact ⟨_, x, k, by rw [mem]; rfl⟩
  · exact congrArg (· ++ [({ owner := .remote p } : Gather)]) gather
  · simp [outstanding, owner', owner]

end

/-- Settles O38. -/
theorem fabricAccessesAreServed : Obligations.FabricAccessesAreServed := by
  intro s p c hc
  have run := exec_access hc s
  obtain ⟨o, x, note⟩ := notePeer_only p s
  have start : Arrives s p p.type → exec c s = .next (memAccess p (notePeer p s)) := fun arrives => run.trans (acceptType_at arrives)
  have here : localPiece (notePeer p s) p = localPiece s p := by rw [note]; rfl
  have bytes : nodeBytes (notePeer p s) = nodeBytes s := by rw [note]; rfl
  refine ⟨fun silent => run.trans (acceptType_of_silent silent _ _ _), fun cause up hd => run.trans (acceptType_of_cause up hd _),
    fun arrives win => ⟨fun out => ?_, fun inside => ?_⟩, fun arrives win => ⟨fun cause h => ?_, fun sl va h => ⟨fun st hx => ?_, fun ps hx => ?_⟩⟩,
    fun arrives type win inside node sound epoch idle => ?_⟩
  · refine (start arrives).trans (congrArg _ ((memAccess_of_local win).trans (if_pos ?_)))
    rwa [bytes]
  · refine (start arrives).trans (congrArg _ ((memAccess_of_local win).trans ((if_neg ?_).trans (by rw [here]; rfl))))
    rw [bytes]
    exact Nat.not_lt.2 inside
  · exact (start arrives).trans (congrArg _ (memAccess_of_refused_window win h))
  · exact (start arrives).trans (congrArg _ (memAccess_of_unmapped_window win h hx))
  · exact (start arrives).trans (congrArg _ (memAccess_of_window win h hx))
  · have passes : headerCause (notePeer p s) p = none := by
      rw [note]
      exact arrives.passes
    obtain ⟨q, y, k, done⟩ := goAccess_of_write passes type (by rw [note]; exact node) sound epoch (by rw [note]; exact congrArg MemPorts.out idle)
      (by rw [note]; exact congrArg MemPorts.queue idle) (by rw [note]; exact congrArg MemPorts.gather idle)
    refine ⟨goAccess 2048 p [localPiece (notePeer p s) p] (fun s => s) (notePeer p s), (start arrives).trans (congrArg _
      ((memAccess_of_local win).trans (if_neg ?_))), ?_⟩
    · rw [bytes]
      exact Nat.not_lt.2 inside
    · have mem : (memWrite (paLocal p.addr) (packetKey (notePeer p s) p) p.payload (notePeer p s)).mem =
          (memWrite (paLocal p.addr) (packetKey s p) p.payload s).mem := by
        rw [note]
        exact memWrite_mem_congr (s := s) (t := { s with sent := o, slices := x }) rfl rfl rfl _ _ _
      rw [done, mem, note]
      exact ⟨rfl, rfl, rfl, rfl, rfl⟩

end Sys2Proof.Machine

/-! PROOFS. Signals, gates, notices and answers (spec/07, spec/09, spec/13) -/

namespace Sys2Proof.Machine

/-! ### Signals and gates from the fabric (R255 to R261, R265 to R267) -/

theorem noteCorrection_of_clean {p : Packet} (h : p.badSyms = 0) (s : State) : noteCorrection p s = s := by
  simp [noteCorrection, h]

theorem checkedPayload_of_clean {p : Packet} (h : p.badSyms = 0) (act : State → State) (s : State) : checkedPayload p act s = act s := by
  simp [checkedPayload, h, noteCorrection_of_clean h]

/-- A fenced signal that finds room, and its counter, is held until its writes have landed (R258). -/
theorem holdSignal_of_room {p : Packet} {s : State} {u : UnitId} (room : (s.held.filter (fun h => decide (h.unit = u))).length < 32)
    (counter : hasCounter s p = true) (sl i need : Nat) : holdSignal p sl u i need s = releaseHeld p.snode p.epoch { s with held := s.held ++
      [{ unit := u, slice := sl, source := p.snode, epoch := p.epoch, need := need, tally := i, amount := byteField p.payload 4 2
         since := now s, request := p }] } := by
  have go : ¬(32 ≤ (s.held.filter (fun h => decide (h.unit = u))).length ∨ (!hasCounter s p ∧ 256 ≤ s.counters.length)) := by
    simp [counter, Nat.not_le.2 room]
  have alloc : ∀ hs, allocCounter p { s with held := hs } = { s with held := hs } := fun hs => if_pos (.inr counter)
  simp only [holdSignal, if_neg go, alloc]

/-- Settles O39. -/
theorem fabricSignalsAndGates : Obligations.FabricSignalsAndGates := by
  refine ⟨fun s p arrives clean => ?_, fun s p a arrives clean low high gate live => ?_, fun s p gate gen arrives clean => ⟨fun sl tag => ?_, fun tag => ?_⟩,
    fun s u src ep h hh => ⟨fun early => ?_, fun late => ?_⟩⟩
  · have sig : exec (.fabricSig p) s = .next (takeSignal p (notePeer p s)) := acceptType_at arrives
    refine ⟨fun none' => sig.trans (congrArg _ ?_), fun sl u i target => ⟨fun epoch => sig.trans (congrArg _ ?_),
      fun epoch need => sig.trans (congrArg _ ?_), fun need epoch room counter => sig.trans (congrArg _ ?_)⟩⟩
    · simp only [takeSignal, none']
    · simp only [takeSignal, target, clean, noteCorrection_of_clean clean, epoch]
      rfl
    · simp only [takeSignal, target, clean, noteCorrection_of_clean clean, need, if_neg epoch]
      rfl
    · obtain ⟨o, x, note⟩ := notePeer_only p s
      have hold := holdSignal_of_room (s := notePeer p s) (p := p) (u := u) (by rw [note]; exact room) (by rw [note]; exact counter) sl i
        (byteField p.payload 8 3)
      have time : now (notePeer p s) = now s := by rw [note]; rfl
      rw [time] at hold
      simp only [takeSignal, target, clean, noteCorrection_of_clean clean, if_neg need, if_neg epoch]
      exact hold
  · have arrive : exec (.gateArrive p a) s = .next (takeArrival p a (notePeer p s)) := acceptType_at arrives
    have inRange : ¬(a.expected = 0 ∨ 4096 < a.expected ∨ 1024 ≤ a.gate) := by omega
    refine ⟨fun g hg => arrive.trans (congrArg _ ?_), fun cause hc => arrive.trans (congrArg _ ?_)⟩
    · simp only [takeArrival, if_neg inRange, live, hg, clean, noteCorrection_of_clean clean]
      simp
    · simp only [takeArrival, if_neg inRange, live, hc]
      simp
  · obtain ⟨serving, typed, passes⟩ := arrives
    change execGateRelease p gate gen s = _
    simp [execGateRelease, serving, typed, passes, clean, tag, noteCorrection_of_clean clean]
  · obtain ⟨serving, typed, passes⟩ := arrives
    change execGateRelease p gate gen s = _
    simp [execGateRelease, serving, typed, passes, clean, tag]
  · change execSyncOrder u src ep s = _
    simp only [execSyncOrder, hh, if_pos early]
  · change execSyncOrder u src ep s = _
    simp only [execSyncOrder, hh, if_neg (Nat.not_lt.2 late)]

/-! ### Notices, part traffic, the tether and answers (R319, R320, R322, R323) -/

theorem exec_tether_at {s : State} {p : Packet} (h : Arrives s p 9) (m : TetherMsg) : exec (.tether p m) s =
    .next (if !tetherSource (notePeer p s) p then refuseTether p m (notePeer p s)
      else checkedPayload p (fun s => takeTether p.snode m (respond p 0 0 [] s)) (notePeer p s)) :=
  acceptType_at (act := fun s => if !tetherSource s p then refuseTether p m s
    else checkedPayload p (fun s => takeTether p.snode m (respond p 0 0 [] s)) s) h

/-- Settles O40. -/
theorem noticesAndAnswers : Obligations.NoticesAndAnswers := by
  refine ⟨fun s p arrives clean => ⟨fun abort => ?_, fun restart => ?_⟩, fun s p m arrives clean => ⟨fun part => ?_, fun part => ?_⟩,
    fun s p m arrives => ⟨fun node => ?_, fun node clean => ?_⟩, fun s p t ht => ⟨fun retry kept => ?_, fun ok clean => ?_⟩,
    fun s id due t ht hd => ⟨fun early => ?_, fun late => ?_⟩⟩
  · refine (acceptType_at arrives).trans (congrArg _ ?_)
    rw [if_pos abort, checkedPayload_of_clean clean]
  · refine (acceptType_at arrives).trans (congrArg _ ?_)
    rw [if_pos restart, checkedPayload_of_clean clean]
  · refine (acceptType_at arrives).trans (congrArg _ ?_)
    rw [checkedPayload_of_clean clean, if_pos part]
  · refine (acceptType_at arrives).trans (congrArg _ ?_)
    rw [checkedPayload_of_clean clean, if_neg (Bool.eq_false_iff.1 part)]
  · obtain ⟨o, x, note⟩ := notePeer_only p s
    have other : tetherSource (notePeer p s) p = false := by
      rw [note]
      simpa [tetherSource] using node
    refine (exec_tether_at arrives m).trans (congrArg _ (if_pos ?_))
    rw [other]
    rfl
  · obtain ⟨o, x, note⟩ := notePeer_only p s
    have twin : tetherSource (notePeer p s) p = true := by
      rw [note]
      simpa [tetherSource] using node
    refine (exec_tether_at arrives m).trans (congrArg _ ((if_neg ?_).trans (checkedPayload_of_clean clean _ _)))
    rw [twin]
    exact Bool.false_ne_true
  · change Host.Outcome.next (settleFailover (takeResponse p s)) = _
    simp only [takeResponse, ht, retry, kept]
    rfl
  · change Host.Outcome.next (settleFailover (takeResponse p s)) = _
    simp only [takeResponse, ht, ok, clean, answered]
    simp
  · change execFabricRetryResend id s = _
    simp only [execFabricRetryResend, ht, hd, if_pos early]
  · change execFabricRetryResend id s = _
    simp only [execFabricRetryResend, ht, hd, if_neg (Nat.not_lt.2 late)]

end Sys2Proof.Machine

/-! PROOFS. Links, frames, routes and lanes (spec/09) -/

namespace Sys2Proof.Machine

/-! ### Frames (R342 to R344) -/

/-- The symbols and the codewords that the receiver of a port group counts (R342); a die-to-die port has no codewords. -/
def heard (g : Nat) (f : Frame) (s : State) : State :=
  if g < 8 then mapGroup g (fun y => { y with fecSym := y.fecSym + fecSym f, fecUnc := y.fecUnc + fecUnc f }) s else s

/-- What a link checks of a frame: its codewords and its tag where it has them, its shape and its CRC (R315, R342, R344). -/
def frameBad (s : State) (g : Nat) (f : Frame) : Bool :=
  (decide (g < 8) && (decide (0 < fecUnc f) || ((groupAt s g).enc && !f.tagOk))) || !frameShape f || !frameCrc f

theorem fecUnc_pos {f : Frame} : 0 < fecUnc f ↔ ∃ n ∈ f.codewords, 15 < n := by
  simp [fecUnc, List.length_pos_iff_exists_mem]

theorem exec_linkFrame_of_deaf {s : State} {g : Nat} (hg : g < 11) (deaf : linkHears s g = false) (f : Frame) :
    exec (.linkFrame g f) s = .next s := by
  change execLinkFrame g f s = _
  simp only [execLinkFrame, if_neg (Nat.not_le.2 hg), deaf]
  rfl

theorem exec_linkFrame_of_bad {s : State} {g : Nat} {f : Frame} (hg : g < 11) (hears : linkHears s g = true) (bad : frameBad s g f = true) :
    exec (.linkFrame g f) s = .next (discardFrame g f (heard g f s)) := by
  change execLinkFrame g f s = _
  simp only [execLinkFrame, if_neg (Nat.not_le.2 hg), hears]
  exact if_pos bad

theorem exec_linkFrame_of_good {s : State} {g : Nat} {f : Frame} (hg : g < 11) (hears : linkHears s g = true) (good : frameBad s g f = false) :
    exec (.linkFrame g f) s = .next (releaseWaiting (flushOutbox (
      let s2 := mapGroup g (takeAckSeq (BitVec.ofNat 12 (bitsOf 23 12 f.tag.toNat))) (heard g f s)
      let s3 := if bitOf 24 f.tag.toNat then replay g s2 else s2
      if BitVec.ofNat 12 f.tag.toNat = (groupAt s3 g).rxSeq + 1 then acceptFrame g f s3 else s3))) := by
  change execLinkFrame g f s = _
  simp only [execLinkFrame, if_neg (Nat.not_le.2 hg), hears]
  exact if_neg (Bool.eq_false_iff.1 good)

theorem frameBad_of_check {s : State} {g : Nat} {f : Frame}
    (h : (g < 8 ∧ ((∃ n ∈ f.codewords, 15 < n) ∨ ((groupAt s g).enc = true ∧ f.tagOk = false))) ∨ frameShape f = false ∨ frameCrc f = false) :
    frameBad s g f = true := by
  rw [← fecUnc_pos] at h
  simpa [frameBad, or_assoc] using h

theorem frameBad_of_whole {s : State} {g : Nat} {f : Frame}
    (codes : g < 8 → (∀ n ∈ f.codewords, n ≤ 15) ∧ ((groupAt s g).enc = true → f.tagOk = true))
    (shape : frameShape f = true) (crc : frameCrc f = true) : frameBad s g f = false := by
  have unc : g < 8 → fecUnc f = 0 := fun hg => by
    refine Nat.eq_zero_of_not_pos fun hp => ?_
    obtain ⟨n, hn, big⟩ := fecUnc_pos.1 hp
    exact absurd ((codes hg).1 n hn) (Nat.not_le.2 big)
  have tag := fun hg => (codes hg).2
  simp only [frameBad, shape, crc, Bool.not_true, Bool.or_false, Bool.and_eq_false_iff, decide_eq_false_iff_not, Bool.or_eq_false_iff]
  by_cases hg : g < 8
  · refine .inr ⟨by simp [unc hg], ?_⟩
    cases henc : (groupAt s g).enc
    · exact .inl rfl
    · simp [tag hg henc]
  · exact .inl hg

/-! ### Routes (R340) -/

/-- The first of two paths by R340: fewer hops, then the lower port. -/
def routeLe (q p : Nat × Nat × Nat) : Prop := q.2.2 < p.2.2 ∨ (q.2.2 = p.2.2 ∧ q.2.1 ≤ p.2.1)

/-- The choice that `bestRoute` makes path by path. -/
def shorterOf (m : Option (Nat × Nat × Nat)) (p : Nat × Nat × Nat) : Option (Nat × Nat × Nat) :=
  match m with
  | none => some p
  | some q => if p.2.2 < q.2.2 ∨ (p.2.2 = q.2.2 ∧ p.2.1 < q.2.1) then some p else some q

theorem bestRoute_eq (paths : List (Nat × Nat × Nat)) (b : Nat) :
    bestRoute paths b = ((paths.filter (fun p => p.1 == b)).foldl shorterOf none).map (fun p => (b, p.2.1)) := rfl

theorem routeLe_trans {a b c : Nat × Nat × Nat} (h : routeLe a b) (k : routeLe b c) : routeLe a c := by
  unfold routeLe at *
  omega

theorem shorterOf_some (q p : Nat × Nat × Nat) : ∃ r, shorterOf (some q) p = some r ∧ (r = q ∨ r = p) ∧ routeLe r q ∧ routeLe r p := by
  by_cases h : p.2.2 < q.2.2 ∨ (p.2.2 = q.2.2 ∧ p.2.1 < q.2.1)
  · exact ⟨p, if_pos h, .inr rfl, by unfold routeLe; omega, by unfold routeLe; omega⟩
  · exact ⟨q, if_neg h, .inl rfl, by unfold routeLe; omega, by unfold routeLe; omega⟩

theorem foldl_shorterOf_some (l : List (Nat × Nat × Nat)) (q : Nat × Nat × Nat) :
    ∃ r, l.foldl shorterOf (some q) = some r ∧ (r = q ∨ r ∈ l) ∧ routeLe r q ∧ ∀ p ∈ l, routeLe r p := by
  induction l generalizing q with
  | nil => exact ⟨q, rfl, .inl rfl, .inr ⟨rfl, le_rfl⟩, by simp⟩
  | cons p l ih =>
    obtain ⟨m, hm, mem, mq, mp⟩ := shorterOf_some q p
    obtain ⟨r, hr, rmem, rm, all⟩ := ih m
    refine ⟨r, by rw [List.foldl_cons, hm, hr], ?_, routeLe_trans rm mq, List.forall_mem_cons.2 ⟨routeLe_trans rm mp, all⟩⟩
    rcases rmem with rfl | h
    · exact mem.imp_right (fun e => List.mem_cons.2 (.inl e))
    · exact .inr (List.mem_cons_of_mem _ h)

theorem foldl_shorterOf {l : List (Nat × Nat × Nat)} {r : Nat × Nat × Nat} (h : l.foldl shorterOf none = some r) :
    r ∈ l ∧ ∀ p ∈ l, routeLe r p := by
  cases l with
  | nil => cases h
  | cons q l =>
    obtain ⟨m, hm, mem, mq, all⟩ := foldl_shorterOf_some l q
    obtain rfl : m = r := Option.some.inj (hm.symm.trans h)
    exact ⟨List.mem_cons.2 mem, List.forall_mem_cons.2 ⟨mq, all⟩⟩

theorem bestRoute_first {paths : List (Nat × Nat × Nat)} {b port : Nat} (h : bestRoute paths b = some (b, port)) :
    ∃ hops, (b, port, hops) ∈ paths ∧ ∀ p ∈ paths, p.1 = b → routeLe (b, port, hops) p := by
  rw [bestRoute_eq, Option.map_eq_some_iff] at h
  obtain ⟨⟨a, i, hops⟩, hr, e⟩ := h
  obtain ⟨-, rfl⟩ := Prod.mk.inj e
  obtain ⟨kept, all⟩ := foldl_shorterOf hr
  obtain ⟨mem, ha⟩ := List.mem_filter.1 kept
  obtain rfl : a = b := eq_of_beq ha
  exact ⟨hops, mem, fun p hp hb => all p (List.mem_filter.2 ⟨hp, by simpa using hb⟩)⟩

/-! ### Lanes (R347 to R350, R519) -/

theorem mapLane_only {s : State} {k : Nat} (f : Lane → Lane) (h : Sparse.sorted s.fab.lanes = true) :
    laneAt (mapLane k f s) k = f (laneAt s k) ∧ (∀ j, j ≠ k → laneAt (mapLane k f s) j = laneAt s j) ∧ { mapLane k f s with fab := s.fab } = s :=
  ⟨laneAt_setLane_self _ h, fun _ hj => laneAt_setLane_ne _ hj, rfl⟩

theorem exec_lane_of_absent {k : Nat} (hk : 48 ≤ k) (s : State) (a b : Bool) : exec (.laneSignalChange k a b) s = .fault .noSuchPlace ∧
    exec (.laneInject k) s = .fault .noSuchPlace ∧ exec (.laneCheckerLock k) s = .fault .noSuchPlace ∧
    exec (.laneCheckerLoss k) s = .fault .noSuchPlace :=
  ⟨if_pos hk, if_pos hk, if_pos hk, if_pos hk⟩

theorem exec_laneSignalChange {k : Nat} (hk : k < 48) (s : State) (a b : Bool) :
    exec (.laneSignalChange k a b) s = .next (mapLane k (fun x => { x with sigdet := a, cdrLock := b }) s) := if_neg (Nat.not_le.2 hk)

theorem exec_laneInject {k : Nat} (hk : k < 48) (s : State) : exec (.laneInject k) s = .next (if injects s k then
    emit (.injected k (if (laneAt s k).injKind = 2 then (laneAt s k).injLen else 1)) (mapLane k (fun x => { x with
      injected := min (x.injected + (if x.injKind = 2 then x.injLen else 1)) (2 ^ 48 - 1) }) s) else s) := by
  refine (if_neg (Nat.not_le.2 hk)).trans ?_
  cases injects s k <;> rfl

theorem exec_laneCheckerLock {k : Nat} (hk : k < 48) {s : State} (runs : 2 ≤ (laneAt s k).mode) :
    exec (.laneCheckerLock k) s = .next (mapLane k (fun x => { x with lock := true }) s) :=
  (if_neg (Nat.not_le.2 hk)).trans (if_pos (decide_eq_true runs))

theorem exec_laneCheckerLoss_of_unlocked {k : Nat} (hk : k < 48) {s : State} (h : (laneAt s k).mode < 2 ∨ (laneAt s k).lock = false) :
    exec (.laneCheckerLoss k) s = .next s := by
  refine (if_neg (Nat.not_le.2 hk)).trans (if_neg ?_)
  rcases h with h | h <;> simp [checks, h]

/-- What a checker that loses its lock has counted (R349, log 43). -/
def lossOf (free : Nat) (x : Lane) : Lane := { x with
  lock := false, loss := true, errs := min (max 256 (x.errs + Config.freeNat free)) (2 ^ 48 - 1)
  bits := min (max 256 (x.bits + Config.freeNat (free + 1))) (2 ^ 48 - 1) }

theorem exec_laneCheckerLoss {k : Nat} (hk : k < 48) {s : State} (runs : 2 ≤ (laneAt s k).mode) (lock : (laneAt s k).lock = true) :
    exec (.laneCheckerLoss k) s = .next (mapLane k (lossOf s.free) { s with free := s.free + 2 }) :=
  (if_neg (Nat.not_le.2 hk)).trans (if_pos (by simp [checks, runs, lock]))

/-- Settles O41. -/
theorem linksAndLanes : Obligations.LinksAndLanes := by
  refine ⟨fun s g hg => ⟨fun f deaf => exec_linkFrame_of_deaf hg deaf f, fun f hears bad => exec_linkFrame_of_bad hg hears (frameBad_of_check bad),
      fun f hears codes shape crc => ?_⟩, fun s g hg => ?_, fun paths b port h => bestRoute_first h, fun s k sorted => ?_⟩
  · have run := exec_linkFrame_of_good hg hears (frameBad_of_whole codes shape crc)
    exact ⟨fun inOrder => run.trans (congrArg _ (congrArg _ (congrArg _ (if_pos inOrder)))),
      fun out => run.trans (congrArg _ (congrArg _ (congrArg _ (if_neg out))))⟩
  · have there : ¬8 ≤ g := Nat.not_le.2 hg
    refine ⟨fun retrain => ⟨?_, ?_⟩, fun st exiting empty => ?_, fun lanes node session phase down signal plain => ?_, fun ok phase => ?_,
      fun enc => ⟨?_, rfl, rfl⟩, fun port status present paths hp => ?_⟩
    · change execLinkRetrainDone g true s = _
      simp only [execLinkRetrainDone, if_neg there, retrain]
      rfl
    · change execLinkRetrainDone g false s = _
      simp only [execLinkRetrainDone, if_neg there, retrain]
      rfl
    · have go : ¬((groupAt s g).ls = 0 ∧ (!(groupAt s g).unacked.isEmpty) = true) := by
        rintro ⟨ls, un⟩
        rcases empty with h | h
        · exact h ls
        · simp [h] at un
      change execLaneStateExitDone g s = _
      simp only [execLaneStateExitDone, if_neg there, exiting, if_neg go]
    · have seen : (List.range 6).any (fun k => (laneAt s (6 * g + k)).sigdet) = true := by
        obtain ⟨k, hk, sig⟩ := signal
        exact List.any_eq_true.2 ⟨k, List.mem_range.2 hk, sig⟩
      have ready : ¬(s.boot.phase < 7 ∨ (groupAt s g).up = true ∨ (!(List.range 6).any (fun k => (laneAt s (6 * g + k)).sigdet)) = true) := by
        simp [down, seen, Nat.not_lt.2 phase]
      change execFabricTrainingDone g true lanes node session s = _
      simp only [execFabricTrainingDone, if_neg there, if_neg ready, plain]
      rfl
    · exact (if_neg there).trans (if_pos phase)
    · exact (if_neg there).trans (if_neg (by rw [enc]; exact Bool.false_ne_true))
    · exact if_neg (Nat.not_le.2 hp)
  · refine ⟨fun hk a b => exec_lane_of_absent hk s a b, fun hk a b => ⟨_, exec_laneSignalChange hk s a b, mapLane_only _ sorted⟩,
      fun hk inj => ?_, fun hk inj => ?_, fun hk runs => ⟨_, exec_laneCheckerLock hk runs, mapLane_only _ sorted⟩, fun hk runs lock => ?_,
      fun hk off => exec_laneCheckerLoss_of_unlocked hk off⟩
    · obtain ⟨self, others, rest⟩ := mapLane_only (k := k) (fun x => { x with
        injected := min (x.injected + (if x.injKind = 2 then x.injLen else 1)) (2 ^ 48 - 1) }) sorted
      exact ⟨_, (exec_laneInject hk s).trans (congrArg _ (if_pos inj)), self, others, rfl, rfl⟩
    · exact (exec_laneInject hk s).trans (congrArg _ (if_neg (Bool.eq_false_iff.1 inj)))
    · obtain ⟨self, others, rest⟩ := mapLane_only (s := { s with free := s.free + 2 }) (k := k) (lossOf s.free) sorted
      refine ⟨_, exec_laneCheckerLoss hk runs lock, ?_, ?_, ?_, ?_, others, rfl⟩
      · rw [self]; rfl
      · rw [self]; rfl
      · rw [self]
        change min (max 256 (laneAt s k).errs) _ ≤ min (max 256 ((laneAt s k).errs + _)) _
        omega
      · rw [self]
        exact min_le_right _ _

end Sys2Proof.Machine

/-! PROOFS. Reset, mailboxes, rings and interrupts (spec/12, spec/16) -/

namespace Sys2Proof.Machine

/-! ### What reset leaves (spec/16) -/

theorem execFqStatusWrite_of_closed {s : State} (h : hostOpen s = false) (v : Word32) : exec (.fqStatusWrite v) s = .next s :=
  if_neg (Bool.eq_false_iff.1 h)

theorem execReady_of_unelected {s : State} (h : s.boot.elected = false) : exec .ready s = .next s := if_pos (by simp [h])

/-- Settles O56: each part of the reset state is written in the state's own defaults. -/
theorem resetState : Obligations.ResetState := by
  refine ⟨rfl, rfl, rfl, rfl, rfl, rfl, rfl, rfl, rfl, rfl, fun _ => rfl, fun _ => rfl, fun _ => rfl, rfl, rfl, rfl, rfl, rfl, rfl, rfl, rfl,
    fun c hc => ?_⟩
  have which : c = .chairBoundary ∨ c = .ready ∨ c = .fqStatusWrite 0 := by simpa using hc
  rcases which with rfl | rfl | rfl
  · exact execChairBoundary_of_done rfl
  · exact execReady_of_unelected rfl
  · exact execFqStatusWrite_of_closed rfl 0

/-! ### Mailboxes, locks and the shared rings (R387 to R406) -/

@[simp] theorem noteHolder_mailbox (who : Agent) (s : State) (j : Nat) : mailbox (noteHolder who s) j = mailbox s j := by
  unfold noteHolder
  split <;> rfl

theorem noteHolder_chan (who : Agent) (s : State) : ∃ t, (noteHolder who s).chan = { s.chan with lastHostWrite := t } := by
  unfold noteHolder
  split
  · exact ⟨now s, rfl⟩
  · exact ⟨s.chan.lastHostWrite, rfl⟩

/-- What a write of one mailbox leaves, where the rest of the step is no mailbox's affair. -/
theorem setMailbox_only {s t : State} {m : Nat} {b : Mailbox} (sorted : Sparse.sorted s.mbx = true)
    (keeps : ∀ j, mailbox t j = mailbox (setMailbox m b s) j) : mailbox t m = b ∧ ∀ j, j ≠ m → mailbox t j = mailbox s j :=
  ⟨(keeps m).trans (mailbox_setMailbox_self b sorted), fun j hj => (keeps j).trans (mailbox_setMailbox_ne b hj)⟩

theorem lockFree {m : Nat} {s : State} {who : Agent} (h : m = 0 → holdsLock s who 0 = true) : (m != 0 || holdsLock s who 0) = true := by
  by_cases hm : m = 0 <;> simp [hm, h]

theorem writeReqTail_of_host {who : Agent} {s : State} (host : isHost who = true) (isOpen : hostOpen s = true) (rings : s.chan.kind = 0) (v : Word32) :
    writeReqTail who v s =
      if 1 ≤ (v - s.chan.reqTail).toNat ∧ (v - s.chan.reqTail).toNat ≤ 256 - (s.chan.reqTail - s.chan.reqHead).toNat then
        refreshLevels (noteHolder who { s with chan := { s.chan with
          reqTail := v, badWrite := false, writers := s.chan.writers ++ [(v.toNat, who)] } })
      else { s with chan := { s.chan with badWrite := true } } :=
  if_neg (by simp [host, isOpen, rings])

theorem writeRplHead_of_host {who : Agent} {s : State} (host : isHost who = true) (isOpen : hostOpen s = true) (rings : s.chan.kind = 0) (v : Word32) :
    writeRplHead who v s =
      if 1 ≤ (v - s.chan.rplHead).toNat ∧ (v - s.chan.rplHead).toNat ≤ (s.chan.rplTail - s.chan.rplHead).toNat then
        pumpReplies (noteHolder who { s with chan := { s.chan with rplHead := v, badWrite := false } })
      else { s with chan := { s.chan with badWrite := true } } :=
  if_neg (by simp [host, isOpen, rings])

/-- A count that moves by nothing, or by more than the room, is out of R406's range. -/
theorem count_out {d : Word32} {room : Nat} (h : d = 0 ∨ room < d.toNat) : ¬(1 ≤ d.toNat ∧ d.toNat ≤ room) := by
  rcases h with rfl | h
  · simp
  · omega

theorem exec_channelRequestTake_of_go {s : State} (runs : managerRuns s = true) (go : (mailbox s 0).go = true) :
    exec .channelRequestTake s =
      .next (refreshLevels (if s.chan.kind = 1 then takeFormat1 s else if s.chan.kind = 2 then takeFormat2 s else discardMessage s)) :=
  (if_neg (by simp [runs])).trans (if_pos go)

/-- Settles O50. -/
theorem mailboxesAndRings : Obligations.MailboxesAndRings := by
  intro s who m hm sorted
  have there : ¬16 ≤ m := Nat.not_le.2 hm
  refine ⟨fun i v hi reach side go lock used => ⟨_, if_neg (by omega), ?_⟩, fun i v hi shut => (if_neg (by omega)).trans (congrArg _ (if_neg ?_)),
    fun reach side go lock => ⟨_, if_neg there, ?_⟩, fun hm1 reach side go => (if_neg there).trans (congrArg _ ?_),
    fun reach side go => congrArg _ (if_pos ?_), fun n reach n0 nf free => ⟨_, if_neg there, ?_⟩,
    fun n held => (if_neg there).trans (congrArg _ (if_neg ?_)), fun n reach held => (if_neg there).trans (congrArg _ (if_pos ?_)),
    fun n other => (if_neg there).trans (congrArg _ (if_neg ?_)), fun hm1 => (if_neg there).trans (congrArg _ ?_),
    fun t since go late holder => ?_, fun lock exch late => if_pos ?_, fun host isOpen rings v => ⟨fun lo hi => ⟨_, rfl, ?_⟩, fun out => ?_⟩,
    fun host isOpen rings v => ⟨fun lo hi => ?_, fun out => ?_⟩, fun runs rings go => ?_, fun runs go => ⟨fun kind => ?_, fun kind => ?_, fun kind => ?_⟩⟩
  · refine setMailbox_only sorted fun j => ?_
    rw [writeMbxData, if_pos (by simp [reach, side, go, lockFree lock, used])]
    split
    · exact noteHolder_mailbox who _ j
    · rfl
  · rcases shut with h | h | ⟨rfl, h⟩ <;> simp [h]
  · refine setMailbox_only sorted fun j => ?_
    rw [sendMessage, if_pos (by simp [reach, side, go, lockFree lock])]
    change mailbox (if m = 0 then _ else _) j = _
    split
    · exact noteHolder_mailbox who _ j
    · rfl
  · simp only [takeAck, reach, side, go, Bool.and_self, if_true, if_neg hm1]
  · simp [reach, side, go]
  · refine setMailbox_only sorted fun j => ?_
    rw [claimLock, if_pos (by simpa [reach, free] using And.intro n0 nf)]
    split
    · exact noteHolder_mailbox who _ j
    · rfl
  · simp [Option.isNone_iff_eq_none, held]
  · simp [reach, held]
  · simp [other]
  · rw [resetMailbox, if_neg (by omega), if_neg (by omega)]
  · change execMbxReplyTimeout s = _
    have late : t + fiveSeconds ≤ now s := late
    simp [execMbxReplyTimeout, since, go, late, holder]
  · have late : s.chan.lastHostWrite + fiveSeconds ≤ now s := late
    simp [Option.isSome_iff_ne_none, lock, exch, late]
  · rw [writeReqTail_of_host host isOpen rings, if_pos ⟨lo, hi⟩]
    obtain ⟨t, ht⟩ := noteHolder_chan who { s with chan := { s.chan with
      reqTail := v, badWrite := false, writers := s.chan.writers ++ [(v.toNat, who)] } }
    change (noteHolder who _).chan.reqTail = v ∧ (noteHolder who _).chan.badWrite = false ∧ (noteHolder who _).chan.reqHead = _
    rw [ht]
    exact ⟨rfl, rfl, rfl⟩
  · exact congrArg _ ((writeReqTail_of_host host isOpen rings v).trans (if_neg (count_out out)))
  · exact congrArg _ ((writeRplHead_of_host host isOpen rings v).trans (if_pos ⟨lo, hi⟩))
  · exact congrArg _ ((writeRplHead_of_host host isOpen rings v).trans (if_neg (count_out out)))
  · exact (if_neg (by simp [runs])).trans ((if_neg (Bool.eq_false_iff.1 go)).trans (if_pos rings))
  · exact (exec_channelRequestTake_of_go runs go).trans (congrArg _ (congrArg _ (if_pos kind)))
  · rw [exec_channelRequestTake_of_go runs go, if_neg (by omega), if_pos kind]
  · rw [exec_channelRequestTake_of_go runs go, if_neg (by omega), if_neg (by omega)]

/-! ### The interrupt unit (R409 to R418, R501) -/

theorem getLsbD_setBit256 {n k : Nat} (hk : k < 256) (x : BitVec 256) : (setBit256 n x).getLsbD k = (x.getLsbD k || decide (k = n)) := by
  simp only [setBit256, BitVec.getLsbD_or, BitVec.getLsbD_shiftLeft, BitVec.getLsbD_one, hk]
  congr 1
  grind

theorem getLsbD_clearBit256 {n k : Nat} (hk : k < 256) (x : BitVec 256) :
    (clearBit256 n x).getLsbD k = (x.getLsbD k && !decide (k = n)) := by
  simp only [clearBit256, BitVec.getLsbD_and, BitVec.getLsbD_not, BitVec.getLsbD_shiftLeft, BitVec.getLsbD_one, hk]
  congr 1
  grind

theorem getLsbD_shifted_word {i k : Nat} (hk : k < 256) (v : Word32) :
    (v.setWidth 256 <<< (32 * i)).getLsbD k = (decide (k / 32 = i) && v.getLsbD (k % 32)) := by
  simp only [BitVec.getLsbD_shiftLeft, BitVec.getLsbD_setWidth, hk, decide_true, Bool.true_and]
  by_cases h : k / 32 = i
  · have pos : k - 32 * i = k % 32 := by omega
    have above : ¬k < 32 * i := by omega
    have within : k % 32 < 256 := by omega
    simp [h, pos, above, within]
  · rw [decide_eq_false h, Bool.false_and]
    by_cases below : k < 32 * i
    · simp [below]
    · rw [BitVec.getLsbD_of_ge v _ (by omega)]
      simp

theorem getLsbD_levels {k : Nat} (hk : k < 256) : (setBit256 6 (setBit256 16 (setBit256 17 0))).getLsbD k = sourceLevel k := by
  rw [getLsbD_setBit256 hk, getLsbD_setBit256 hk, getLsbD_setBit256 hk]
  unfold sourceLevel
  simp only [BitVec.ofNat_eq_ofNat, BitVec.getLsbD_zero]
  grind

theorem getLsbD_pendMask {i k : Nat} (hk : k < 256) (v : Word32) :
    (pendMask i v).getLsbD k = (decide (k / 32 = i) && v.getLsbD (k % 32) && !sourceLevel k) := by
  rw [pendMask, BitVec.getLsbD_and, BitVec.getLsbD_not, getLsbD_shifted_word hk, getLsbD_levels hk, decide_eq_true hk, Bool.true_and]

theorem getLsbD_clearPend {i k : Nat} (hk : k < 256) (v : Word32) (x : BitVec 256) :
    (x &&& ~~~(pendMask i v)).getLsbD k = (x.getLsbD k && !(decide (k / 32 = i) && v.getLsbD (k % 32) && !sourceLevel k)) := by
  rw [BitVec.getLsbD_and, BitVec.getLsbD_not, getLsbD_pendMask hk, decide_eq_true hk, Bool.true_and]

/-- The first number below a bound that satisfies a property is the one `find?` answers. -/
theorem find?_range_first {p : Nat → Bool} {b n : Nat} (hn : n < b) (hit : p n = true) (first : ∀ k, k < n → p k = false) :
    (List.range b).find? p = some n := by
  rw [List.find?_range_eq_some]
  exact ⟨hit, List.mem_range.2 hn, fun k hk => by simp [first k hk]⟩

theorem find?_range_none {p : Nat → Bool} {b : Nat} (no : ∀ k, k < b → p k = false) : (List.range b).find? p = none := by
  rw [List.find?_eq_none]
  exact fun k hk => Bool.eq_false_iff.1 (no k (List.mem_range.1 hk))

theorem raiseSource_at_lead {n : Nat} {s : State} (edge : sourceReserved n = false) (lead : s.boot.isLead = true) (on : s.icu.powered = true) :
    raiseSource n s = { s with icu := setPending n s.icu } := by
  rw [raiseSource, if_neg (Bool.eq_false_iff.1 edge), if_pos lead, if_pos on]

theorem exec_interruptEvent_of_edge {n : Nat} (hn : n < 256) (edge : sourceLevel n = false) (s : State) :
    exec (.interruptEvent n) s = .next (raiseSource n s) :=
  (if_neg (Nat.not_le.2 hn)).trans (if_neg (Bool.eq_false_iff.1 edge))

/-- What an event of one source changes in the unit: its pending bit, and its message where the host enabled it (R410). -/
theorem setPending_bits {n k : Nat} (hk : k < 256) (icu : Icu) :
    (setPending n icu).pend.getLsbD k = (icu.pend.getLsbD k || decide (k = n)) ∧
    (setPending n icu).owed.getLsbD k = (icu.owed.getLsbD k || (decide (k = n) && hostEnabled icu n)) := by
  refine ⟨getLsbD_setBit256 hk _, ?_⟩
  simp only [setPending]
  cases hostEnabled icu n
  · simp
  · simpa using getLsbD_setBit256 hk _

theorem messages_run {s : State} (isOpen : hostOpen s = true) (g : s.icu.gdis = false) (on : s.icu.powered = true) (vec : s.pins.nvec ≠ 0) :
    (!hostOpen s || s.icu.gdis || !s.icu.powered || s.pins.nvec == 0) = false := by
  simp [isOpen, g, on, vec]

/-- Settles O51. -/
theorem interruptsAndRegisters : Obligations.InterruptsAndRegisters := by
  intro s n
  refine ⟨fun hn edge used lead on cmd hc => ?_, fun hn level => (if_neg (Nat.not_le.2 hn)).trans (if_pos level),
    fun hn reserved edge => (exec_interruptEvent_of_edge hn edge s).trans (congrArg _ (if_pos reserved)),
    fun hn edge used member => (exec_interruptEvent_of_edge hn edge s).trans (congrArg _ ?_),
    fun i v hi isOpen => ⟨clearPend i v s, (if_neg (Nat.not_le.2 hi)).trans (if_pos isOpen), rfl,
      fun k hk => ⟨getLsbD_clearPend hk v _, getLsbD_clearPend hk v _⟩⟩,
    fun g isOpen => if_pos isOpen, fun isOpen g on vec => ⟨fun hn hit first => ?_, fun no => ?_⟩, fun g => if_pos (by simp [g]),
    fun g hg free => (if_neg (Nat.not_le.2 hg)).trans (if_pos free), fun core idle hn hit first => ?_,
    fun hn off sel new => (if_neg (Nat.not_le.2 hn)).trans (if_neg (by simp [off, sel, new])), fun v isOpen => if_pos isOpen,
    fun who pos v host isOpen => ⟨fun h => ?_, fun h => ?_, fun h => ?_⟩, fun who pos size v shut => if_pos (by simp [shut])⟩
  · refine ⟨raiseSource n s, ?_, ?_⟩
    · have which : cmd = .interruptEvent n ∨ cmd = .interruptForward n := by simpa using hc
      rcases which with rfl | rfl
      · exact exec_interruptEvent_of_edge hn edge s
      · exact (if_neg (Nat.not_le.2 hn)).trans (if_pos (by simp [lead, edge]))
    · rw [raiseSource_at_lead used lead on]
      refine ⟨?_, fun k hk ne => ?_, fun k hk ne => ?_, ?_, rfl⟩
      · simp [setPending_bits hn]
      · simp [setPending_bits hk, ne]
      · simp [setPending_bits hk, ne]
      · simp [setPending_bits hn, hostEnabled]
  · rw [raiseSource, if_neg (Bool.eq_false_iff.1 used), if_neg (Bool.eq_false_iff.1 member)]
  · change execInterruptMessage s = _
    rw [execInterruptMessage, if_neg (Bool.eq_false_iff.1 (messages_run isOpen g on vec)), find?_range_first hn hit first]
  · change execInterruptMessage s = _
    rw [execInterruptMessage, if_neg (Bool.eq_false_iff.1 (messages_run isOpen g on vec)), find?_range_none no]
  · change execCoreInterruptTake core s = _
    simp only [execCoreInterruptTake, idle, find?_range_first hn hit first]
    rfl
  · exact (if_neg (by simp [host, isOpen])).trans (if_pos ⟨rfl, h⟩)
  · exact (if_neg (by simp [host, isOpen])).trans ((if_neg (by omega)).trans (if_pos ⟨rfl, h⟩))
  · exact (if_neg (by simp [host, isOpen])).trans ((if_neg (by omega)).trans (if_neg (by omega)))

end Sys2Proof.Machine

/-! PROOFS. Power (spec/17, spec/15) -/

namespace Sys2Proof.Machine

/-! ### Power (spec/17, spec/15) -/

theorem presentLevel_only (level : Nat) (s : State) (n : Nat) : ∃ p o, presentLevel level s n = { s with ports := p, sent := o } := by
  simp only [presentLevel]
  split
  · exact ⟨s.ports, s.sent, rfl⟩
  · exact ⟨_, _, rfl⟩

theorem foldl_presentLevel_only (level : Nat) (ns : List Nat) (s : State) :
    ∃ p o, ns.foldl (presentLevel level) s = { s with ports := p, sent := o } := by
  induction ns generalizing s with
  | nil => exact ⟨s.ports, s.sent, rfl⟩
  | cons n ns ih =>
    obtain ⟨p, o, h⟩ := presentLevel_only level s n
    obtain ⟨p', o', h'⟩ := ih { s with ports := p, sent := o }
    exact ⟨p', o', by rw [List.foldl_cons, h, h']⟩

/-- A level in force changes the two levels, the ports that show it and what is sent, and nothing else. -/
theorem setLevel_only (level : Nat) (s : State) :
    ∃ p o, setLevel level s = { s with power := { s.power with clevel := level, elevel := level }, ports := p, sent := o } :=
  foldl_presentLevel_only level (List.range 8) _

theorem setVoltage_only (mv : Nat) (s : State) : ∃ o, setVoltage mv s = { s with power := { s.power with mv := mv }, sent := o } := by
  unfold setVoltage
  split
  · next h => exact ⟨s.sent, by rw [← h]⟩
  · exact ⟨_, rfl⟩

theorem raiseCaps_records (s : State) : Records s (raiseCaps s) := by
  unfold raiseCaps
  generalize partBlocks s = bs
  induction bs generalizing s with
  | nil => exact .refl s
  | cons b bs ih => exact (raiseSource_records (40 + b) s).trans (ih _)

theorem Records.power {s t : State} (h : Records s t) : t.power = s.power := by
  obtain ⟨q, i, f, o, n, rfl⟩ := h
  rfl

theorem stagePower_stagedLevel (level : Nat) (short ok : Bool) (s : State) : (stagePower level short ok s).power.stagedLevel = some level := by
  unfold stagePower
  simp only []
  split <;> rfl

/-- The staging part of a relay zone on a ready lead, with the chair's levels still to be staged (R554). -/
theorem governor_due {s : State} (lead : s.boot.isLead = true) (ready : s.boot.ready = true) (lo : 16128 ≤ tickOf s)
    (hi : tickOf s < 16352) (due : s.power.lastGoverned ≠ chairOf s + 1) :
    ¬(!s.boot.isLead || !s.boot.ready || decide (tickOf s < Config.relayTick) || decide (Config.settleTick ≤ tickOf s) ||
      decide (s.power.lastGoverned = chairOf s + 1)) = true := by
  rw [lead, ready, decide_eq_false (Nat.not_lt.2 lo : ¬tickOf s < Config.relayTick), decide_eq_false (Nat.not_le.2 hi : ¬Config.settleTick ≤ tickOf s),
    decide_eq_false due]
  exact Bool.false_ne_true

theorem mem_delRange {β : Type} {m : List (Nat × β)} {k n : Nat} {e : Nat × β} :
    e ∈ Sparse.delRange m k n ↔ e ∈ m ∧ ¬(k ≤ e.1 ∧ e.1 < k + n) := by
  simp only [Sparse.delRange, List.mem_filter, Bool.or_eq_true, decide_eq_true_eq]
  refine and_congr_right fun _ => ?_
  omega

/-- A byte of SRAM survives the zeroing of one cluster when it is another cluster's. -/
theorem mem_zeroCluster {c : Nat} {s : State} {e : Nat × Byte} :
    e ∈ (zeroCluster c s).sram ↔ e ∈ s.sram ∧ e.1 / 2 ^ 21 ≠ c := by
  refine mem_delRange.trans (and_congr_right fun _ => ?_)
  omega

/-- A fast clamp begins: schuss ends and the clamp's times are noted (R559). -/
def clamped (s : State) : State :=
  mapPower (fun p => { p with
    clamp := true, clampSince := if p.clamp then p.clampSince else some s.lift.wallNs, alertHighSince := some (now s) })
    (endSchuss { s with pins := { s.pins with vrAlert := false } })

theorem exec_vrAlert (s : State) :
    exec .vrAlert s = .next (raiseSource 2 (setVoltage (if s.power.trip then 620 else 750) (setLevel (max 12 s.power.clevel) (clamped s)))) := rfl

/-- A level and a voltage together: what the two change. -/
theorem setVoltage_setLevel_only (mv level : Nat) (s : State) : ∃ p o, setVoltage mv (setLevel level s) =
    { s with power := { s.power with clevel := level, elevel := level, mv := mv }, ports := p, sent := o } := by
  obtain ⟨p, o, hl⟩ := setLevel_only level s
  obtain ⟨o', hv⟩ := setVoltage_only mv { s with power := { s.power with clevel := level, elevel := level }, ports := p, sent := o }
  exact ⟨p, o', by rw [hl, hv]⟩

theorem exec_clampEnd {s : State} {c h : Nat} (clamp : s.power.clamp = true) (since : s.power.clampSince = some c)
    (high : s.power.alertHighSince = some h) : exec .clampEnd s = .next (if c + 1000000 ≤ s.lift.wallNs ∧ wholeChairEnd h ≤ now s then { s with
      power := { s.power with clamp := false, clampSince := none, alertHighSince := none, endedClamp := some (chairOf s) }
      pins := { s.pins with vrAlert := true } } else s) := by
  change execClampEnd s = _
  simp only [execClampEnd, clamp, since, high, Bool.true_and, Bool.and_eq_true, decide_eq_true_eq]
  split <;> rfl

/-- A trip of this block: the clock, then the rail, and source 1 the first time (R560). -/
def tripped (s : State) : State :=
  setVoltage 620 (endSchuss (mapPower (fun p => { p with trip := true, tripCoolSince := some (now s), wantNominal := false }) s))

theorem exec_thermalTrip (s : State) : exec (.thermalTrip s.boot.blkId) s = .next (if s.power.trip then tripped s
    else raiseSource 1 (mapPower (fun p => { p with clampSince := if p.clamp then p.clampSince else some s.lift.wallNs }) (tripped s))) :=
  if_neg (not_not.2 rfl)

theorem tripped_only (s : State) : (tripped s).power.trip = true ∧ (tripped s).power.clock = 1200 ∧ (tripped s).power.mv = 620 ∧
    (tripped s).power.schuss = false ∧ (tripped s).mem = s.mem ∧ (tripped s).queues = s.queues := by
  obtain ⟨o, h⟩ := setVoltage_only 620 (endSchuss (mapPower (fun p => { p with trip := true, tripCoolSince := some (now s), wantNominal := false }) s))
  rw [tripped, h]
  exact ⟨rfl, rfl, rfl, rfl, rfl, rfl⟩

theorem exec_powerDomainOn_of_cluster {d : Nat} {s : State} (lo : 6 ≤ d) (hi : d < 70) (off : s.power.off.getLsbD d = true)
    (asked : clusterAsked s (if d < 38 then d - 6 else d - 38) = true) : exec (.powerDomainOn d) s = .next
      (mapPower (fun p => { p with off := setDomain d false p.off }) (if 38 ≤ d then zeroCluster (if d < 38 then d - 6 else d - 38) s else s)) := by
  change execPowerDomainOn d s = _
  simp only [execPowerDomainOn, if_neg (show ¬82 ≤ d by omega), if_neg (show ¬(3 ≤ d ∧ d ≤ 5) by omega), if_pos (And.intro lo hi), off, asked]
  rfl

/-- Settles O53. -/
theorem powerEvents : Obligations.PowerEvents := by
  intro s
  refine ⟨fun lead ready lo hi => ⟨fun done r ds => if_pos (by simp [done]), fun due => ⟨fun p ds => ⟨?_, ?_⟩, fun ds => ?_⟩⟩, fun cool => ?_,
    fun c h clamp since high => ⟨fun long whole => (exec_clampEnd clamp since high).trans (congrArg _ (if_pos ⟨long, whole⟩)),
      fun early => (exec_clampEnd clamp since high).trans (congrArg _ (if_neg (by omega)))⟩,
    ?_, fun b other => if_pos other, fun want mv => if_pos (by simp [want, mv]), fun n l hn present => ?_,
    fun n hn => ⟨fun pend late => ?_, fun early => ?_⟩, fun why deep due => if_pos (by simp [deep, due]), fun d lo hi off asked => ?_,
    fun d lo hi off asked => ?_⟩
  · exact if_neg (governor_due lead ready lo hi due)
  · exact stagePower_stagedLevel _ _ _ _
  · have kept := congrArg Power.stagedLevel (raiseCaps_records (mapPower (fun p => { p with lastGoverned := chairOf s + 1 }) s)).power
    refine ⟨mapPower (fun p => { p with granted := false }) (raiseCaps (mapPower (fun p => { p with lastGoverned := chairOf s + 1 }) s)),
      if_neg (governor_due lead ready lo hi due), ?_, rfl⟩
    exact kept
  · refine ⟨_, exec_vrAlert s, ?_⟩
    obtain ⟨p, o, set⟩ := setVoltage_setLevel_only 750 (max 12 s.power.clevel) (clamped s)
    rw [cool, if_neg Bool.false_ne_true, set]
    obtain ⟨q, i, f, o', k, raised⟩ := raiseSource_records 2 { clamped s with
      power := { (clamped s).power with clevel := max 12 s.power.clevel, elevel := max 12 s.power.clevel, mv := 750 }, ports := p, sent := o }
    rw [raised]
    exact ⟨rfl, rfl, congrArg (fun b : Bool => if b then 1200 else 2000) cool, rfl, rfl, rfl, rfl, rfl, rfl⟩
  · refine ⟨_, exec_thermalTrip s, ?_⟩
    split
    · exact tripped_only s
    · obtain ⟨q, i, f, o, k, h⟩ := raiseSource_records 1
        (mapPower (fun p => { p with clampSince := if p.clamp then p.clampSince else some s.lift.wallNs }) (tripped s))
      rw [h]
      exact tripped_only s
  · exact (if_neg (Nat.not_le.2 hn)).trans (if_neg (by simp [present]))
  · exact (if_neg (Nat.not_le.2 hn)).trans (if_pos (by simp [pend, late]))
  · exact (if_neg (Nat.not_le.2 hn)).trans (if_neg (by
      rcases early with h | h
      · simp [h]
      · simp [Nat.not_le.2 h]))
  · have low : (if d < 38 then d - 6 else d - 38) = d - 6 := if_pos hi
    refine (exec_powerDomainOn_of_cluster lo (by omega) off (by rw [low]; exact asked)).trans (congrArg _ ?_)
    rw [if_neg (Nat.not_le.2 hi)]
    rfl
  · have high : (if d < 38 then d - 6 else d - 38) = d - 38 := if_neg (Nat.not_lt.2 lo)
    refine ⟨_, exec_powerDomainOn_of_cluster (by omega) hi off (by rw [high]; exact asked), ?_⟩
    rw [if_pos lo, high]
    exact ⟨rfl, fun e he => (mem_zeroCluster.1 he).2, fun e he ne => mem_zeroCluster.2 ⟨he, ne⟩⟩

end Sys2Proof.Machine

/-! PROOFS. Resets, start-up and security (spec/14, spec/16) -/

namespace Sys2Proof.Machine

/-! ### Resets (R491, R496) -/

/-- What is left of a mailbox when the block is reset: its lock (R496). -/
def lockOnly (e : Nat × Mailbox) : Nat × Mailbox := (e.1, { lock := e.2.lock })

theorem blockReset_mbx (s : State) : (blockReset s).mbx = (s.mbx.filter (fun e => e.2.lock.isSome)).map lockOnly := rfl

theorem mailbox_mem {s : State} {m : Nat} : mailbox s m = {} ∨ (m, mailbox s m) ∈ s.mbx := by
  cases h : Sparse.get? s.mbx m with
  | none => exact .inl (by simp [mailbox, Sparse.get, h])
  | some b =>
    refine .inr ?_
    rw [mailbox, Sparse.get, h]
    exact Sparse.mem_of_get? h

/-- A mailbox of the reset block holds nothing: whatever it is, it is what `lockOnly` left of some mailbox. -/
theorem blockReset_mailbox (s : State) (m : Nat) : (mailbox (blockReset s) m).go = false ∧ (mailbox (blockReset s) m).data = [] := by
  rcases mailbox_mem (s := blockReset s) (m := m) with h | h
  · rw [h]
    exact ⟨rfl, rfl⟩
  · rw [blockReset_mbx] at h
    obtain ⟨e, -, he⟩ := List.mem_map.1 h
    rw [← (Prod.mk.inj he).2]
    exact ⟨rfl, rfl⟩

theorem above_lockOnly {i : Nat} {l : List (Nat × Mailbox)} (h : Sparse.above i l) :
    Sparse.above i ((l.filter (fun e => e.2.lock.isSome)).map lockOnly) := by
  intro e he
  obtain ⟨d, hd, rfl⟩ := List.mem_map.1 he
  exact h d (List.mem_filter.1 hd).1

theorem get_lockOnly (l : List (Nat × Mailbox)) (k : Nat) (h : Sparse.sorted l = true) :
    (Sparse.get {} ((l.filter (fun e => e.2.lock.isSome)).map lockOnly) k).lock = (Sparse.get {} l k).lock := by
  induction l with
  | nil => rfl
  | cons e l ih =>
    obtain ⟨i, b⟩ := e
    obtain ⟨higher, tail⟩ := (Sparse.sorted_cons i b l).1 h
    have rest := ih tail
    by_cases hk : k = i
    · subst hk
      cases lock : b.lock with
      | some x => simp [Sparse.get, Sparse.get?, lock, lockOnly]
      | none => simp [Sparse.get, Sparse.get?, lock, Sparse.get?_above _ (above_lockOnly higher)]
    · cases lock : b.lock with
      | some x => simpa [Sparse.get, Sparse.get?, lock, lockOnly, hk] using rest
      | none => simpa [Sparse.get, Sparse.get?, lock, hk] using rest

/-! ### Keys (R486) -/

theorem resendKeys_only (s : State) : ∃ o, resendKeys s = { s with sent := o } := by
  unfold resendKeys
  split
  · exact ⟨_, rfl⟩
  · exact ⟨s.sent, rfl⟩

theorem exec_debugUnlock (s : State) : exec (.debugUnlock true) s = .next (resendKeys (mapKeys (fun k => { k with weight := [] })
    (rekeyAll { s with boot := { s.boot with dbgUnlocked := true, dbgEver := true } }))) := rfl

/-! ### The sequence (R530 to R545) -/

theorem exec_electionClose_of_open {s : State} {lead : StatusFrame} (on : starting s = true) (six : s.boot.phase = 6) (fresh : s.boot.elected = false)
    (single : duplicated (ownFrame s :: s.boot.frames) s.boot.blkId = false) (best : electedLead (ownFrame s :: s.boot.frames) = some lead)
    (same : lead.configHash = s.boot.image.hash) : exec .electionClose s = .next (closeElection (ownFrame s :: s.boot.frames) lead s) := by
  change execElectionClose s = _
  have due : ¬(!starting s || s.boot.phase != 6 || s.boot.elected) = true := by simp [on, six, fresh]
  simp only [execElectionClose, if_neg due, single, best, same]
  simp

theorem exec_ready_of_phase {s : State} (on : starting s = true) (nine : s.boot.phase = 9) (elected : s.boot.elected = true)
    (confirmed : slotConfirmed (fwSlot s s.boot.slot) = true) : exec .ready s = .next (blowFuses (readyState s)) := by
  change execReady s = _
  have due : ¬(!starting s || s.boot.phase != 9 || !s.boot.elected) = true := by simp [on, nine, elected]
  have same : slotConfirmed (fwSlot (readyState s) (readyState s).boot.slot) = true := confirmed
  simp only [execReady, if_neg due, if_pos same]

theorem exec_of_not_starting {s : State} (stands : starting s = false) : exec .ready s = .next s ∧ exec .leadLost s = .next s ∧
    exec .electionClose s = .next s ∧ ∀ r, exec (.startupPhaseEnd r) s = .next s :=
  ⟨if_pos (by simp [stands]), if_neg (by simp [stands]), if_pos (by simp [stands]), fun _ => if_pos (by simp [stands])⟩

/-- Settles O55. -/
theorem startUpAndSecurity : Obligations.StartUpAndSecurity := by
  intro s
  refine ⟨fun level st same => if_pos (by simp [same]), fun st high => ?_, fun st low => ?_, fun high => ?_,
    fun on => ⟨fun r bad => ?_, fun r good => ?_, fun code some' limit => ?_, fun seven => ?_, fun six fresh lead single best same => ?_,
      fun elected member => if_pos (by simp [on, elected, member]), fun nine elected confirmed => exec_ready_of_phase on nine elected confirmed⟩,
    fun stands => exec_of_not_starting stands, fun f up fresh => if_neg (by simp [up, fresh]), fun b bs wanted => ?_, ?_, rfl,
    fun lock => if_neg (Bool.eq_false_iff.1 lock), fun unlock => if_pos unlock, fun eid bs => rfl, fun eid packet runs => if_neg (by simp [runs])⟩
  · refine ⟨blockReset s, ?_, rfl, rfl, rfl, rfl, rfl, rfl, rfl, rfl, rfl, fun m => ?_⟩
    · exact (if_neg (by simp [high])).trans (if_pos rfl)
    · obtain ⟨go, data⟩ := blockReset_mailbox s m
      exact ⟨go, data, fun sorted => get_lockOnly s.mbx m sorted⟩
  · exact (if_neg (by simp [low])).trans (if_neg Bool.false_ne_true)
  · exact ⟨_, if_neg (by simp [high]), rfl, rfl, rfl, rfl, rfl, rfl, rfl, rfl, rfl⟩
  · exact (if_neg (by simp [on])).trans (if_pos bad)
  · exact (if_neg (by simp [on])).trans (if_neg (not_not.2 good))
  · exact (if_neg (by simp [on, some'])).trans ((if_neg (by simp [limit])).trans (if_neg (by simp [limit])))
  · exact (if_neg (by simp [on])).trans ((if_neg (by omega)).trans (if_pos ⟨rfl, seven⟩))
  · exact exec_electionClose_of_open on six fresh single best same
  · change ∃ t, execFusePgmDone b s = .next t ∧ _
    cases bs with
    | nil => exact ⟨{ s with boot := { s.boot with antiRollback := s.boot.antiRollback ||| (1#64 <<< b), fuseWanted := [] } },
        by simp [execFusePgmDone, wanted], rfl, rfl, rfl⟩
    | cons d ds => exact ⟨emit (.fuseProgram d) { s with boot := { s.boot with antiRollback := s.boot.antiRollback ||| (1#64 <<< b), fuseWanted := d :: ds } },
        by simp [execFusePgmDone, wanted], rfl, rfl, rfl⟩
  · refine ⟨_, exec_debugUnlock s, ?_⟩
    obtain ⟨o, h⟩ := resendKeys_only (mapKeys (fun k => { k with weight := [] })
      (rekeyAll { s with boot := { s.boot with dbgUnlocked := true, dbgEver := true } }))
    rw [h]
    exact ⟨rfl, rfl, rfl, rfl, rfl, rfl, rfl⟩

end Sys2Proof.Machine

/-! PROOFS. Memory ports, the aperture and engine ports (spec/15) -/

namespace Sys2Proof.Machine

/-! ### The memory ports (R503 to R508) -/

theorem exec_memoryReadResponse_of_none {s : State} {port tag : Nat} (hp : port < 4) (unasked : findReq s port tag false = none) (err : Bool) :
    exec (.memoryReadResponse port tag err) s = .next s := by
  change execMemoryReadResponse port tag err s = _
  simp only [execMemoryReadResponse, if_neg (Nat.not_le.2 hp), unasked]

theorem exec_memoryReadResponse_of_bytes {s : State} {port tag : Nat} {r : MemReq} {bs : List Byte} (hp : port < 4)
    (asked : findReq s port tag false = some r) (bytes : memRead s r.key r.addr r.len = some bs) :
    exec (.memoryReadResponse port tag false) s = .next (afterAnswer r.owner (landBytes r.owner r.onRead r.era bs (dropReq port tag s))) := by
  change execMemoryReadResponse port tag false s = _
  simp only [execMemoryReadResponse, if_neg (Nat.not_le.2 hp), asked, if_neg Bool.false_ne_true, bytes]

theorem exec_memoryReadResponse_of_err {s : State} {port tag : Nat} {r : MemReq} (hp : port < 4) (asked : findReq s port tag false = some r) :
    exec (.memoryReadResponse port tag true) s = .next (afterAnswer r.owner (ownerFault r.owner 0x502 (reqPa s r) 0 (dropReq port tag s))) := by
  change execMemoryReadResponse port tag true s = _
  simp only [execMemoryReadResponse, if_neg (Nat.not_le.2 hp), asked, if_true]

theorem exec_memoryWriteAck_of_none {s : State} {port tag : Nat} (hp : port < 4) (unasked : findReq s port tag true = none) :
    exec (.memoryWriteAck port tag) s = .next s := by
  change execMemoryWriteAck port tag s = _
  simp only [execMemoryWriteAck, if_neg (Nat.not_le.2 hp), unasked]

theorem exec_memoryWriteAck_of_write {s : State} {port tag : Nat} {r : MemReq} (hp : port < 4) (asked : findReq s port tag true = some r)
    (plain : r.rmw = none) : exec (.memoryWriteAck port tag) s = .next (afterAnswer r.owner (dropReq port tag s)) := by
  change execMemoryWriteAck port tag s = _
  simp only [execMemoryWriteAck, if_neg (Nat.not_le.2 hp), asked, plain]

/-! ### The host's aperture (R497 to R500) -/

theorem exec_apertureRead_of_refused {s : State} {id : Requester} {start n : Nat} (serves : hostServes s = true) (ready : s.boot.ready = true)
    (bad : aperturePieces s id .read start n = none) (tag : Nat) :
    exec (.apertureRead id start n tag) s = .next (emit (.completerAbort id tag) (countAperture id s)) := by
  change execApertureRead id start n tag s = _
  rw [execApertureRead, if_neg (by simp [serves]), if_neg (by simp [ready]), bad]

theorem exec_apertureRead_of_pieces {s : State} {id : Requester} {start n : Nat} {ps : List Piece} (serves : hostServes s = true)
    (ready : s.boot.ready = true) (good : aperturePieces s id .read start n = some ps) (tag : Nat) : exec (.apertureRead id start n tag) s = .next
      (settleGather (hostReads (boundSlice s id) (.host id (tag + 1)) 0 ps (openGather (.host id (tag + 1)) (apertureCache s id start n)))) := by
  change execApertureRead id start n tag s = _
  rw [execApertureRead, if_neg (by simp [serves]), if_neg (by simp [ready]), good]

theorem exec_apertureWrite_of_refused {s : State} {id : Requester} {start : Nat} {data : List Byte} (serves : hostServes s = true)
    (ready : s.boot.ready = true) (bad : aperturePieces s id .write start data.length = none) :
    exec (.apertureWrite id start data) s = .next (countAperture id s) := by
  change execApertureWrite id start data s = _
  rw [execApertureWrite, if_neg (by simp [serves, ready]), bad]

/-- What a write of the aperture notes before it is done: the pages, and the dirty log of a bound slice (R307). -/
def apertureNote (s : State) (id : Requester) (start n : Nat) : State :=
  (boundSlice s id).elim s (fun sl => logWrite (.host id 0) sl .write start n (cachePages .l2 sl start n s))

theorem exec_apertureWrite_of_pieces {s : State} {id : Requester} {start : Nat} {data : List Byte} {ps : List Piece} (serves : hostServes s = true)
    (ready : s.boot.ready = true) (good : aperturePieces s id .write start data.length = some ps) :
    exec (.apertureWrite id start data) s = .next (hostWrites (boundSlice s id) (.host id 0) ps data (apertureNote s id start data.length)) := by
  change execApertureWrite id start data s = _
  rw [execApertureWrite, if_neg (by simp [serves, ready]), good, apertureNote]
  cases boundSlice s id <;> rfl

theorem exec_hostOtherTlp_of_serving {s : State} {t : OtherTlp} (serves : hostServes s = true) (clean : t.poisonedWriteBar = none) :
    exec (.hostOtherTlp t) s = .next (if t.needsCompletion then emit (.unsupported t.requester) s else s) := by
  change execHostOtherTlp t s = _
  rw [execHostOtherTlp, if_neg (by simp [serves]), clean]
  exact (apply_ite Host.Outcome.next _ _ _).symm

/-! ### The engine ports (R509 to R516) -/

section
variable {s : State} {port : Nat} (hp : port < 8) (here : portHere s port = true)
include hp here

theorem exec_engineDmaRequest_of_closed {r : EngineDma} (closed : openCall s port r.call = none) :
    exec (.engineDmaRequest port r) s = .next (emit (.dmaResponse port r.tag 3 []) (countPort port s)) := by
  change execEngineDmaRequest port r s = _
  rw [execEngineDmaRequest, if_neg (Nat.not_le.2 hp), if_neg (by simp [here]), closed]

theorem exec_engineDmaRequest_of_call {r : EngineDma} {k : Call} (call : openCall s port r.call = some k) (some' : 0 < r.len)
    (page : r.va % 256 + r.len ≤ 256) (room : dmaRoom (enginePort s port) r.tag = true) :
    exec (.engineDmaRequest port r) s = .next (takeDma port k r s) := by
  change execEngineDmaRequest port r s = _
  rw [execEngineDmaRequest, if_neg (Nat.not_le.2 hp), if_neg (by simp [here]), call]
  exact (if_neg (by omega)).trans (if_neg (by simp [room]))

theorem exec_engineSignal_of_closed {call : Nat} (closed : openCall s port call = none) (i a : Nat) :
    exec (.engineSignal port call i a) s = .next (countPort port s) := by
  change execEngineSignal port call i a s = _
  rw [execEngineSignal, if_neg (Nat.not_le.2 hp), if_neg (by simp [here]), closed, ite_self]

theorem exec_engineSignal_of_call {call : Nat} {k : Call} (opened : openCall s port call = some k) (i : Nat) {a : Nat} (some' : a ≠ 0) :
    exec (.engineSignal port call i a) s = .next (settlePort port (setEnginePort port { enginePort s port with signals := (enginePort s port).signals ++
      [{ call := call, slice := k.slice, tally := i, amount := a, writes := callWrites (enginePort s port) call }] } s)) := by
  change execEngineSignal port call i a s = _
  rw [execEngineSignal, if_neg (Nat.not_le.2 hp), if_neg (by simp [here]), if_neg some', opened]

theorem exec_engineWait_of_closed {call : Nat} (closed : openCall s port call = none) (slot i t : Nat) :
    exec (.engineWait port slot call i t) s = .next (countPort port s) := by
  change execEngineWait port slot call i t s = _
  rw [execEngineWait, if_neg (Nat.not_le.2 hp), if_neg (by simp [here]), closed]

theorem exec_engineWait_of_call {call slot : Nat} {k : Call} (opened : openCall s port call = some k) (hslot : slot < 4) (i t : Nat) :
    exec (.engineWait port slot call i t) s = .next (wakeEngineWaits (.port port) (setEnginePort port { enginePort s port with
      waits := (enginePort s port).waits.filter (fun x => x.slot != slot) ++
        [{ slot := slot, call := call, slice := k.slice, tally := i, threshold := t }] } s)) := by
  change execEngineWait port slot call i t s = _
  simp only [execEngineWait, if_neg (Nat.not_le.2 hp), here, opened, Nat.mod_eq_of_lt hslot]
  rfl

end

/-- Settles O52. -/
theorem portsAnswer : Obligations.PortsAnswer := by
  intro s port tag
  refine ⟨fun hp => ⟨fun err unasked => exec_memoryReadResponse_of_none hp unasked err, fun unasked => exec_memoryWriteAck_of_none hp unasked,
      fun r asked => ⟨fun bs bytes => exec_memoryReadResponse_of_bytes hp asked bytes, exec_memoryReadResponse_of_err hp asked⟩,
      fun r asked plain => exec_memoryWriteAck_of_write hp asked plain⟩,
    fun err hp => ⟨if_pos hp, if_pos hp⟩,
    fun id start n serves => ⟨fun early => ?_, fun ready bad => exec_apertureRead_of_refused serves ready bad tag,
      fun ps ready good => exec_apertureRead_of_pieces serves ready good tag⟩,
    fun id start data serves ready => ⟨fun bad => exec_apertureWrite_of_refused serves ready bad, fun ps good => ?_⟩,
    fun t serves clean => exec_hostOtherTlp_of_serving serves clean, fun s1 h => by rw [h]; rfl,
    fun call hp here => ⟨?_, fun closed r hr slot i a => ?_, fun k opened => ⟨fun r hr some' page room => ?_, fun i a some' => ?_, fun slot i t hslot => ?_⟩⟩,
    fun call hp absent => ?_⟩
  · exact (if_neg (by simp [serves])).trans (if_pos (by simp [early]))
  · refine (exec_apertureWrite_of_pieces serves ready good).trans ?_
    rw [apertureNote]
    cases boundSlice s id <;> rfl
  · exact (if_neg (Nat.not_le.2 hp)).trans (if_neg (by simp [here]))
  · subst hr
    exact ⟨exec_engineDmaRequest_of_closed hp here closed, exec_engineSignal_of_closed hp here closed i a,
      exec_engineWait_of_closed hp here closed slot i a⟩
  · subst hr
    exact exec_engineDmaRequest_of_call hp here opened some' page room
  · exact exec_engineSignal_of_call hp here opened i some'
  · exact exec_engineWait_of_call hp here opened hslot i t
  · exact (if_neg (Nat.not_le.2 hp)).trans (if_pos (by simp [absent]))

end Sys2Proof.Machine

/-! PROOFS. Set commands (spec/11) -/

namespace Sys2Proof.Machine

/-! ### Set commands (R365 to R371) -/

section
variable {c : CmdReq} {s : State}

theorem doSetDirect_of_taken (h : c.phase ≠ .fresh) : doSetDirect c s = s := if_pos h

variable (fresh : c.phase = .fresh)
include fresh

theorem doSetDirect_of_bad (bad : setParamsOk s s.cfg.active c.opcode (cmdSlice c) c.params = false) : doSetDirect c s = failCmd c 3 s :=
  (if_neg (not_not.2 fresh)).trans (if_pos (by rw [bad]; rfl))

variable (ok : setParamsOk s s.cfg.active c.opcode (cmdSlice c) c.params = true)
include ok

theorem doSetDirect_of_commit (held : s.cfg.commit ≠ none) : doSetDirect c s = failCmd c 1 s :=
  (if_neg (not_not.2 fresh)).trans ((if_neg (by simp [ok])).trans (if_pos (Option.isSome_iff_ne_none.2 held)))

theorem doSetDirect_of_edited (idle : s.cfg.commit = none) (edited : s.cfg.edited = true) : doSetDirect c s = failCmd c 11 s :=
  (if_neg (not_not.2 fresh)).trans ((if_neg (by simp [ok])).trans ((if_neg (by simp [idle])).trans (if_pos edited)))

variable (idle : s.cfg.commit = none) (unedited : s.cfg.edited = false)
include idle unedited

theorem doSetDirect_of_open {d : Nat}
    (busy : notQuiesced s (changedSlices s.cfg.active (setApply s.cfg.active c.opcode (cmdSlice c) c.params)) = some d) :
    doSetDirect c s = finish c 4 d [] s := by
  refine (if_neg (not_not.2 fresh)).trans ((if_neg (by simp [ok])).trans ((if_neg (by simp [idle])).trans ((if_neg (by simp [unedited])).trans ?_)))
  simp only [busy]
  rfl

theorem doSetDirect_of_quiet (quiet : notQuiesced s (changedSlices s.cfg.active (setApply s.cfg.active c.opcode (cmdSlice c) c.params)) = none) :
    doSetDirect c s = if setResources s s.cfg.active c.opcode (cmdSlice c) c.params then
      stageCommit c (setApply s.cfg.active c.opcode (cmdSlice c) c.params) s else failCmd c 5 s := by
  refine (if_neg (not_not.2 fresh)).trans ((if_neg (by simp [ok])).trans ((if_neg (by simp [idle])).trans ((if_neg (by simp [unedited])).trans ?_)))
  simp only [quiet]
  rfl

end

/-- Every set command that the manager issues directly takes the one step of R365. -/
theorem exec_setCommand {s : State} {seq : Word32} {c : CmdReq} {cmd : Instr} {op : Nat} (mem : (cmd, op) ∈ [(Instr.createSlice seq, 0x0101),
    (.destroySlice seq, 0x0102), (.assignPool seq, 0x0106), (.setRtShare seq, 0x0204), (.setWindow seq, 0x0307), (.clearWindow seq, 0x0308),
    (.setEnvelope seq, 0x0701)]) (h : AtCommand s seq op c) : exec cmd s = .next (doSetDirect c s) := by
  simp only [List.mem_cons, Prod.mk.injEq, List.not_mem_nil, or_false] at mem
  rcases mem with ⟨rfl, rfl⟩ | ⟨rfl, rfl⟩ | ⟨rfl, rfl⟩ | ⟨rfl, rfl⟩ | ⟨rfl, rfl⟩ | ⟨rfl, rfl⟩ | ⟨rfl, rfl⟩
  · exact cmdStep_at h
  · exact cmdStep_at h
  · exact cmdStep_at h
  · exact cmdStep_at h
  · exact cmdStep_at h
  · exact cmdStep_at h
  · exact cmdStep_at h

/-- A commit of the set that R365 names: of the shadow, or of the rollback copy. -/
theorem doCommit_of_quiet {c : CmdReq} {s : State} {next : CfgSet} (fresh : c.phase = .fresh)
    (named : (par c 0 1 == 1 && (s.cfg.edited || s.cfg.rollback.isNone)) = false) (idle : s.cfg.commit = none)
    (serial : par c 4 4 = s.cfg.active.serial.toNat)
    (set : (if (par c 0 1 == 1) = true then s.cfg.rollback.getD s.cfg.active else if s.cfg.edited = true then s.cfg.shadow else s.cfg.active) = next)
    (quiet : notQuiesced s (changedSlices s.cfg.active next) = none) : doCommit c s = stageCommit c next s := by
  refine (if_neg (not_not.2 fresh)).trans ((if_neg (Bool.eq_false_iff.1 named)).trans ((if_neg (by simp [idle])).trans
    ((if_neg (not_not.2 serial)).trans ?_)))
  simp only [set, quiet]

/-- Settles O43. -/
theorem setCommandsStage : Obligations.SetCommandsStage := by
  intro s seq c
  refine ⟨fun cmd op mem h hop => ?_, fun h inSet params form ok idle serial room => ?_, fun h fresh idle serial => ⟨fun r revert unedited back quiet => ?_,
    fun plain edited quiet => ?_⟩⟩
  · have run := exec_setCommand mem h
    subst hop
    exact ⟨fun taken => run.trans (congrArg _ (doSetDirect_of_taken taken)), fun fresh bad => run.trans (congrArg _ (doSetDirect_of_bad fresh bad)),
      fun fresh ok held => run.trans (congrArg _ (doSetDirect_of_commit fresh ok held)),
      fun fresh ok idle edited => run.trans (congrArg _ (doSetDirect_of_edited fresh ok idle edited)),
      fun d fresh ok idle unedited busy => run.trans (congrArg _ (doSetDirect_of_open fresh ok idle unedited busy)),
      fun fresh ok idle unedited quiet => run.trans (congrArg _ (doSetDirect_of_quiet fresh ok idle unedited quiet))⟩
  · refine (cmdStep_at (act := doEdit) h).trans (congrArg _ ?_)
    have contains : setOps.contains (carriedOp c) = true := List.contains_iff_mem.2 inSet
    simp only [doEdit, contains, params, form, ok, idle, serial, room]
    simp
  · refine (cmdStep_at (act := doCommit) h).trans (congrArg _ (doCommit_of_quiet fresh ?_ idle serial ?_ quiet))
    · simp [unedited, back]
    · simp [revert, back]
  · refine (cmdStep_at (act := doCommit) h).trans (congrArg _ (doCommit_of_quiet fresh ?_ idle serial ?_ quiet))
    · simp [plain]
    · simp [plain, edited]

end Sys2Proof.Machine

/-! PROOFS. Commands on queues (spec/11) -/

namespace Sys2Proof.Machine

/-! ### Stops (R16, R17, R376 to R380) -/

/-- The control plane finds in the run-control word what the management plane has asked for. -/
theorem controlOf_askStop {s : State} {slice : Nat} {sl : Slice} (h : findSlice s slice = some sl) (qs : List Nat) (force reset : Bool) :
    controlOf (askStop slice qs force reset s) slice = { sl.ctl with stop := qs, force := force, reset := reset, ack := none } := by
  have found : findSlice (askStop slice qs force reset s) slice = some { sl with
      ctl := { sl.ctl with stop := qs, force := force, reset := reset, ack := none } } :=
    findSlice_mapSlice_self (fun _ => rfl) h
  rw [controlOf, found]
  rfl

theorem obeyStop_askStop {s : State} {slice : Nat} {sl : Slice} (h : findSlice s slice = some sl) (to' : Owner) (qs : List Nat) (force reset : Bool) :
    let a := askStop slice qs force reset s
    obeyStop slice to' a = if force then forceStop slice qs to' reset a else beginQuiesce slice qs (writeAck slice (faultEntries a slice qs) a) := by
  simp only [obeyStop, controlOf_askStop h]

theorem exec_stopCommand {s : State} {seq : Word32} {c : CmdReq} {cmd : Instr} {op : Nat}
    (mem : (cmd, op) ∈ [(Instr.quiesce seq, 0x0103), (.resetSlice seq, 0x0105)]) (h : AtCommand s seq op c) :
    exec cmd s = .next (doStop c s) := by
  simp only [List.mem_cons, Prod.mk.injEq, List.not_mem_nil, or_false] at mem
  rcases mem with ⟨rfl, rfl⟩ | ⟨rfl, rfl⟩
  · exact cmdStep_at h
  · exact cmdStep_at h

theorem doStop_of_free {s : State} {c : CmdReq} (fresh : c.phase = .fresh) (ok : stopParamsOk s c = true) (free : stopBusy s c = false) :
    let slice := cmdSlice c
    let qs := namedQueues s c.opcode slice c.params
    let force := stopForced c.opcode c.params
    let s1 := obeyStop slice (.manager c.seq) (askStop slice qs force (c.opcode == 0x0105) s)
    doStop c s = settleCommands (setPhase c.seq (.stopping (if force then sliceBlocks s slice else []) (ackOf s1 slice)
      (if force then foundCounts s slice qs else [])) (passOn (sliceBlocks s slice) c s1)) :=
  (if_neg (not_not.2 fresh)).trans ((if_neg (by rw [ok]; exact Bool.false_ne_true)).trans (if_neg (Bool.eq_false_iff.1 free)))

/-! ### Queues (R372, R373, R381 to R383) -/

theorem doCreateQueue_of_pool {s : State} {c : CmdReq} {p : Pool} (pool : poolOn s (cmdSlice c) (newQueue (cmdSlice c) c.params).owner = some p)
    (id : (newQueue (cmdSlice c) c.params).id < 64) (lo : 4 ≤ (newQueue (cmdSlice c) c.params).ringLog2)
    (hi : (newQueue (cmdSlice c) c.params).ringLog2 ≤ 16) (new : findQueue s (cmdSlice c) (newQueue (cmdSlice c) c.params).id = none)
    (ring : ringOk s (cmdSlice c) (newQueue (cmdSlice c) c.params) = true) : doCreateQueue c s =
      if p.qlimit ≤ (s.queues.filter (fun q => q.slice == cmdSlice c && q.owner == (newQueue (cmdSlice c) c.params).owner)).length
      then failCmd c 5 s else finishOk c 0 [] (passOn (sliceBlocks s (cmdSlice c)) c (addQueue (newQueue (cmdSlice c) c.params) s)) := by
  have good : ¬(64 ≤ (newQueue (cmdSlice c) c.params).id ∨ (newQueue (cmdSlice c) c.params).ringLog2 < 4 ∨
      16 < (newQueue (cmdSlice c) c.params).ringLog2 ∨ (findQueue s (cmdSlice c) (newQueue (cmdSlice c) c.params).id).isSome = true ∨
      (!ringOk s (cmdSlice c) (newQueue (cmdSlice c) c.params)) = true) := by
    simp only [new, ring, Option.isSome_none, Bool.not_true, Bool.false_eq_true, or_false]
    omega
  simp only [doCreateQueue, pool, if_neg good]
  rfl

/-- Settles O45. -/
theorem queueCommands : Obligations.QueueCommands := by
  intro s seq c fresh
  refine ⟨fun cmd op mem h hop ok free => ?_, fun h unchanged free => ⟨fun x sel found rest => ?_, rfl, fun o sel here found => ?_, fun sel resting => ?_⟩,
    fun h p pool id lo hi new ring => ?_, fun h x found own => ?_, fun h x found lo hi => ?_, fun h quiet sl found none' noSnap => ?_⟩
  · have run := (exec_stopCommand mem h).trans (congrArg _ (doStop_of_free fresh ok free))
    subst hop
    refine ⟨fun force => run.trans ?_, fun soft => run.trans ?_, fun there => ?_⟩
    · simp only [force, if_true]
    · simp only [soft, if_neg Bool.false_ne_true]
    · obtain ⟨sl, found⟩ := Option.ne_none_iff_exists'.1 there
      exact obeyStop_askStop found _ _ _ _
  · refine (cmdStep_at (act := doResume) h).trans (congrArg _ ?_)
    simp only [doResume, fresh, sel, found, rest, unchanged, free]
    simp
  · refine (cmdStep_at (act := doResume) h).trans (congrArg _ ?_)
    have found' : openOf (writeControl (cmdSlice c) (fun k => { k with resume := some (1, par c 4 4), ack := none }) s) (cmdSlice c)
        (BitVec.ofNat 32 (par c 4 4)) = some o := found
    simp only [doResume, fresh, sel, found, here, obeyResume, found']
    simp
  · refine (cmdStep_at (act := doResume) h).trans (congrArg _ ?_)
    simp only [doResume, fresh, sel, unchanged, free]
    simp [resting]
    rfl
  · have run := (cmdStep_at (act := doCreateQueue) h).trans (congrArg _ (doCreateQueue_of_pool pool id lo hi new ring))
    exact ⟨fun room => run.trans (congrArg _ (if_neg (Nat.not_le.2 room))), fun full => run.trans (congrArg _ (if_pos full))⟩
  · refine (cmdStep_at (act := doDestroyQueue) h).trans (congrArg _ ?_)
    simp only [doDestroyQueue, found, fresh, own]
    simp [notQuiescedReply, stNotQuiesced]
  · refine (cmdStep_at (act := doSetTimeout) h).trans (congrArg _ ?_)
    simp only [doSetTimeout, found, if_neg (show ¬(par c 8 8 < 1000 ∨ 10 ^ 12 < par c 8 8) by omega)]
    rfl
  · refine (cmdStep_at (act := doResurface) h).trans (congrArg _ ?_)
    have alone : s.mgr.accepted.any (fun x => x.opcode == 0x0604 && cmdSlice x == cmdSlice c && decide (x.phase ≠ .fresh)) = false := by
      rw [List.any_eq_false]
      intro x hx
      simp [noSnap x hx]
    simp only [doResurface, fresh, quiet, alone, found]
    simp [none']

end Sys2Proof.Machine

/-! PROOFS. Commands on segments, logs, tallies and snapshots (spec/11) -/

namespace Sys2Proof.Machine

/-! ### Segments, logs, tallies and snapshots (R271 to R276, R298 to R308, R384) -/

theorem setContextTally_cfg (slice : Nat) (u : UnitId) (i : Nat) (f : Tally → Tally) (s : State) : (setContextTally slice u i f s).cfg = s.cfg := by
  obtain ⟨p, o, woken⟩ := wakeEngineWaits_only u (mapPlaced slice u i f s)
  rw [setContextTally, woken]
  change (mapPlaced slice u i f s).cfg = s.cfg
  unfold mapPlaced
  split
  · rfl
  · split <;> rfl

theorem foldl_cfg {α : Type} {step : State → α → State} (keeps : ∀ s x, (step s x).cfg = s.cfg) (xs : List α) (s : State) :
    (xs.foldl step s).cfg = s.cfg := by
  induction xs generalizing s with
  | nil => rfl
  | cons x xs ih => exact (ih _).trans (keeps s x)

theorem installSlice_cfg (slice : Nat) (im : Snapshot) (s : State) : (installSlice slice im s).cfg = s.cfg := by
  refine (foldl_cfg (fun s e => ?_) _ _).trans (foldl_cfg (fun s q => ?_) _ _)
  · exact setContextTally_cfg slice _ _ _ _
  · rfl

theorem exec_swapLogCommand {s : State} {seq : Word32} {c : CmdReq} {cmd : Instr} {op : Nat} {stop : Bool}
    (mem : (cmd, op, stop) ∈ [(Instr.readDirtyLog seq, 0x0305, false), (.stopDirtyLog seq, 0x0306, true)]) (h : AtCommand s seq op c)
    (hop : c.opcode = op) : exec cmd s = .next (doSwapLog c s) ∧ stop = (c.opcode == 0x0306) := by
  simp only [List.mem_cons, Prod.mk.injEq, List.not_mem_nil, or_false] at mem
  rcases mem with ⟨rfl, rfl, rfl⟩ | ⟨rfl, rfl, rfl⟩
  · exact ⟨cmdStep_at h, by rw [hop]; rfl⟩
  · exact ⟨cmdStep_at h, by rw [hop]; rfl⟩

theorem doSwapLog_of_log {s : State} {c : CmdReq} {sl : Slice} {d : DirtyLog} (fresh : c.phase = .fresh) (found : findSlice s (cmdSlice c) = some sl)
    (log : findLog sl (par c 0 1) = some d) (free : logBusy s c = false) :
    doSwapLog c s = if sl.sync.isSome then setPhase c.seq .waiting s else beginLogSwap c s := by
  have log' : (findSlice s (cmdSlice c)).bind (fun sl => findLog sl (par c 0 1)) = some d := by rw [found]; exact log
  have asked : cmdAsked c = false := by simp [cmdAsked, fresh]
  have sync : syncOpen s (cmdSlice c) = sl.sync.isSome := by rw [syncOpen, found]; rfl
  rw [doSwapLog, if_neg (Bool.eq_false_iff.1 asked), log', sync]
  exact if_neg (Bool.eq_false_iff.1 free)

/-- The swap that a log command asks for (R308). -/
def askedSwap (s : State) (c : CmdReq) : LogSwap :=
  { segment := par c 0 1, stop := c.opcode == 0x0306, since := now s, acks := [], swapTick := none }

theorem beginLogSwap_eq (s : State) (c : CmdReq) :
    let s1 := setPhase c.seq (.asked (sliceBlocks s (cmdSlice c)) true [] [])
      (mapSlice (cmdSlice c) (fun x => { x with logSwap := some (askedSwap s c) }) s)
    beginLogSwap c s = if (sliceBlocks s (cmdSlice c)).isEmpty then fixLogSwap (cmdSlice c) s1
      else emitD2d (sliceBlocks s (cmdSlice c)) (.mgmt (.logPrepare (cmdSlice c) (par c 0 1))) s1 := rfl

theorem doSnapshot_of_capture {s : State} {c : CmdReq} (fresh : c.phase = .fresh) (capture : par c 0 1 = 0)
    (room : bufferOk s (par c 8 8) (par c 16 4) = true) (quiet : ∀ x ∈ s.queues, x.slice = cmdSlice c → x.state = .quiesced) :
    doSnapshot c s = if (sliceBlocks s (cmdSlice c)).isEmpty then finishCapture c [] s
      else setPhase c.seq (.asked (sliceBlocks s (cmdSlice c)) true [] []) (passOn (sliceBlocks s (cmdSlice c)) c s) := by
  have all : (s.queues.filter (fun x => x.slice == cmdSlice c)).all (fun x => decide (x.state = .quiesced)) = true := by
    simpa [List.all_eq_true, imp_iff_not_or] using quiet
  simp only [doSnapshot, fresh, capture, room, all]
  simp

theorem doSnapshot_of_install {s : State} {c : CmdReq} {bs : List Byte} {im : Snapshot} (fresh : c.phase = .fresh) (install : par c 0 1 = 1)
    (room : bufferOk s (par c 8 8) (par c 16 4) = true) (empty : installable s (cmdSlice c) = true)
    (bytes : bufferRead s (par c 8 8) (par c 16 4) = some bs) (image : Config.snapshotImage bs = some im)
    (whole : snapshotOk s (cmdSlice c) im = true) : doSnapshot c s = finishOk c 0 (leBytes (par c 16 4) 4)
      (emitD2d (sliceBlocks s (cmdSlice c)) (.mgmt (.install (cmdSlice c) im)) (installSlice (cmdSlice c) im (stepFree s))) := by
  simp only [doSnapshot, fresh, install, room, empty, bytes, Option.bind_some, image, whole]
  simp

/-- Settles O46. -/
theorem sliceStateCommands : Obligations.SliceStateCommands := by
  intro s seq c sl fresh found
  refine ⟨fun h ok idle => ?_, fun h hn idle => ?_, fun h => ⟨fun next idle => ?_, fun same idle => ?_, fun gen busy => ?_⟩,
    fun h hn valid a b new => ?_, fun cmd op stop mem h hop d log free => ?_, fun h room => ?_, fun h here u unit there index => ?_,
    fun h capture room quiet => ?_, fun h install room empty bs im bytes image whole => ⟨?_, installSlice_cfg _ _ _⟩⟩
  · refine (cmdStep_at (act := doMap) h).trans (congrArg _ ?_)
    simp only [doMap, found, ok, idle]
    rfl
  · refine (cmdStep_at (act := doUnmap) h).trans (congrArg _ ?_)
    simp only [doUnmap, found, if_neg (Nat.not_le.2 hn), idle]
    rfl
  · refine (cmdStep_at (act := doSyncTables) h).trans (congrArg _ ?_)
    simp only [doSyncTables, found, fresh, next, idle]
    simp
  · refine (cmdStep_at (act := doSyncTables) h).trans (congrArg _ ?_)
    simp only [doSyncTables, found, fresh, same, idle]
    simp
  · refine (cmdStep_at (act := doSyncTables) h).trans (congrArg _ ?_)
    have syncing : sl.sync.isSome = true := Option.isSome_iff_ne_none.2 busy
    simp only [doSyncTables, found, if_neg (not_not.2 fresh), if_neg (show ¬(par c 0 4 ≠ sl.gen ∧ par c 0 4 ≠ sl.gen + 1) by omega), if_pos syncing]
    rfl
  · refine (cmdStep_at (act := doStartLog) h).trans (congrArg _ ?_)
    simp only [doStartLog, found, valid, a, b, new, Nat.not_le.2 hn]
    simp [startLog, par]
  · obtain ⟨run, hstop⟩ := exec_swapLogCommand mem h hop
    replace run := run.trans (congrArg _ (doSwapLog_of_log fresh found log free))
    refine ⟨fun busy => run.trans (congrArg _ (if_pos (Option.isSome_iff_ne_none.2 busy))), fun idle => ?_⟩
    subst hstop
    replace run := run.trans (congrArg _ ((if_neg (by simp [idle])).trans (beginLogSwap_eq s c)))
    exact ⟨fun alone => run.trans (congrArg _ (if_pos (by simp [alone]))), fun many => run.trans (congrArg _ (if_neg (by simp [many])))⟩
  · refine (cmdStep_at (act := doDump) h).trans (congrArg _ ?_)
    simp only [doDump, fresh, room, dumpTick, List.isEmpty_iff]
    rfl
  · refine (cmdStep_at (act := doSetTally) h).trans (congrArg _ ?_)
    have set : trySetTally (cmdSlice c) c.params s = some (setTally (cmdSlice c) u (par c 2 1) (par c 8 8) s) := by
      have unit' : tallyUnit (byteField c.params 1 1) = some u := unit
      rw [trySetTally, unit']
      exact if_pos ⟨there, index⟩
    simp only [doSetTally, fresh, here, set]
    simp
  · have run := (cmdStep_at (act := doSnapshot) h).trans (congrArg _ (doSnapshot_of_capture fresh capture room quiet))
    refine ⟨fun alone => (run.trans (congrArg _ (if_pos (by simp [alone])))).trans (congrArg _ ?_),
      fun many => run.trans (congrArg _ (if_neg (by simp [many])))⟩
    simp only [finishCapture]
    split
    · next short => rw [if_neg (Nat.not_le.2 short)]; rfl
    · next fits => rw [if_pos (Nat.not_lt.1 fits)]
  · exact (cmdStep_at (act := doSnapshot) h).trans (congrArg _ (doSnapshot_of_install fresh install room empty bytes image whole))

end Sys2Proof.Machine

/-! PROOFS. Keys, weights and firmware (spec/14) -/

namespace Sys2Proof.Machine

/-! ### Keys, weights and firmware (spec/14) -/

theorem doOpenSession_of_weights {s : State} {c : CmdReq} (purpose : par c 0 1 = 0) (stays : beingResurfaced s (cmdSlice c) = false)
    (room : bufferOk s (par c 8 8) Config.spdmLength = true) :
    (bufferRead s (par c 8 8) Config.spdmLength = none → doOpenSession c s = bufferBad c (par c 8 8) s) ∧
    ∀ msg, bufferRead s (par c 8 8) Config.spdmLength = some msg →
      doOpenSession c s = (Config.spdmResponse s.free msg).elim (failCmd c 12 { s with free := s.free + 1 }) (fun r => openSession c 0 r s) := by
  refine ⟨fun none' => ?_, fun msg bytes => ?_⟩
  · simp [doOpenSession, purpose, stays, room, none']
  · simp only [doOpenSession, purpose, stays, room, bytes]
    cases Config.spdmResponse s.free msg <;> simp [stIntegrity]

theorem doReleaseKey_of_open {s : State} {c : CmdReq} {k : Nat} {wrapped : List Byte} (room : bufferOk s (par c 8 8) (par c 16 4) = true)
    (opened : sessionOpen s (par c 0 4) (cmdSlice c) = true) (lock : s.boot.dbgUnlocked = false) (slot : freeWeightSlot s = some k)
    (bytes : bufferRead s (par c 8 8) (par c 16 4) = some wrapped) :
    (Config.unwrapKey (par c 0 4) wrapped = none → doReleaseKey c s = failCmd c 12 (writeRecord (plainRecord 0x802 0 0) s)) ∧
    ∀ tag ok, Config.unwrapKey (par c 0 4) wrapped = some (tag, ok) →
      doReleaseKey c s = if tag = sliceTag s (cmdSlice c) ∧ ok = true then finishOk c 0 (leBytes k 4) { s with keys := { s.keys with
        weight := s.keys.weight ++ [(k, cmdSlice c, s.keys.released)], released := s.keys.released + 1 } } else failCmd c 6 s := by
  refine ⟨fun bad => ?_, fun tag ok good => ?_⟩
  · simp only [doReleaseKey, room, opened, lock, slot, bytes, bad]
    rfl
  · simp only [doReleaseKey, room, opened, lock, slot, bytes, good]
    by_cases h : tag = sliceTag s (cmdSlice c) <;> cases ok <;> simp [h, stDenied, mapKeys]

theorem doFwStage_of_part {s : State} {c : CmdReq} {total : Nat} {bs : List Byte} (opened : s.fw.opened = some total) (unsealed : s.fw.verified = false)
    (within : par c 0 4 + par c 16 4 ≤ total) (room : bufferOk s (par c 8 8) (par c 16 4) = true)
    (bytes : bufferRead s (par c 8 8) (par c 16 4) = some bs) :
    let t := passOn (otherBlocks s) c (stagePart (par c 0 4) bs s)
    doFwStage c s = if stagedBytes t.fw.staged < total then finishOk c 0 (leBytes (stagedBytes t.fw.staged) 4) t
      else if (verifyStaged t).fw.verified then finishOk c 0 (leBytes (stagedBytes t.fw.staged) 4) (verifyStaged t)
      else failCmd c 12 (verifyStaged t) := by
  have go : ¬(s.fw.verified = true ∨ total < par c 0 4 + par c 16 4 ∨ (!bufferOk s (par c 8 8) (par c 16 4)) = true) := by
    simp [unsealed, room, within]
  simp only [doFwStage, opened, if_neg go, bytes]
  rfl

/-- Settles O47. -/
theorem keyAndFirmwareCommands : Obligations.KeyAndFirmwareCommands := by
  intro s seq c
  refine ⟨fun h purpose stays => (cmdStep_at (act := doOpenSession) h).trans (congrArg _ ?_),
    fun h room opened lock k wrapped slot bytes => (cmdStep_at (act := doReleaseKey) h).trans (congrArg _ ?_),
    fun h sl w found key room dest => (cmdStep_at (act := doLoadWeights) h).trans (congrArg _ ?_),
    fun h fits idle => ⟨fun shut => ?_, fun busy => ?_⟩, fun h total bs opened unsealed within room bytes => ?_, fun h fresh idle whole => ?_,
    fun t handoff => ⟨?_, ?_, fun early => ?_, fun late => ?_⟩⟩
  · cases room : bufferOk s (par c 8 8) Config.spdmLength with
    | false => simp [doOpenSession, room, stBadParam]
    | true =>
      obtain ⟨bad, good⟩ := doOpenSession_of_weights purpose stays room
      rw [if_neg (by simp)]
      cases bytes : bufferRead s (par c 8 8) Config.spdmLength with
      | none => exact bad bytes
      | some msg =>
        refine (good msg bytes).trans ?_
        cases answer : Config.spdmResponse s.free msg <;> simp [answer]
  · obtain ⟨bad, good⟩ := doReleaseKey_of_open room opened lock slot bytes
    cases unwrapped : Config.unwrapKey (par c 0 4) wrapped with
    | none => exact bad unwrapped
    | some k => exact good k.1 k.2 unwrapped
  · simp only [doLoadWeights, found, key, room, dest]
    rfl
  · refine (cmdStep_at (act := doFwBegin) h).trans (congrArg _ ?_)
    exact (if_neg (Nat.not_lt.2 fits)).trans (if_neg (by simp [idle, shut]))
  · refine (cmdStep_at (act := doFwBegin) h).trans (congrArg _ ?_)
    exact (if_neg (Nat.not_lt.2 fits)).trans (if_pos (by simp [Option.isSome_iff_ne_none.2 busy]))
  · have run := (cmdStep_at (act := doFwStage) h).trans (congrArg _ (doFwStage_of_part opened unsealed within room bytes))
    exact ⟨fun more => run.trans (congrArg _ (if_pos more)), fun whole => run.trans (congrArg _ (if_neg (Nat.not_lt.2 whole)))⟩
  · refine (cmdStep_at (act := doFwHandoff) h).trans (congrArg _ ?_)
    exact (if_neg (not_not.2 fresh)).trans ((if_neg (by simp [idle])).trans (if_neg (by simp [whole])))
  · change execFwHandoffAck true s = _
    simp only [execFwHandoffAck, handoff, if_true]
  · change execFwHandoffAck false s = _
    simp only [execFwHandoffAck, handoff]
    rfl
  · change execFwHandoffTimeout s = _
    simp only [execFwHandoffTimeout, handoff, if_pos early]
  · change execFwHandoffTimeout s = _
    simp only [execFwHandoffTimeout, handoff, if_neg (Nat.not_lt.2 late)]
    rfl

end Sys2Proof.Machine

/-! PROOFS. Lanes, link states and pairing commands (spec/09, spec/13) -/

namespace Sys2Proof.Machine

/-! ### Schuss, lanes and link states (R348, R351, R565) -/

theorem doLaneTest_of_ok {s : State} {c : CmdReq} (some' : 0 < byteField c.params 0 1) (few : byteField c.params 0 1 ≤ 48)
    (ok : ∀ i < byteField c.params 0 1, laneEntryOk c.params i = true) :
    let s1 := (laneEntries c.params).foldl startTest s
    let s2 := (groupsWhere (fun g => groupTesting s g && !groupTesting s1 g && (groupAt s1 g).up)).foldl (fun s g => beginRetrain g s) s1
    let sent := ((laneEntries c.params).filter (fun e => e.mode % 2 == 1)).map (fun e => Output.pattern e.lane (prbs e.pat).1 (prbs e.pat).2)
    doLaneTest c s = if anyGroupUp s2 then
      finishOk c 0 (leBytes (maskOf (groupsWhere (fun g => !groupTesting s g && groupTesting s1 g))) 4) (emitAll sent s2) else failCmd c 5 s := by
  have all : (List.range (byteField c.params 0 1)).all (laneEntryOk c.params) = true :=
    List.all_eq_true.2 fun i hi => ok i (List.mem_range.1 hi)
  have go : ¬(byteField c.params 0 1 = 0 ∨ 48 < byteField c.params 0 1 ∨ (!(List.range (byteField c.params 0 1)).all (laneEntryOk c.params)) = true) := by
    rw [all]
    simp only [Bool.not_true, Bool.false_eq_true, or_false]
    omega
  simp only [doLaneTest, if_neg go]
  split
  · next down => exact (if_neg (by simpa using down)).symm
  · next up => exact (if_pos (by simpa using up)).symm

theorem anotherUp_iff {s : State} {g : Nat} :
    (List.range 8).any (fun h => h != g && groupTarget s h == 0) = true ↔ ∃ h < 8, h ≠ g ∧ groupTarget s h = 0 := by
  simp [List.any_eq_true]

/-! ### Pairing (R445, R446, R459) -/

theorem Records.twin {s t : State} (h : Records s t) : t.twin = s.twin := by
  obtain ⟨q, i, f, o, n, rfl⟩ := h
  rfl

theorem setTwinState_twin (st : TwinState) (s : State) : (setTwinState st s).twin = { s.twin with state := st } :=
  (raiseSource_records 5 _).twin.trans (writeRecord_records _ _).twin

/-- The block's own request to pair has gone to the other block, and an old request of that block is forgotten (R446). -/
def pairAsked (c : CmdReq) (s : State) : State :=
  setPhase c.seq .waiting (emit (.tether (.pairRequest (par c 2 1) (par c 0 2))) { s with twin := { s.twin with
    asked := some (c.seq, now s), node := some (par c 0 2), mode := par c 2 1, modeWanted := none } })

theorem dropOldRequest_of_young {s : State} (h : ∀ n m t, s.twin.peerAsked = some (n, m, t) → now s < t + 78125000) : dropOldRequest s = s := by
  have young : s.twin.peerAsked.filter (fun p => decide (now s < p.2.2 + 78125000)) = s.twin.peerAsked := by
    cases asked : s.twin.peerAsked with
    | none => rfl
    | some p => simp [Option.filter, h p.1 p.2.1 p.2.2 asked]
  change { s with twin := { s.twin with peerAsked := s.twin.peerAsked.filter (fun p => decide (now s < p.2.2 + 78125000)) } } = s
  rw [young]

section
variable {s : State} {c : CmdReq} (fresh : c.phase = .fresh) (single : s.twin.state = .unpaired) (free : s.twin.fenced = false)
  (idle : s.twin.asked = none)
include fresh single free idle

theorem doPairTwin_of_solo (solo : par c 2 1 = 2) : doPairTwin c s = replyTwin c (setTwinState .solo s) := by
  refine (if_neg (not_not.2 fresh)).trans ((if_neg (by omega)).trans ((if_neg (by simp [free, idle])).trans ((if_pos single).trans (if_pos solo))))

theorem doPairTwin_of_other (mode : par c 2 1 < 2) (node : par c 0 2 < 4096) (far : par c 0 2 ≠ ownNode s)
    (young : ∀ n m t, s.twin.peerAsked = some (n, m, t) → now s < t + 78125000) : doPairTwin c s = matchRequests (pairAsked c s) := by
  refine (if_neg (not_not.2 fresh)).trans ((if_neg (by omega)).trans ((if_neg (by simp [free, idle])).trans ((if_pos single).trans
    ((if_neg (by omega)).trans (congrArg (fun t => matchRequests (setPhase c.seq .waiting (emit (.tether (.pairRequest (par c 2 1) (par c 0 2))) t)))
      (dropOldRequest_of_young young))))))

end

theorem matchRequests_of_none {s : State} (h : s.twin.peerAsked = none) : matchRequests s = s := by
  unfold matchRequests
  rw [h]
  split <;> simp_all

theorem matchRequests_of_both {s : State} {a : Word32 × Nat} {n m t : Nat} (mine : s.twin.asked = some a)
    (theirs : s.twin.peerAsked = some (n, m, t)) (node : s.twin.node = some n) (wanted : s.twin.modeWanted = none) (single : s.twin.state = .unpaired) :
    matchRequests s = if m = s.twin.mode then beginPairing n m s else failPairing 6 s := by
  simp only [matchRequests, mine, theirs, node, wanted, single, Option.getD_none]
  by_cases same : m = s.twin.mode
  · simp [same]
  · simp [same, stDenied]

theorem exec_pairTwinTimeout_of_asked {s : State} {q : Word32} {t : Nat} (asked : s.twin.asked = some (q, t)) : exec .pairTwinTimeout s =
    if now s < t + 78125000 then .next s else .next (failPairing 8 (mapTwin (fun w => { w with modeWanted := none }) s)) := by
  change execPairTwinTimeout s = _
  rw [execPairTwinTimeout, asked]
  rfl

/-- Settles O48. -/
theorem linkAndTwinCommands : Obligations.LinkAndTwinCommands := by
  intro s seq c
  refine ⟨fun h => cmdStep_at (act := doSetSchuss) h, fun h some' few ok => ?_, ⟨rfl, rfl, rfl, rfl, rfl⟩,
    fun h hg hst => ⟨fun stays => ?_, fun down none' => ?_⟩,
    fun h fresh single free idle => ⟨fun solo => ⟨?_, congrArg Twin.state (setTwinState_twin _ _)⟩, fun mode node far quiet => ?_,
      fun m t mode node far theirs young => ?_⟩,
    fun q t asked => ⟨fun early => ?_, fun late => ?_⟩, fun h here => ⟨fun single => ?_, fun paired => ⟨?_, ?_, ?_⟩⟩, fun h fresh here paired node => ?_⟩
  · exact (cmdStep_at (act := doLaneTest) h).trans (congrArg _ (doLaneTest_of_ok some' few ok))
  · refine (cmdStep_at (act := doLaneState) h).trans (congrArg _ ((if_neg (by omega)).trans (if_neg ?_)))
    rintro ⟨ne, no⟩
    rcases stays with h0 | another
    · exact ne h0
    · simp [anotherUp_iff.2 another] at no
  · refine (cmdStep_at (act := doLaneState) h).trans (congrArg _ ((if_neg (by omega)).trans (if_pos ⟨down, ?_⟩)))
    have no : ¬(List.range 8).any (fun h => h != byteField c.params 0 1 && groupTarget s h == 0) = true := fun yes => by
      obtain ⟨h, h8, ne, up⟩ := anotherUp_iff.1 yes
      exact none' h h8 ne up
    simpa using no
  · exact (cmdStep_at (act := doPairTwin) h).trans (congrArg _ (doPairTwin_of_solo fresh single free idle solo))
  · refine (cmdStep_at (act := doPairTwin) h).trans (congrArg _ ((doPairTwin_of_other fresh single free idle mode node far ?_).trans ?_))
    · intro n m t asked
      rw [quiet] at asked
      cases asked
    · exact matchRequests_of_none quiet
  · refine (cmdStep_at (act := doPairTwin) h).trans (congrArg _ ((doPairTwin_of_other fresh single free idle mode node far ?_).trans ?_))
    · intro n m' t' asked
      rw [theirs] at asked
      cases asked
      exact young
    · exact matchRequests_of_both (s := pairAsked c s) rfl theirs rfl rfl single
  · exact (exec_pairTwinTimeout_of_asked asked).trans (if_pos early)
  · exact (exec_pairTwinTimeout_of_asked asked).trans (if_neg (Nat.not_lt.2 late))
  · exact (cmdStep_at (act := doUnpair) h).trans (congrArg _ ((if_neg (Bool.eq_false_iff.1 here)).trans (if_pos single)))
  · exact (cmdStep_at (act := doUnpair) h).trans (congrArg _ ((if_neg (Bool.eq_false_iff.1 here)).trans (if_neg paired)))
  · exact congrArg Twin.state (setTwinState_twin _ _)
  · exact congrArg Twin.node (setTwinState_twin _ _)
  · exact (cmdStep_at (act := doFailover) h).trans (congrArg _ ((if_neg (not_not.2 fresh)).trans ((if_neg (Bool.eq_false_iff.1 here)).trans
      (if_neg (by simp [paired, node])))))

end Sys2Proof.Machine

/-! PROOFS. Recovery and failover (spec/13) -/

namespace Sys2Proof.Machine

/-! ### The reset ladder (R428 to R434) -/

theorem exec_resetRung_of_due {s : State} {u : UnitId} {eng : Nat} {why : RungCause} (ok : unitOk u = true) (free : underReset s u eng = false)
    (due : rungDue s u why = true) :
    let l : Ladder := { id := s.recovery.nextLadder, rung := 1, since := now s, left := [unitIdx u], unit := u, eng := eng }
    exec (.resetRung u eng why) s = .next (noteRung 1 [unitIdx u] (resetEngine u eng (noteHang u
      { s with recovery := { s.recovery with ladders := s.recovery.ladders ++ [l], nextLadder := s.recovery.nextLadder + 1 } }))) :=
  if_neg (by simp [ok, free, due])

theorem rungDue_notStopped {s : State} {u : UnitId} :
    rungDue s u .notStopped = true ↔ ∃ t, (unitIdx u, t) ∈ s.recovery.stopAsked ∧ t + 782 ≤ now s := by
  simp only [rungDue, List.any_eq_true, Bool.and_eq_true, beq_iff_eq, decide_eq_true_eq]
  constructor
  · rintro ⟨⟨i, t⟩, mem, rfl, late⟩
    exact ⟨t, mem, late⟩
  · rintro ⟨t, mem, late⟩
    exact ⟨(unitIdx u, t), mem, rfl, late⟩

theorem rungDue_of_cause {s : State} {u : UnitId} {why : RungCause}
    (h : why = .controlError ∨ ∃ t, (unitIdx u, t) ∈ s.recovery.stopAsked ∧ t + 782 ≤ now s) : rungDue s u why = true := by
  cases why with
  | controlError => rfl
  | notStopped =>
    rcases h with h | late
    · cases h
    · exact rungDue_notStopped.2 late

theorem exec_rungLimitExpiry_of_ladder {s : State} {id : Nat} {l : Ladder} (found : s.recovery.ladders.find? (fun l => l.id == id) = some l) :
    exec (.rungLimitExpiry id) s = if now s < l.since + rungLimit l.rung then .next s else .next (nextRung l s) := by
  change execRungLimitExpiry id s = _
  simp only [execRungLimitExpiry, found]

/-- What a ladder comes to when some of its units are back (R428). -/
def ladderBack (l : Ladder) (id : Nat) (back : List Nat) (s : State) : State :=
  if l.left.all back.contains then dropLadder id s else putLadder { l with left := l.left.filter (fun x => !back.contains x) } s

theorem exec_rungComplete_of_ladder {s : State} {id : Nat} {l : Ladder} (found : s.recovery.ladders.find? (fun l => l.id == id) = some l)
    (back : List Nat) : exec (.rungComplete id back) s = if l.rung = 1 then .next (ladderBack l id back s)
      else .next ((l.left.filter (fun x => back.contains x && decide (x < 40))).foldl (fun s x => allocate (unitAt x) s) (ladderBack l id back s)) := by
  have none' : (l.left.filter (fun x => !back.contains x)).isEmpty = l.left.all back.contains := by
    rw [Bool.eq_iff_iff]
    simp [List.isEmpty_iff, List.filter_eq_nil_iff, List.all_eq_true]
  change execRungComplete id back s = _
  simp only [execRungComplete, found, none']
  rfl

theorem ladderBack_of_all {l : Ladder} {back : List Nat} (h : ∀ x ∈ l.left, x ∈ back) (id : Nat) (s : State) :
    ladderBack l id back s = dropLadder id s :=
  if_pos (List.all_eq_true.2 fun x hx => List.contains_iff_mem.2 (h x hx))

theorem ladderBack_of_some {l : Ladder} {back : List Nat} (h : ∃ x ∈ l.left, x ∉ back) (id : Nat) (s : State) :
    ladderBack l id back s = putLadder { l with left := l.left.filter (fun x => !back.contains x) } s := by
  refine if_neg fun all => ?_
  obtain ⟨x, hx, out⟩ := h
  exact out (List.contains_iff_mem.1 (List.all_eq_true.1 all x hx))

/-! ### Restarts of cores and of the management pair (R435 to R437) -/

theorem exec_schedRestart_of_restarting {s : State} {k : Nat} (hk : k < 4) (down : s.recovery.schedRestarting.getLsbD k = true) (ok : Bool) :
    let n := (s.recovery.schedRestarts.filter (fun e => e.1 == k && decide (now s < e.2 + 56250000000))).length
    exec (.schedRestart k ok) s = .next (writeRecord (plainRecord 0x905 0 0) { s with recovery := { s.recovery with
      schedRestarting := s.recovery.schedRestarting &&& ~~~(1#4 <<< k)
      schedSeen := Sparse.put s.recovery.schedSeen k (now s)
      schedDown := if ok = false ∨ 3 ≤ n then s.recovery.schedDown ||| (1#4 <<< k) else s.recovery.schedDown } }) := by
  intro n
  have stays : (if (!ok || decide (3 ≤ n)) = true then s.recovery.schedDown ||| (1#4 <<< k) else s.recovery.schedDown) =
      if ok = false ∨ 3 ≤ n then s.recovery.schedDown ||| (1#4 <<< k) else s.recovery.schedDown :=
    if_congr (by simp) rfl rfl
  refine (if_neg (Nat.not_le.2 hk)).trans ((if_neg (by simp [down])).trans ?_)
  rw [← stays]
  rfl

theorem exec_lockstepMismatch_of_running {s : State} (runs : s.recovery.restartSince = none) :
    let s1 := { s with mgr := { s.mgr with accepted := [] }, recovery := { s.recovery with restartSince := some (now s) } }
    (s.cfg.commit = none → exec .lockstepMismatch s = .next s1) ∧ ∀ k, s.cfg.commit = some k →
      exec .lockstepMismatch s = .next (if s.boot.isLead ∧ k.go = none then abortCommit k 8 s1 else holdCommit s1) := by
  have go : ¬s.recovery.restartSince.isSome = true := by simp [runs]
  refine ⟨fun idle => (if_neg go).trans ?_, fun k held => (if_neg go).trans ?_⟩
  · simp only [idle]
    rfl
  · simp only [held, Bool.and_eq_true, Option.isNone_iff_eq_none]
    exact (apply_ite Host.Outcome.next _ _ _).symm

theorem exec_lockstepRestart_of_since {s : State} {t : Nat} (since : s.recovery.restartSince = some t) :
    exec .lockstepRestart s = .next (raiseSource 0 (writeRecord (plainRecord 0x906 0 0) (if s.mgr.holder.isSome then { s with
        recovery := { s.recovery with restartSince := none }, mgr := { s.mgr with expiry := s.mgr.expiry + (now s - t) } }
      else { s with recovery := { s.recovery with restartSince := none } }))) := by
  change execLockstepRestart s = _
  rw [execLockstepRestart, since]
  rfl

/-! ### Ski patrol (R440 to R442) -/

theorem exec_patrolRun_of_capture {s : State} {u : UnitId} {eng : Nat} {c : Capture} (empty : headEmpty s u eng = true)
    (found : s.patrol.captures.find? (fun c => nextArray s (captureArray c) == arrayIx u eng) = some c) (second third : Word64) :
    exec (.patrolRun u eng second third) s = if second = 0 then .next { s with patrol := { s.patrol with captures := s.patrol.captures.erase c } }
      else .next (patrolMismatch c second third { s with patrol := { s.patrol with captures := s.patrol.captures.erase c } }) := by
  change execPatrolRun u eng second third s = _
  rw [execPatrolRun, if_neg (by simp [empty]), found]

theorem exec_patrolDiscard_of_capture {s : State} {u : UnitId} {eng : Nat} {c : Capture}
    (found : s.patrol.captures.find? (fun c => decide (c.unit = u) && c.eng == eng) = some c) : exec (.patrolDiscard u eng) s = .next { s with
      patrol := { s.patrol with captures := s.patrol.captures.erase c }
      telemetry := { s.telemetry with patrolDiscards := s.telemetry.patrolDiscards + 1 } } := by
  change execPatrolDiscard u eng s = _
  rw [execPatrolDiscard, found]

/-! ### What sending and replying leave of the node that this block answers for -/

/-- The nodes that the block has assumed, and what it holds of its twin. -/
def KeepsNode (s t : State) : Prop := t.fab.assumed = s.fab.assumed ∧ t.twin = s.twin

theorem KeepsNode.refl (s : State) : KeepsNode s s := ⟨rfl, rfl⟩

theorem KeepsNode.ite {s t u : State} {c : Prop} [Decidable c] (h : KeepsNode s t) (k : KeepsNode s u) : KeepsNode s (if c then t else u) := by
  split
  · exact h
  · exact k

theorem foldl_keepsNode {α : Type} {s : State} {f : State → α → State} (h : ∀ t a, KeepsNode s t → KeepsNode s (f t a)) {l : List α} {t : State}
    (k : KeepsNode s t) : KeepsNode s (l.foldl f t) := by
  induction l generalizing t with
  | nil => exact k
  | cons a l ih => exact ih (h t a k)

section
variable {s t : State}

theorem emit_keepsNode {o} (k : KeepsNode s t) : KeepsNode s (emit o t) := k
theorem emitAll_keepsNode {os} (k : KeepsNode s t) : KeepsNode s (emitAll os t) := k
theorem setGroup_keepsNode {g x} (k : KeepsNode s t) : KeepsNode s (setGroup g x t) := k

theorem sendFrame_keepsNode {g nak q} (k : KeepsNode s t) : KeepsNode s (sendFrame g nak q t) := by
  unfold sendFrame
  dsimp only
  split
  · exact setGroup_keepsNode (.ite (emit_keepsNode (emit_keepsNode (setGroup_keepsNode k))) (emit_keepsNode (setGroup_keepsNode k)))
  · exact .ite (emit_keepsNode (emit_keepsNode (setGroup_keepsNode k))) (emit_keepsNode (setGroup_keepsNode k))

theorem pumpOne_keepsNode {s t u : State} (k : KeepsNode s t) (h : pumpOne t = some u) : KeepsNode s u := by
  unfold pumpOne at h
  split at h
  · cases h
  · obtain ⟨q, _, rfl⟩ := Option.map_eq_some_iff.1 h
    exact sendFrame_keepsNode k

theorem pump_keepsNode {n : Nat} (k : KeepsNode s t) : KeepsNode s (pump n t) := by
  induction n generalizing t with
  | zero => exact k
  | succ n ih =>
    unfold pump
    split
    · exact ih (pumpOne_keepsNode k ‹_›)
    · exact k

theorem closeBlocks_keepsNode (k : KeepsNode s t) : KeepsNode s (closeBlocks t) := .ite k (emitAll_keepsNode k)
theorem returnCredits_keepsNode (k : KeepsNode s t) : KeepsNode s (returnCredits t) :=
  foldl_keepsNode (fun _ _ k' => (foldl_keepsNode (fun _ _ k'' => (.ite (sendFrame_keepsNode k'') k'')) k')) k
theorem flushOutbox_keepsNode (k : KeepsNode s t) : KeepsNode s (flushOutbox t) :=
  closeBlocks_keepsNode (returnCredits_keepsNode (pump_keepsNode k))
theorem sendParcel_keepsNode {q} (k : KeepsNode s t) : KeepsNode s (sendParcel q t) := flushOutbox_keepsNode k
theorem transmit_keepsNode {p} (k : KeepsNode s t) : KeepsNode s (transmit p t) := .ite (emit_keepsNode k) (sendParcel_keepsNode k)
theorem sendD2d_keepsNode {b m} (k : KeepsNode s t) : KeepsNode s (sendD2d b m t) := .ite (emit_keepsNode k) (sendParcel_keepsNode k)
theorem emitD2d_keepsNode {blks m} (k : KeepsNode s t) : KeepsNode s (emitD2d blks m t) :=
  foldl_keepsNode (fun _ _ k' => (sendD2d_keepsNode k')) k
theorem setMailbox_keepsNode {m b} (k : KeepsNode s t) : KeepsNode s (setMailbox m b t) := k
theorem refreshLevels_keepsNode (k : KeepsNode s t) : KeepsNode s (refreshLevels t) := k

theorem memWrite_keepsNode {addr slot : Nat} {data : List Byte} (k : KeepsNode s t) : KeepsNode s (memWrite addr slot data t) := by
  obtain ⟨m, n, h⟩ := memWrite_only addr slot data t
  rw [h]
  exact k

theorem postRequest_keepsNode {slice p owner act} (k : KeepsNode s t) : KeepsNode s (postRequest slice p owner act t) :=
  .ite (transmit_keepsNode k) k
theorem putMessage_keepsNode {m ws who} (k : KeepsNode s t) : KeepsNode s (putMessage m ws who t) := setMailbox_keepsNode k
theorem sendSegment_keepsNode (k : KeepsNode s t) : KeepsNode s (sendSegment t) := putMessage_keepsNode k

theorem writeRing_keepsNode {s t u : State} {bs : List Byte} (k : KeepsNode s t) (h : writeRing bs t = some u) : KeepsNode s u := by
  unfold writeRing at h
  dsimp only at h
  split at h
  · cases h
  · cases h
    exact memWrite_keepsNode (.ite k (memWrite_keepsNode k))

theorem pumpList_keepsNode {rs : List (List Byte × Nat × Word32)} (k : KeepsNode s t) : KeepsNode s (pumpList rs t) := by
  induction rs generalizing t with
  | nil => exact k
  | cons r rs ih =>
    unfold pumpList
    split
    · split
      · exact ih (writeRing_keepsNode k ‹_›)
      · exact k
    · split
      · exact k
      · split
        · exact putMessage_keepsNode (m := 1) (ws := bufferMessage r.1 r.2.1 r.2.2) (who := manager0) (memWrite_keepsNode k)
        · exact sendSegment_keepsNode k

theorem pumpReplies_keepsNode (k : KeepsNode s t) : KeepsNode s (pumpReplies t) := refreshLevels_keepsNode (pumpList_keepsNode k)

theorem deliver_keepsNode {who buffer r} (k : KeepsNode s t) : KeepsNode s (deliver who buffer r t) := by
  unfold deliver
  split
  · exact pumpReplies_keepsNode k
  · exact emit_keepsNode k
  · exact k

theorem finish_keepsNode {c status detail0 detail} (k : KeepsNode s t) : KeepsNode s (finish c status detail0 detail t) :=
  deliver_keepsNode k
theorem finishOk_keepsNode {c detail0 detail} (k : KeepsNode s t) : KeepsNode s (finishOk c detail0 detail t) := finish_keepsNode k
theorem failCmd_keepsNode {c status} (k : KeepsNode s t) : KeepsNode s (failCmd c status t) := finish_keepsNode k

theorem abortCommit_keepsNode {k0 status} (k : KeepsNode s t) : KeepsNode s (abortCommit k0 status t) := by
  unfold abortCommit
  dsimp only
  split
  · exact failCmd_keepsNode (emitD2d_keepsNode k)
  · exact emitD2d_keepsNode k

theorem replyTwin_keepsNode {c} (k : KeepsNode s t) : KeepsNode s (replyTwin c t) := finishOk_keepsNode k
theorem sendNotice_keepsNode {kind failed node} (k : KeepsNode s t) : KeepsNode s (sendNotice kind failed t node) :=
  postRequest_keepsNode k

theorem installAssumed_keepsNode {slice} (k : KeepsNode s t) : KeepsNode s (installAssumed t slice) := k

end

/-! ### Failover (R452, R453) -/

/-- A failover that goes on leaves the assumed nodes, and what the remap has settled, as they are. -/
theorem settleFailover_remap (s : State) : (settleFailover s).fab.assumed = s.fab.assumed ∧
    (settleFailover s).twin.remapWanted = s.twin.remapWanted ∧ (settleFailover s).twin.assumed = s.twin.assumed := by
  unfold settleFailover
  split
  · exact ⟨rfl, rfl, rfl⟩
  · next node _ =>
    split
    · exact ⟨rfl, rfl, rfl⟩
    · have install : KeepsNode (mapTwin (fun t => { t with installed := true }) s)
          ((failedSlices s).foldl installAssumed (mapTwin (fun t => { t with installed := true }) s)) :=
        foldl_keepsNode (fun _ _ => installAssumed_keepsNode) (.refl _)
      obtain ⟨nodes, twin⟩ := foldl_keepsNode (f := sendNotice 1 node) (l := ((failedSlices s).foldl installAssumed
        (mapTwin (fun t => { t with installed := true }) s)).twin.notified) (fun _ _ => sendNotice_keepsNode) install
      have wanted := congrArg Twin.remapWanted twin
      have assumed := congrArg Twin.assumed twin
      dsimp only
      split
      · next c _ =>
        obtain ⟨nodes', twin'⟩ := replyTwin_keepsNode (c := c) (KeepsNode.refl (mapTwin (fun t => { t with handover := none }) _))
        rw [nodes', twin']
        exact ⟨nodes, wanted, assumed⟩
      · exact ⟨nodes, wanted, assumed⟩

/-- What a failover that begins notes of the twin (R453). -/
def declareFailure (tell : List Nat) (again : Bool) (s : State) : State :=
  mapTwin (fun t => { t with
    remapWanted := true, awaiting := tell, notified := tell, replay := again, probing := none, installed := false, declared := now s }) s

/-- A pending commit fails with the failover (R463). -/
def failCommit (s : State) : State := s.cfg.commit.elim s (fun k => abortCommit k stInFailover s)

theorem failCommit_keepsNode {s t : State} (k : KeepsNode s t) : KeepsNode s (failCommit t) := by
  unfold failCommit
  cases t.cfg.commit with
  | none => exact k
  | some c => exact abortCommit_keepsNode k

theorem beginFailover_eq {s : State} {node : Nat} (h : s.twin.node = some node) (again : Bool) :
    let tell := if again && s.twin.mode == 0 then peersToTell s else []
    let t := failCommit (setTwinState .failedOver (declareFailure tell again s))
    beginFailover again s = tell.foldl (sendNotice 0 node) (emit (.remapRequest node)
      { t with contexts := t.contexts.map (fun c => { c with pinned := false }) }) := by
  intro tell t
  have commit : t = match (setTwinState .failedOver (declareFailure tell again s)).cfg.commit with
      | some k => abortCommit k stInFailover (setTwinState .failedOver (declareFailure tell again s))
      | none => setTwinState .failedOver (declareFailure tell again s) := by
    change failCommit _ = _
    unfold failCommit
    split <;> simp_all
  rw [commit, beginFailover, h]
  rfl

/-- R453: a failover that begins makes the block `FAILED_OVER`, with the remap of the node asked for. -/
theorem beginFailover_twin {s : State} {node : Nat} (h : s.twin.node = some node) (again : Bool) :
    (beginFailover again s).twin.state = .failedOver ∧ (beginFailover again s).twin.remapWanted = true := by
  suffices kept : ∃ tell, KeepsNode (setTwinState .failedOver (declareFailure tell again s)) (beginFailover again s) by
    obtain ⟨tell, -, twin⟩ := kept
    rw [twin, setTwinState_twin]
    exact ⟨rfl, rfl⟩
  refine ⟨if again && s.twin.mode == 0 then peersToTell s else [], ?_⟩
  rw [beginFailover_eq h]
  exact foldl_keepsNode (fun _ _ => sendNotice_keepsNode) (emit_keepsNode (failCommit_keepsNode (.refl _)))

theorem exec_remapAck_of_wanted {s : State} {node : Nat} (h : s.twin.node = some node) (wanted : s.twin.remapWanted = true) :
    exec .remapAck s = .next (settleFailover { mapTwin (fun t => { t with remapWanted := false, assumed := some node }) s with
      fab := { s.fab with assumed := if s.fab.assumed.contains node then s.fab.assumed else s.fab.assumed ++ [node] } }) := by
  change execRemapAck s = _
  rw [execRemapAck, h]
  exact if_neg (by simp [wanted])

theorem exec_stepImage_of_due {s : State} {slice : Nat} {sl : Slice} {g : Graph} {l : GLaunch} (found : findSlice s slice = some sl)
    (due : imageDue sl = some (g, l)) (mirrors : mirroring s = true) (runs : sl.aborted = false) (ctx : (findContext s slice).isSome = true) :
    exec (.stepImage slice) s = .next (mapSlice slice (fun y => { mapLaunch g.handle l.number (fun l => { l with imageSent := true }) y with
      dirtyPages := [] }) (sendImage (sliceImage s sl l.stepNo true (dirtyRanges s sl)) s)) := by
  have here : (findContext s slice).isNone = false := by
    rw [Option.isSome_iff_exists] at ctx
    obtain ⟨x, hx⟩ := ctx
    rw [hx]
    rfl
  change execStepImage slice s = _
  simp only [execStepImage, found, due]
  exact if_neg (by simp [mirrors, runs, here])

theorem exec_twinProbeTimeout_of_probe {s : State} {t : Nat} (probing : s.twin.probing = some t) : exec .twinProbeTimeout s =
    if pairedNow s && anyGroupUp s && decide (t + 2343750 ≤ now s) then .next (beginFailover true s) else .next s := by
  change execTwinProbeTimeout s = _
  rw [execTwinProbeTimeout, probing]

/-- Settles O49. -/
theorem recoveryEvents : Obligations.RecoveryEvents := by
  refine ⟨fun s u eng => ⟨fun why ok free cause => exec_resetRung_of_due ok free (rungDue_of_cause cause), fun why h => ?_, fun id l found => ?_,
      fun k hk early => ?_, fun k hk late up => ?_, fun k ok hk down => exec_schedRestart_of_restarting hk down ok,
      fun runs idle => (exec_lockstepMismatch_of_running runs).1 idle, fun k runs held => (exec_lockstepMismatch_of_running runs).2 k held,
      fun t since none' => ?_, fun t since holder => ?_, fun r lead => if_pos lead,
      fun c second third empty found => ⟨fun same => ?_, fun other => ?_⟩, fun c found => exec_patrolDiscard_of_capture found⟩,
    fun s => ⟨fun slice sl g l found due mirrors runs ctx => exec_stepImage_of_due found due mirrors runs ctx, fun paired quiet => ⟨fun late => ?_, fun early => ?_⟩,
      fun t probing => ⟨fun paired up late => ?_, fun no => ?_⟩, fun node h wanted => ?_, fun node h => beginFailover_twin h true⟩⟩
  · refine if_pos ?_
    rcases h with h | ⟨rfl, early⟩
    · simp [h]
    · have notDue : rungDue s u .notStopped = false := Bool.eq_false_iff.2 fun due => by
        obtain ⟨t, mem, late⟩ := rungDue_notStopped.1 due
        exact absurd late (Nat.not_le.2 (early t mem))
      simp [notDue]
  · have expiry := exec_rungLimitExpiry_of_ladder found
    have complete := exec_rungComplete_of_ladder found
    refine ⟨fun early => expiry.trans (if_pos early), fun late => ?_, fun back one all => ?_, fun back one some' => ?_, fun back two => ?_⟩
    · replace expiry := expiry.trans (if_neg (Nat.not_lt.2 late))
      refine ⟨fun r => expiry.trans ?_, fun r => expiry.trans ?_, fun r => expiry.trans ?_, fun r => expiry.trans ?_⟩
      · simp only [nextRung, r]
      · simp only [nextRung, r]
      · simp only [nextRung, r]
      · simp only [nextRung, r]
    · exact ((complete back).trans (if_pos one)).trans (congrArg _ (ladderBack_of_all all id s))
    · exact ((complete back).trans (if_pos one)).trans (congrArg _ (ladderBack_of_some some' id s))
    · exact (complete back).trans (if_neg (by omega))
  · exact (if_neg (Nat.not_le.2 hk)).trans (if_pos early)
  · exact (if_neg (Nat.not_le.2 hk)).trans ((if_neg (Nat.not_lt.2 late)).trans (if_neg (Bool.eq_false_iff.1 up)))
  · exact (exec_lockstepRestart_of_since since).trans (by rw [if_neg (by simp [none'])])
  · exact (exec_lockstepRestart_of_since since).trans (by rw [if_pos (Option.isSome_iff_ne_none.2 holder)])
  · exact (exec_patrolRun_of_capture empty found second third).trans (if_pos same)
  · exact (exec_patrolRun_of_capture empty found second third).trans (if_neg other)
  · exact if_pos (by simp [paired, quiet, late])
  · exact if_neg (by simp [Nat.not_le.2 early])
  · exact (exec_twinProbeTimeout_of_probe probing).trans (if_pos (by simp [paired, up, late]))
  · refine (exec_twinProbeTimeout_of_probe probing).trans (if_neg ?_)
    rcases no with h | h
    · simp [h]
    · simp [Nat.not_le.2 h]
  · refine ⟨_, exec_remapAck_of_wanted h wanted, ?_⟩
    obtain ⟨nodes, remap, assumed⟩ := settleFailover_remap { mapTwin (fun t => { t with remapWanted := false, assumed := some node }) s with
      fab := { s.fab with assumed := if s.fab.assumed.contains node then s.fab.assumed else s.fab.assumed ++ [node] } }
    rw [nodes, remap, assumed]
    refine ⟨?_, rfl, rfl, fun n hn => ?_⟩
    · dsimp only
      split
      · next held => exact List.contains_iff_mem.1 held
      · exact List.mem_append_right _ (List.mem_singleton.2 rfl)
    · dsimp only
      split
      · exact hn
      · exact List.mem_append_left _ hn

end Sys2Proof.Machine
